-- ==== Sys2Proof/Word.lean ====
section
/-! DEFINITION. The word types of the module and the index types that name its units (R3, R6, Table 0.2). -/

namespace Sys2Proof

/-- A byte. -/
abbrev Byte := BitVec 8
/-- A register, R3: 64 bits. -/
abbrev Word := BitVec 64
/-- A status code, R7: 16 bits, the high byte its class. -/
abbrev Status := BitVec 16
/-- A host slot S0 to S3. -/
abbrev Slot := Fin 4
/-- A logical cell code: the pair in bits 8:4, the row in bits 3:0 (file 02, registers). -/
abbrev Cell := Fin 512
/-- A Raler context: 2p the job context of RPp, 2p + 1 its supervisor context (R319). -/
abbrev Ctx := Fin 8
/-- A Raler register g0 to g31. -/
abbrev GReg := Fin 32
/-- A Miled port P0 to P7. -/
abbrev Port := Fin 8
/-- A window slot W0 to W63. -/
abbrev Win := Fin 64
/-- A service SV0 to SV15. -/
abbrev Svc := Fin 16
/-- A stream descriptor index, R169. -/
abbrev Desc := Fin 2048

/-- A sparse table: keys strictly rising, no entry that holds the default. -/
abbrev Tbl (α : Type) := List (Nat × α)

end Sys2Proof
end

