-- ==== Sys2Proof/Syntax.lean ====
section
/-! DEFINITION. The commands of the module: one constructor per row of spec/opcode_table.json. A command is one indivisible
step of the module: an access from a host or the management port, an instruction that a Raler context executes, a frame
that arrives, a pin, or an event inside the module. -/

namespace Sys2Proof

/-- The three networks, encoded 0, 1, 2 (file 02). -/
inductive Net where
  | vector | scalar | control
  deriving DecidableEq, Repr

/-- The sides of a cell: port indices 0 to 3 of Table 2.1. -/
inductive Side where
  | north | east | south | west
  deriving DecidableEq, Repr

/-- What an error check finds (R30, R90): nothing, an error it corrects, an error it cannot correct. -/
inductive Check where
  | clean | corrected | uncorrectable
  deriving DecidableEq, Repr

/-- The place of a word that the vector pipeline checks (R66): 0 to 7 a slot of the finished-tile queue, 8 to 15 tile register 0
to 7, and the row. -/
structure VecWord where
  place : Fin 16
  row : Fin 64
  deriving DecidableEq, Repr

/-- What the vector pipeline's check of the words that it reads finds (R66): the record of an uncorrectable word names its place. -/
inductive VecCheck where
  | clean | corrected
  | uncorrectable (word : VecWord)
  deriving DecidableEq, Repr

/-- Where the entry that a CREDIT_RETURN releases waits: a switch input queue, or an input queue of the CU's matrix engine. -/
inductive QueueAt where
  | switchInput (net : Net) (port : Fin 6)
  | operandA | operandB
  deriving DecidableEq, Repr

/-- What the NAND of the store reports of a stripe that is read (R190): the shards that its LDPC code cannot correct, and the bit errors
corrected in each shard. -/
structure ShardRead where
  stripe : Fin 134217728
  missing : BitVec 8
  corrected : List Nat
  deriving DecidableEq, Repr

/-- A store channel after writes (R186, R192): the rated wear used and the spare blocks left, in percent. -/
structure ChanWear where
  chan : Fin 8
  wear : Byte
  spare : Fin 101
  deriving DecidableEq, Repr

/-- What the NAND reports while a command works. -/
structure Nand where
  reads : List ShardRead
  wears : List ChanWear
  deriving DecidableEq, Repr

/-- A Separator queue whose head begins to run (R201), with what the NAND reports on what it reads. -/
structure SepTurn where
  urgent : Bool
  nand : Nand
  deriving DecidableEq, Repr

/-- The stations of a Separator command's work that its row covers: the Raler instruction SEP that issues it, and the work
that the Separator does once the command runs (R201). -/
inductive SepPhase where
  | issue (ctx : Ctx) (rd rs1 : GReg)
  | work (nand : Nand)
  deriving DecidableEq, Repr

/-- The row tag of R265 and R301. -/
structure RowTag where
  home : Byte
  dispatch : Fin 16
  epoch : BitVec 16
  awin : Win
  agen : Byte
  aslot : BitVec 13
  deriving DecidableEq, Repr

/-- The CRED and DATA frames of Table 13.2 with their type-specific fields. -/
inductive Body where
  | wreq (win : Win) (gen : Byte) (n : Byte) (epoch : Option (BitVec 16))
  | wgrant (win : Win) (gen : Byte) (g : Byte) (status : Status)
  | write (win : Win) (gen : Byte) (offset : BitVec 21) (data : List Byte)
  | add (win : Win) (gen : Byte) (offset : BitVec 21) (data : List Byte)
  | row (win : Win) (gen : Byte) (offset : BitVec 21) (tag : RowTag) (data : List Byte)
  | answer (win : Win) (gen : Byte) (offset : BitVec 21) (epoch : BitVec 16) (aslot : BitVec 13) (data : List Byte)
  | wnak (win : Win) (gen : Byte) (offset : BitVec 21) (status : Status)
  | wreturn (win : Win) (gen : Byte) (n : Byte)
  | close (win : Win) (gen : Byte)
  | marker (win : Win) (gen : Byte) (queue : BitVec 10) (sender : Byte) (epoch : BitVec 16) (count : BitVec 12) (plain : Bool)
  | msg (data : List Byte)
  | msgnak (status : Status)
  | lost (cause : Status) (module : BitVec 16)
  deriving DecidableEq, Repr

/-- A CRED or DATA frame: the header fields of Table 13.1 that routing reads, and its body. -/
structure Frame where
  src : BitVec 16
  dst : BitVec 16
  part : Byte
  dl : Bool
  body : Body
  deriving DecidableEq, Repr

/-- How a frame for this module arrives: on a port with its LSEQ, or through the loopback (R302). -/
inductive Via where
  | port (p : Port) (lseq : BitVec 16)
  | loopback
  deriving DecidableEq, Repr

/-- The header of a frame whose DST is this module. -/
structure Rx where
  via : Via
  src : BitVec 16
  part : Byte
  dl : Bool
  deriving DecidableEq, Repr

/-- The slot-map descriptors that the Cellar re-arms (Table 11.2). -/
inductive MapDesc where
  | kvRead | kvWrite | prompt | out
  deriving DecidableEq, Repr

/-- Why a port declares its link down (R308, R311). -/
inductive DownCause where
  | signalLoss | lockLoss | silence | identity | tooFewLanes | refclk
  deriving DecidableEq, Repr

/-- What a port's receiver counts from one heartbeat to the next (R285, R286): codewords corrected and uncorrectable, and bit errors of
the PRBS31 that L12 carries while it is out of service. -/
structure LineErrors where
  corr : Nat := 0
  uncorr : Nat := 0
  l12 : Nat := 0
  deriving DecidableEq, Repr

/-- What a heartbeat brings beside its STATE: its LEAVING bit (R288), and what its receiver has counted since the last. -/
structure HeartbeatNews where
  leaving : Bool
  errors : LineErrors := {}
  deriving DecidableEq, Repr

/-- The sensor classes, THERM_STATE SOURCE: D0, D1, HBM, Vat, store, regulators. -/
inductive Sensor where
  | d0 | d1 | hbm | vat | store | regulators
  deriving DecidableEq, Repr

/-- Which word an uncorrectable error strikes (R414): of the tables, or of control memory, with the context that reads it there. -/
inductive TableWord where
  | sequence (seq : Fin 4096)
  | indexEntry (block : Nat)
  | request (svc : Svc) (k : Win)
  | control (ctx : Ctx) (addr : BitVec 23)
  deriving DecidableEq, Repr

/-- What starts a warned removal (R438). -/
inductive RemovalStart where
  | lever | button | thermal | regulator
  deriving DecidableEq, Repr

/-- The measurements the power controller takes every 1 µs and predicts from (R366, R369): the 1 ms mean, the largest 10 µs
mean, the input voltage in 0.1 V, and the draw predicted at each of the 21 frequencies, in W. -/
structure PowerReading where
  mean : Nat
  max10 : Nat
  inputDv : Nat
  predicted : List Nat
  deriving DecidableEq, Repr

/-- What the conductor of the tray sets on J4 before a power-up: the split pins and the management pins (R339, R432). -/
structure Straps where
  split0 : Bool
  split1 : Bool
  mgmtAddr : Fin 8
  smbus : Bool
  deriving DecidableEq, Repr

/-- The commands. -/
inductive Instr where
  -- host register access (R3, R445); widths are in bytes
  | hostRegisterWrite (slot : Slot) (bar2 : Bool) (offset width value : Nat)
  | hostRegisterReadBadWidth (slot : Slot) (bar2 : Bool) (offset width : Nat)
  -- the grid (files 02 to 06)
  | linkEntryReceive (cell : Cell) (net : Net) (port : Fin 6) (check : Check)
  | beatBegin (timer : Fin 8)
  | beatEnd (timer : Fin 8)
  | beatOverrun (timer : Fin 8)
  | gridHang (timer : Fin 8)
  | matrixTileComplete (cell : Cell) (upsetElem : Fin 4096) (upset : Int)
  | tileDrain (cell : Cell)
  | bPanelLoad (cell : Cell)
  | vectorRowEnter (cell : Cell) (check : VecCheck)
  | tileEndCommit (cell : Cell) (check : VecCheck)
  | muGeneratorAccess (cell : Cell) (write : Bool) (check : Check)
  | flipRequest (cell : Cell)
  | flipTakeEffect (cell : Cell)
  | windowCloseComplete (w : Win)
  | closeTimeout (w : Win)
  | bankZeroDone (cell : Cell) (bank : Fin 32)
  | bankWake (cell : Cell) (bank : Fin 32)
  | muPeek (slot : Slot)
  | steerFire (cell : Cell) (su : Fin 4)
  -- the Churn (file 07)
  | registrationComplete (img : Fin 64)
  | shadowLoadComplete
  | switchTokenInject
  | switchTokenArrive (cell : Cell) (side : Side) (parityBad : Bool)
  | cellCommit (cell : Cell)
  | waveComplete
  | swapStalled
  -- tiers and streams (file 08)
  | pageMoveComplete (page : Nat)
  | frameZeroDone (vat : Bool) (frame : Nat)
  | streamTransferStart (d : Desc)
  | streamTransferComplete (d : Desc)
  | streamHaltedAbsent (d : Desc)
  | tierUncorrectable (sched : Bool) (index : Nat) (addr : BitVec 48)
  | prefetchLate (entry : Fin 8192)
  -- the Separator (file 09)
  | sepCommandStart (turn : SepTurn)
  | sepCommandComplete (urgent : Bool)
  | sepPack (ph : SepPhase)
  | sepLoad (ph : SepPhase)
  | sepSpill (ph : SepPhase)
  | sepRestore (ph : SepPhase)
  | sepDelete (ph : SepPhase)
  | sepPublish (ph : SepPhase)
  | sepDrop (ph : SepPhase)
  | storeScrub (nand : Nand)
  -- admission (file 10)
  | svcOpen (slot : Slot) (svc : Svc) (reopenMs : BitVec 40)
  | svcClose (slot : Slot) (svc : Svc) (reopenMs : BitVec 40)
  | roundEnd (svc : Svc)
  | promiseBroken (svc : Svc) (k : Win)
  | requestCompletion (svc : Svc) (k : Win)
  -- the Cellar (file 11)
  | blockCopyComplete (copy : Nat)
  | slotMapRearm (svc : Svc) (k : Win) (which : MapDesc)
  | release (slot : Slot) (seq : Fin 4096)
  | dropPrefix (slot : Slot) (svc : Svc)
  | csKvareaWrite (slot : Slot) (svc : Svc) (value : Word)
  | csPoolWrite (slot : Slot) (svc : Svc) (value : Word)
  -- the Ladle (file 12)
  | ladleRowSend (d : Fin 16)
  | ladleRow (rx : Rx) (win : Win) (gen : Byte) (offset : BitVec 21) (tag : RowTag) (data : List Byte)
  | ladleAnswerSend (c : Fin 64)
  | ladleAnswer (rx : Rx) (win : Win) (gen : Byte) (offset : BitVec 21) (epoch : BitVec 16) (aslot : BitVec 13) (data : List Byte)
  | ladleStalled (collector : Bool) (index : Fin 64)
  -- the ring (file 13)
  | portTrained (p : Port) (lanesOk : BitVec 13)
  | frameTransmit (p : Port) (part : Byte) (data : Bool)
  | crcFailure (p : Port) (malformed : Bool)
  | transitFrame (p : Port) (lseq : BitVec 16) (f : Frame)
  | wreq (rx : Rx) (win : Win) (gen : Byte) (n : Byte) (epoch : Option (BitVec 16))
  | wgrant (rx : Rx) (win : Win) (gen : Byte) (g : Byte) (status : Status)
  | write (rx : Rx) (win : Win) (gen : Byte) (offset : BitVec 21) (data : List Byte)
  | reduceFrame (rx : Rx) (win : Win) (gen : Byte) (offset : BitVec 21) (data : List Byte)
  | wnak (rx : Rx) (win : Win) (gen : Byte) (offset : BitVec 21) (status : Status)
  | wreturn (rx : Rx) (win : Win) (gen : Byte) (n : Byte)
  | close (rx : Rx) (win : Win) (gen : Byte)
  | marker (rx : Rx) (win : Win) (gen : Byte) (queue : BitVec 10) (sender : Byte) (epoch : BitVec 16) (count : BitVec 12) (plain : Bool)
  | msg (rx : Rx) (data : List Byte)
  | msgnak (rx : Rx) (status : Status)
  | lost (rx : Rx) (cause : Status) (module : BitVec 16)
  | ack (p : Port) (ackLseq releaseLseq : BitVec 16) (nak : Bool) (creditPart : Byte) (creditDl : Bool) (creditFlits : BitVec 16)
  | ackSend (p : Port)
  | ident (p : Port) (serial : Word) (farPort : Port) (planId : BitVec 32) (src : BitVec 16)
  | identSend (p : Port)
  | heartbeat (p : Port)
  | linkDown (p : Port) (cause : DownCause)
  | break (p : Port) (axis : Fin 4) (position : BitVec 4) (up : Bool)
  | routeRestore (axis : Fin 4)
  | laneRetire (p : Port) (lane : Fin 13)
  | swap (p : Port) (lane : Fin 13) (width : BitVec 4)
  | leaving (p : Port) (done : Bool)
  | leavingDoneSend
  | ringSenderUnitSend (n : Fin 64)
  | planLoad (slot : Slot) (value : Word)
  | berTestStart (slot : Slot) (p : Port) (value : Word)
  | berTestEnd (p : Port) (errors : List Nat)
  -- Raler programs (file 14)
  | programQueueTailWrite (slot : Slot) (page : Option Slot) (q : Fin 4) (tail : BitVec 32)
  | programStart (rp : Fin 4)
  | illegalInstruction (ctx : Ctx)
  | add (ctx : Ctx) (rd rs1 rs2 : GReg)
  | sub (ctx : Ctx) (rd rs1 rs2 : GReg)
  | and (ctx : Ctx) (rd rs1 rs2 : GReg)
  | or (ctx : Ctx) (rd rs1 rs2 : GReg)
  | xor (ctx : Ctx) (rd rs1 rs2 : GReg)
  | sll (ctx : Ctx) (rd rs1 rs2 : GReg)
  | srl (ctx : Ctx) (rd rs1 rs2 : GReg)
  | sra (ctx : Ctx) (rd rs1 rs2 : GReg)
  | mul (ctx : Ctx) (rd rs1 rs2 : GReg)
  | mulhu (ctx : Ctx) (rd rs1 rs2 : GReg)
  | divu (ctx : Ctx) (rd rs1 rs2 : GReg)
  | remu (ctx : Ctx) (rd rs1 rs2 : GReg)
  | slt (ctx : Ctx) (rd rs1 rs2 : GReg)
  | sltu (ctx : Ctx) (rd rs1 rs2 : GReg)
  | addi (ctx : Ctx) (rd rs1 : GReg) (x : Bool) (imm : BitVec 47)
  | andi (ctx : Ctx) (rd rs1 : GReg) (x : Bool) (imm : BitVec 47)
  | ori (ctx : Ctx) (rd rs1 : GReg) (x : Bool) (imm : BitVec 47)
  | xori (ctx : Ctx) (rd rs1 : GReg) (x : Bool) (imm : BitVec 47)
  | slti (ctx : Ctx) (rd rs1 : GReg) (x : Bool) (imm : BitVec 47)
  | sltiu (ctx : Ctx) (rd rs1 : GReg) (x : Bool) (imm : BitVec 47)
  | slli (ctx : Ctx) (rd rs1 : GReg) (amount : BitVec 6)
  | srli (ctx : Ctx) (rd rs1 : GReg) (amount : BitVec 6)
  | srai (ctx : Ctx) (rd rs1 : GReg) (amount : BitVec 6)
  | li (ctx : Ctx) (rd : GReg) (x : Bool) (imm : BitVec 47)
  | lih (ctx : Ctx) (rd : GReg) (ext : BitVec 32)
  | beq (ctx : Ctx) (rs1 rs2 : GReg) (x : Bool) (off : BitVec 47)
  | bne (ctx : Ctx) (rs1 rs2 : GReg) (x : Bool) (off : BitVec 47)
  | blt (ctx : Ctx) (rs1 rs2 : GReg) (x : Bool) (off : BitVec 47)
  | bge (ctx : Ctx) (rs1 rs2 : GReg) (x : Bool) (off : BitVec 47)
  | bltu (ctx : Ctx) (rs1 rs2 : GReg) (x : Bool) (off : BitVec 47)
  | bgeu (ctx : Ctx) (rs1 rs2 : GReg) (x : Bool) (off : BitVec 47)
  | jal (ctx : Ctx) (rd : GReg) (x : Bool) (off : BitVec 47)
  | jalr (ctx : Ctx) (rd rs1 : GReg) (x : Bool) (imm : BitVec 47)
  | ld (ctx : Ctx) (rd rs1 : GReg) (x : Bool) (imm : BitVec 47)
  | lw (ctx : Ctx) (rd rs1 : GReg) (x : Bool) (imm : BitVec 47)
  | lbu (ctx : Ctx) (rd rs1 : GReg) (x : Bool) (imm : BitVec 47)
  | sd (ctx : Ctx) (rs rs1 : GReg) (x : Bool) (imm : BitVec 47)
  | sw (ctx : Ctx) (rs rs1 : GReg) (x : Bool) (imm : BitVec 47)
  | sb (ctx : Ctx) (rs rs1 : GReg) (x : Bool) (imm : BitVec 47)
  | aadd (ctx : Ctx) (rd rs1 rs2 : GReg)
  | cas (ctx : Ctx) (rd rs1 rs2 rs3 : GReg)
  | rdreg (ctx : Ctx) (rd rs1 : GReg) (x : Bool) (imm : BitVec 47)
  | wrreg (ctx : Ctx) (rs rs1 : GReg) (x : Bool) (imm : BitVec 47)
  | wait (ctx : Ctx) (rd rs1 rs2 : GReg)
  | waitTimeout (ctx : Ctx)
  | evpop (ctx : Ctx) (rd : GReg)
  | signal (ctx : Ctx) (rs1 rs2 : GReg)
  | settimer (ctx : Ctx) (rs1 : GReg)
  | timerExpire (ctx : Ctx)
  | rdtime (ctx : Ctx) (rd : GReg)
  | halt (ctx : Ctx) (rs1 : GReg)
  | fence (ctx : Ctx)
  | creg (ctx : Ctx) (rd rs1 : GReg)
  | cload (ctx : Ctx) (rd rs1 : GReg)
  | cswap (ctx : Ctx) (rd : GReg)
  | crel (ctx : Ctx) (rd rs1 : GReg)
  | arm (ctx : Ctx) (rd rs1 : GReg)
  | rearm (ctx : Ctx) (rd rs1 rs2 rs3 : GReg) (imm : Option (BitVec 32))
  | resume (ctx : Ctx) (rd rs1 : GReg)
  | flip (ctx : Ctx) (rd rs1 rs2 : GReg)
  | wopen (ctx : Ctx) (rd rs1 : GReg)
  | wclose (ctx : Ctx) (rd rs1 rs2 : GReg)
  | wbind (ctx : Ctx) (rd rs1 rs2 rs3 : GReg)
  | sbind (ctx : Ctx) (rd rs1 rs2 : GReg)
  | mapPages (ctx : Ctx) (rd rs1 rs2 rs3 : GReg)
  | unmap (ctx : Ctx) (rd rs1 rs2 : GReg)
  | promote (ctx : Ctx) (rd rs1 rs2 : GReg)
  | demote (ctx : Ctx) (rd rs1 rs2 : GReg)
  | sbase (ctx : Ctx) (rd rs1 rs2 : GReg)
  | admitRequest (ctx : Ctx) (rd rs1 rs2 : GReg)
  | round (ctx : Ctx) (rd rs1 rs2 rs3 : GReg)
  | cancel (ctx : Ctx) (rd rs1 rs2 : GReg)
  | msend (ctx : Ctx) (rd rs1 rs2 rs3 : GReg)
  | mrecv (ctx : Ctx) (rd rs1 : GReg)
  | save (ctx : Ctx) (rd : GReg)
  | restore (ctx : Ctx) (rd rs1 : GReg)
  | saveComplete (areaBad : Bool)
  | restoreComplete
  | processorReplaced (rp : Fin 4)
  -- hosts and jobs (file 15)
  | slotLinkUp (slot : Slot) (width rate : Nat)
  | slotLinkDown (slot : Slot)
  | ownClaim (slot : Slot) (nonce : Word)
  | ownHeartbeat (slot : Slot) (nonce : Word)
  | ownRelease (slot : Slot) (nonce : Word)
  | ownHandover (slot : Slot) (valid : Bool) (target : Slot)
  | leaseExpire
  | handoverLapse
  | snapshotPublish
  | rqTailWrite (slot page : Slot) (tail : BitVec 32)
  | requestRingWrite (slot page : Slot) (offset : Nat) (data : List Byte)
  | crHeadWrite (slot page : Slot) (head : BitVec 32)
  | bar4Read (slot : Slot) (offset len : Nat)
  | bar4Write (slot : Slot) (offset : Nat) (data : List Byte)
  | controlMemoryApertureAccess (slot : Slot) (write : Bool) (offset width value : Nat)
  | jobStart (slot : Slot) (jobId : BitVec 16) (ptEntry : Fin 32) (noRing : Bool)
  | jobRunning
  | jobEnd (slot : Slot) (jobId : BitVec 16)
  | jobEndComplete
  | jobFault (code : Status)
  -- clocks, power and heat (file 16)
  | refclkLost
  | refclkRelock
  | refclkLinkLost
  | refclkHostLost (hostPort : Fin 2)
  | pwrCapWrite (value : Word)
  | capTimeout
  | capLoopEvaluation (reading : PowerReading)
  | fastCapStep (reading : PowerReading)
  | fastcapRelease
  | droop (steps : Fin 5)
  | droopRecover
  | thermalWarn (src : Sensor) (celsius : Nat)
  | thermalTrip (src : Sensor) (celsius : Nat)
  | thermalRecover
  | thermalShutdown (src : Sensor) (celsius : Nat)
  | coolantOutOfRating (inlet outlet flow : BitVec 12)
  | inputLow (dv : BitVec 12)
  | inputHigh (dv : BitVec 12)
  | brownOut
  -- bring-up (file 17)
  | coldPowerUp (straps : Straps)
  | modEnDeassert
  | perst (hostPort : Fin 2) (asserted : Bool)
  | ready
  | bringupFailed (cause : Fin 8)
  | vatZeroComplete
  | warmReset (pin : Bool)
  | fwBegin (size : BitVec 25)
  | fwData (data : Word)
  | fwCommit (storeWriteOk : Bool)
  | fwAbort
  | mgmtRegisterWrite (offset : Nat) (data : List Byte) (pecOk : Bool)
  -- faults, spares and ageing (file 18)
  | checkpoint
  | unitFault (cell : Cell) (code : Status) (inMu : Bool)
  | frameRetired (frame : Nat)
  | frameRetireComplete (frame : Nat) (badWords : List Nat)
  | vatChannelReplace (channel : Fin 96)
  | vatChannelReplaced (channel : Fin 96) (badGranules : List Nat)
  | vatChannelLost (channel : Fin 96)
  | stackFailed (stack : Fin 12)
  | regPhaseLost (rail : Fin 64)
  | laneRestore (slot : Slot) (p : Port) (lane : Fin 13)
  | laneRestoreEnd (errors : Nat)
  | spareTest (slot : Option Slot)
  | inject (slot : Slot) (cell : Cell) (kind : Fin 4)
  | replace (slot : Slot) (channel : Fin 128)
  | cellarUncorrectable (word : TableWord)
  | ageingUpdate (region : Fin 62) (eolDays : BitVec 16) (confidence : BitVec 7) (spare : Fin 9) (metric : BitVec 16)
  -- the service panel and the pins (file 19)
  | warnedRemoval (start : RemovalStart)
  | attnShort
  | attnLong
  | latchReturn
  | locate (slot : Option Slot) (on : Bool)
  | inputLoss
  | creditReturn (cell : Cell) (queue : QueueAt)
  | laneSwapped (p : Port)
  | heartbeatReceive (p : Port) (state : BitVec 3) (news : HeartbeatNews)
  | wreqRetry (n : Nat)
  | mapComplete (ctx : Ctx) (ticket : BitVec 16)
  | spareTestComplete (pass0 pass1 : Bool)
  | coolantInRating (inlet outlet flow : BitVec 12)
  | inputRestored (dv : BitVec 12)
  | refclkLinkRelock
  | refclkHostRelock (hostPort : Fin 2)
  | latchClosed (closed : Bool)
  | setdasa (addr : BitVec 7)
  deriving DecidableEq, Repr

end Sys2Proof
end

