-- ==== Sys2Proof/Machine/Bits.lean ====
section
/-! DEFINITION. Bytes, little-endian words, bit fields and sparse tables: the data the whole model is written in. -/

namespace Sys2Proof

/-- The little-endian number that a byte list spells, R3. -/
def leNat : List Byte → Nat
  | [] => 0
  | b :: bs => b.toNat + 256 * leNat bs

/-- The `n` bytes of a number, least significant first, R3. -/
def leBytes : Nat → Nat → List Byte
  | 0, _ => []
  | n + 1, v => BitVec.ofNat 8 v :: leBytes n (v / 256)

/-- Bits `lo + w - 1 : lo` of a number. -/
def bits (v lo w : Nat) : Nat := v / 2 ^ lo % 2 ^ w

/-- Bit `i` of a number. -/
def bit (v i : Nat) : Bool := v / 2 ^ i % 2 == 1

/-- A number whose bit or field at `lo` is `x`: the summand of a register's image. -/
def fld (lo : Nat) (x : Nat) : Nat := x * 2 ^ lo

/-- One bit of a register's image. -/
def flg (lo : Nat) (b : Bool) : Nat := if b then 2 ^ lo else 0

/-- The number `v` of `w` bits read as two's complement. -/
def sgn (w v : Nat) : Int := if v < 2 ^ (w - 1) then (v : Int) else (v : Int) - 2 ^ w

/-- An integer reduced to `w` bits. -/
def unsgn (w : Nat) (v : Int) : Nat := (v % (2 ^ w : Int)).toNat

/-- `bs` from byte `off`, `n` bytes, as a little-endian number; bytes beyond the end count as zero. -/
def leAt (bs : List Byte) (off n : Nat) : Nat := leNat ((bs.drop off).take n)

/-- The bytes of `data` written over `bs` from `off`. -/
def splice (bs : List Byte) (off : Nat) (data : List Byte) : List Byte :=
  bs.take off ++ data ++ bs.drop (off + data.length)

/-- A list cut into `n` pieces of `k` elements. -/
def pieces {α : Type} (k : Nat) : Nat → List α → List (List α)
  | 0, _ => []
  | n + 1, l => l.take k :: pieces k n (l.drop k)

/-- The numbers of a list of `w`-bit fields packed from bit 0 upwards. -/
def unpack (w : Nat) : Nat → Nat → List Nat
  | 0, _ => []
  | n + 1, v => v % 2 ^ w :: unpack w n (v / 2 ^ w)

/-- Fields of `w` bits packed from bit 0 upwards. -/
def pack (w : Nat) : List Nat → Nat
  | [] => 0
  | x :: xs => x + 2 ^ w * pack w xs

namespace Tbl

variable {α : Type}

/-- The value at key `k`: the default where the table lists none. -/
def get (d : α) : List (Nat × α) → Nat → α
  | [], _ => d
  | (j, v) :: t, k => if j = k then v else if k < j then d else get d t k

/-- The table without key `k`. -/
def erase : List (Nat × α) → Nat → List (Nat × α)
  | [], _ => []
  | (j, v) :: t, k => if j = k then t else if k < j then (j, v) :: t else (j, v) :: erase t k

/-- The table with `v` at key `k`, in key order. -/
def insert : List (Nat × α) → Nat → α → List (Nat × α)
  | [], k, v => [(k, v)]
  | (j, w) :: t, k, v =>
    if j = k then (k, v) :: t else if k < j then (k, v) :: (j, w) :: t else (j, w) :: insert t k v

/-- The table with `v` at key `k`; the default is not listed. -/
def set [DecidableEq α] (d : α) (t : List (Nat × α)) (k : Nat) (v : α) : List (Nat × α) :=
  if v = d then erase t k else insert t k v

/-- Every listed key is at least `lo`, keys rise strictly, and no entry holds the default. -/
def wfFrom [DecidableEq α] (d : α) : Nat → List (Nat × α) → Bool
  | _, [] => true
  | lo, (k, v) :: t => decide (lo ≤ k) && decide (v ≠ d) && wfFrom d (k + 1) t

/-- The canonical form of a sparse table. -/
def wf [DecidableEq α] (d : α) (t : List (Nat × α)) : Bool := wfFrom d 0 t

end Tbl

/-- A memory: the bytes that are not zero, by address. -/
abbrev Bytes := List (Nat × Byte)

namespace Mem

/-- One byte of a memory; an unlisted byte reads 0 (R163: a frame is zeroed before it is used). -/
def read (m : Bytes) (a : Nat) : Byte := Tbl.get 0 m a

/-- One byte written; a zero is not listed. -/
def write (m : Bytes) (a : Nat) (b : Byte) : Bytes := Tbl.set 0 m a b

/-- `n` bytes read from `a` upwards. -/
def readN (m : Bytes) : Nat → Nat → List Byte
  | _, 0 => []
  | a, n + 1 => read m a :: readN m (a + 1) n

/-- The bytes of `data` written from `a` upwards. -/
def writeN (m : Bytes) : Nat → List Byte → Bytes
  | _, [] => m
  | a, b :: bs => writeN (write m a b) (a + 1) bs

/-- `n` bytes from `a` upwards set to zero. -/
def zero (m : Bytes) (a n : Nat) : Bytes := m.filter fun p => !(decide (a ≤ p.1) && decide (p.1 < a + n))

/-- The canonical form of a memory. -/
def wf (m : Bytes) : Bool := Tbl.wf 0 m

end Mem

/-- The list with element `i` replaced. -/
def upd {α : Type} (l : List α) (i : Nat) (f : α → α) : List α := l.modify i f

/-- Element `i` of a list, or a default. -/
def nth {α : Type} (d : α) (l : List α) (i : Nat) : α := l.getD i d

end Sys2Proof
end

