-- ==== Sys2Proof/Machine/Crypto.lean ====
section
/-! DEFINITION. The ciphers and codes of the store (file 09): GF(2^8) of R188, SHA-256 (FIPS 180-4), AES-256 (FIPS 197) in XTS
mode (IEEE 1619), and AES key wrap (SP 800-38F). -/

namespace Sys2Proof

/-! ### GF(2^8), R188 -/

/-- Multiplication by x under the polynomial 0x100 + `p`. -/
def gx (p : Byte) (a : Byte) : Byte := if a.getLsbD 7 then (a <<< 1) ^^^ p else a <<< 1

/-- The product of two elements, bit by bit of `b` from bit `i` upwards. -/
def gmulFrom (p : Byte) : Nat → Nat → Byte → Byte → Byte
  | 0, _, _, _ => 0
  | n + 1, i, a, b => (if b.getLsbD i then a else 0) ^^^ gmulFrom p n (i + 1) (gx p a) b

/-- R188: gmul, with the polynomial 0x11D. -/
def gmul (a b : Byte) : Byte := gmulFrom 0x1D 8 0 a b

/-- The power `a ^ n`. -/
def gpow (a : Byte) : Nat → Byte
  | 0 => 1
  | n + 1 => gmul a (gpow a n)

/-- The inverse: a^254. -/
def ginv (a : Byte) : Byte := gpow a 254

def xorBytes (a b : List Byte) : List Byte := List.zipWith (· ^^^ ·) a b

/-! ### SHA-256 -/

def shaK : List Nat :=
  [0x428A2F98, 0x71374491, 0xB5C0FBCF, 0xE9B5DBA5, 0x3956C25B, 0x59F111F1, 0x923F82A4, 0xAB1C5ED5]
  ++ [0xD807AA98, 0x12835B01, 0x243185BE, 0x550C7DC3, 0x72BE5D74, 0x80DEB1FE, 0x9BDC06A7, 0xC19BF174]
  ++ [0xE49B69C1, 0xEFBE4786, 0x0FC19DC6, 0x240CA1CC, 0x2DE92C6F, 0x4A7484AA, 0x5CB0A9DC, 0x76F988DA]
  ++ [0x983E5152, 0xA831C66D, 0xB00327C8, 0xBF597FC7, 0xC6E00BF3, 0xD5A79147, 0x06CA6351, 0x14292967]
  ++ [0x27B70A85, 0x2E1B2138, 0x4D2C6DFC, 0x53380D13, 0x650A7354, 0x766A0ABB, 0x81C2C92E, 0x92722C85]
  ++ [0xA2BFE8A1, 0xA81A664B, 0xC24B8B70, 0xC76C51A3, 0xD192E819, 0xD6990624, 0xF40E3585, 0x106AA070]
  ++ [0x19A4C116, 0x1E376C08, 0x2748774C, 0x34B0BCB5, 0x391C0CB3, 0x4ED8AA4A, 0x5B9CCA4F, 0x682E6FF3]
  ++ [0x748F82EE, 0x78A5636F, 0x84C87814, 0x8CC70208, 0x90BEFFFA, 0xA4506CEB, 0xBEF9A3F7, 0xC67178F2]

def shaH : List (BitVec 32) := [0x6A09E667, 0xBB67AE85, 0x3C6EF372, 0xA54FF53A, 0x510E527F, 0x9B05688C, 0x1F83D9AB, 0x5BE0CD19]

def rotr (x : BitVec 32) (n : Nat) : BitVec 32 := x.rotateRight n

/-- The words of a block from the last 16, oldest first. -/
def shaSchedule : Nat → List (BitVec 32) → List (BitVec 32)
  | 0, _ => []
  | n + 1, w =>
    let g := fun i => w.getD i 0
    let s0 := rotr (g 1) 7 ^^^ rotr (g 1) 18 ^^^ (g 1 >>> 3)
    let s1 := rotr (g 14) 17 ^^^ rotr (g 14) 19 ^^^ (g 14 >>> 10)
    g 0 :: shaSchedule n (w.drop 1 ++ [s1 + g 9 + s0 + g 0])

/-- One round. -/
def shaRound (h : List (BitVec 32)) (kw : Nat × BitVec 32) : List (BitVec 32) :=
  match h with
  | [a, b, c, d, e, f, g, i] =>
    let s1 := rotr e 6 ^^^ rotr e 11 ^^^ rotr e 25
    let ch := (e &&& f) ^^^ (~~~e &&& g)
    let t1 := i + s1 + ch + BitVec.ofNat 32 kw.1 + kw.2
    let s0 := rotr a 2 ^^^ rotr a 13 ^^^ rotr a 22
    let mj := (a &&& b) ^^^ (a &&& c) ^^^ (b &&& c)
    [t1 + (s0 + mj), a, b, c, d + t1, e, f, g]
  | _ => h

/-- A big-endian word of four bytes. -/
def beWord (bs : List Byte) : BitVec 32 := BitVec.ofNat 32 (leNat bs.reverse)

/-- One block of 64 bytes. -/
def shaBlock (h : List (BitVec 32)) (b : List Byte) : List (BitVec 32) :=
  let w := shaSchedule 64 ((pieces 4 16 b).map beWord)
  List.zipWith (· + ·) h ((shaK.zip w).foldl shaRound h)

/-- The SHA-256 digest. -/
def sha256 (m : List Byte) : List Byte :=
  let n := m.length
  let p := m ++ 0x80 :: List.replicate ((119 - n % 64) % 64) 0 ++ (leBytes 8 (8 * n)).reverse
  ((pieces 64 (p.length / 64) p).foldl shaBlock shaH).flatMap fun w => (leBytes 4 w.toNat).reverse

/-! ### AES-256 -/

def sbox : List Byte :=
  [0x63, 0x7C, 0x77, 0x7B, 0xF2, 0x6B, 0x6F, 0xC5, 0x30, 0x01, 0x67, 0x2B, 0xFE, 0xD7, 0xAB, 0x76]
  ++ [0xCA, 0x82, 0xC9, 0x7D, 0xFA, 0x59, 0x47, 0xF0, 0xAD, 0xD4, 0xA2, 0xAF, 0x9C, 0xA4, 0x72, 0xC0]
  ++ [0xB7, 0xFD, 0x93, 0x26, 0x36, 0x3F, 0xF7, 0xCC, 0x34, 0xA5, 0xE5, 0xF1, 0x71, 0xD8, 0x31, 0x15]
  ++ [0x04, 0xC7, 0x23, 0xC3, 0x18, 0x96, 0x05, 0x9A, 0x07, 0x12, 0x80, 0xE2, 0xEB, 0x27, 0xB2, 0x75]
  ++ [0x09, 0x83, 0x2C, 0x1A, 0x1B, 0x6E, 0x5A, 0xA0, 0x52, 0x3B, 0xD6, 0xB3, 0x29, 0xE3, 0x2F, 0x84]
  ++ [0x53, 0xD1, 0x00, 0xED, 0x20, 0xFC, 0xB1, 0x5B, 0x6A, 0xCB, 0xBE, 0x39, 0x4A, 0x4C, 0x58, 0xCF]
  ++ [0xD0, 0xEF, 0xAA, 0xFB, 0x43, 0x4D, 0x33, 0x85, 0x45, 0xF9, 0x02, 0x7F, 0x50, 0x3C, 0x9F, 0xA8]
  ++ [0x51, 0xA3, 0x40, 0x8F, 0x92, 0x9D, 0x38, 0xF5, 0xBC, 0xB6, 0xDA, 0x21, 0x10, 0xFF, 0xF3, 0xD2]
  ++ [0xCD, 0x0C, 0x13, 0xEC, 0x5F, 0x97, 0x44, 0x17, 0xC4, 0xA7, 0x7E, 0x3D, 0x64, 0x5D, 0x19, 0x73]
  ++ [0x60, 0x81, 0x4F, 0xDC, 0x22, 0x2A, 0x90, 0x88, 0x46, 0xEE, 0xB8, 0x14, 0xDE, 0x5E, 0x0B, 0xDB]
  ++ [0xE0, 0x32, 0x3A, 0x0A, 0x49, 0x06, 0x24, 0x5C, 0xC2, 0xD3, 0xAC, 0x62, 0x91, 0x95, 0xE4, 0x79]
  ++ [0xE7, 0xC8, 0x37, 0x6D, 0x8D, 0xD5, 0x4E, 0xA9, 0x6C, 0x56, 0xF4, 0xEA, 0x65, 0x7A, 0xAE, 0x08]
  ++ [0xBA, 0x78, 0x25, 0x2E, 0x1C, 0xA6, 0xB4, 0xC6, 0xE8, 0xDD, 0x74, 0x1F, 0x4B, 0xBD, 0x8B, 0x8A]
  ++ [0x70, 0x3E, 0xB5, 0x66, 0x48, 0x03, 0xF6, 0x0E, 0x61, 0x35, 0x57, 0xB9, 0x86, 0xC1, 0x1D, 0x9E]
  ++ [0xE1, 0xF8, 0x98, 0x11, 0x69, 0xD9, 0x8E, 0x94, 0x9B, 0x1E, 0x87, 0xE9, 0xCE, 0x55, 0x28, 0xDF]
  ++ [0x8C, 0xA1, 0x89, 0x0D, 0xBF, 0xE6, 0x42, 0x68, 0x41, 0x99, 0x2D, 0x0F, 0xB0, 0x54, 0xBB, 0x16]

def sub (b : Byte) : Byte := sbox.getD b.toNat 0

/-- The inverse of the S-box. -/
def invSub (b : Byte) : Byte := BitVec.ofNat 8 (sbox.findIdx fun x => x == b)

/-- The words of the expanded key: `n` more words, from the list of the words so far, newest first. -/
def aesExpand : Nat → Nat → Byte → List (List Byte) → List (List Byte)
  | 0, _, _, w => w
  | n + 1, i, rc, w =>
    let t := w.headD []
    let old := w.getD 7 []
    if i % 8 = 0 then
      let u := (t.drop 1 ++ t.take 1).map sub
      let u := (u.headD 0 ^^^ rc) :: u.drop 1
      aesExpand n (i + 1) (gx 0x1B rc) (xorBytes old u :: w)
    else if i % 8 = 4 then aesExpand n (i + 1) rc (xorBytes old (t.map sub) :: w)
    else aesExpand n (i + 1) rc (xorBytes old t :: w)

/-- The fifteen round keys of a 32-byte key. -/
def aesKeys (key : List Byte) : List (List Byte) :=
  pieces 16 15 (aesExpand 52 8 1 (pieces 4 8 key).reverse).reverse.flatten

/-- Byte 4c + r of the state comes from column c + r (or c − r): the row shifts. -/
def shiftRows (inv : Bool) (s : List Byte) : List Byte :=
  (List.range 16).map fun i => s.getD ((i + (if inv then 12 else 4) * (i % 4)) % 16) 0

/-- One column of four bytes under a circulant matrix. -/
def mixCol (m : List Byte) (c : List Byte) : List Byte :=
  (List.range 4).map fun r => (List.range 4).foldl (fun t k =>
    t ^^^ gmulFrom 0x1B 8 0 (c.getD k 0) (m.getD ((k + 4 - r) % 4) 0)) 0

def mixCols (m : List Byte) (s : List Byte) : List Byte := ((pieces 4 4 s).map (mixCol m)).flatten

/-- The cipher on one block with its round keys. -/
def aesEnc (keys : List (List Byte)) (b : List Byte) : List Byte :=
  let s := xorBytes b (keys.headD [])
  let s := ((keys.drop 1).take 13).foldl (fun s k => xorBytes (mixCols [2, 3, 1, 1] (shiftRows false (s.map sub))) k) s
  xorBytes (shiftRows false (s.map sub)) (keys.getD 14 [])

/-- The inverse cipher. -/
def aesDec (keys : List (List Byte)) (b : List Byte) : List Byte :=
  let s := (shiftRows true (xorBytes b (keys.getD 14 []))).map invSub
  let s := ((keys.drop 1).take 13).reverse.foldl (fun s k =>
    (shiftRows true (mixCols [14, 11, 13, 9] (xorBytes s k))).map invSub) s
  xorBytes s (keys.headD [])

/-! ### XTS, R193 -/

/-- A tweak times x in GF(2^128). -/
def xtsNext (t : List Byte) : List Byte :=
  let v := leNat t
  leBytes 16 (if 2 ^ 127 ≤ v then (2 * v % 2 ^ 128) ^^^ 0x87 else 2 * v)

/-- The blocks of a data unit; `f` is the cipher or its inverse. -/
def xtsBlocks (f : List Byte → List Byte) : Nat → List Byte → List Byte → List Byte
  | 0, _, _ => []
  | n + 1, t, bs => xorBytes (f (xorBytes (bs.take 16) t)) t ++ xtsBlocks f n (xtsNext t) (bs.drop 16)

/-- R193: one data unit of 4,096 bytes; the unit number holds the index in its low half and IMAGE_ID in its high half. -/
def xtsUnit (dec : Bool) (key : List Byte) (id : Nat) (index : Nat) (bs : List Byte) : List Byte :=
  let k1 := aesKeys (key.take 32)
  let t := aesEnc (aesKeys (key.drop 32)) (leBytes 16 (index + 2 ^ 64 * id))
  xtsBlocks (if dec then aesDec k1 else aesEnc k1) 256 t bs

/-- `n` data units from index `i`. -/
def xtsAll (dec : Bool) (key : List Byte) (id : Nat) : Nat → Nat → List Byte → List Byte
  | 0, _, _ => []
  | n + 1, i, bs => xtsUnit dec key id i (bs.take 4096) ++ xtsAll dec key id n (i + 1) (bs.drop 4096)

/-! ### AES key wrap, R194 -/

/-- The step counter in the integrity register. -/
def kwXor (a : List Byte) (t : Nat) : List Byte := xorBytes a (leBytes 8 t).reverse

/-- One wrapping step on register `i`, with step number `t`. -/
def kwStep (keys : List (List Byte)) (n : Nat) (st : List Byte × List (List Byte)) (t : Nat) : List Byte × List (List Byte) :=
  let i := (t - 1) % n
  let b := aesEnc keys (st.1 ++ st.2.getD i [])
  (kwXor (b.take 8) t, st.2.set i (b.drop 8))

/-- One unwrapping step. -/
def kuStep (keys : List (List Byte)) (n : Nat) (st : List Byte × List (List Byte)) (t : Nat) : List Byte × List (List Byte) :=
  let i := (t - 1) % n
  let b := aesDec keys (kwXor st.1 t ++ st.2.getD i [])
  (b.take 8, st.2.set i (b.drop 8))

/-- The wrap of a key of whole 8-byte pieces. -/
def keyWrap (kek key : List Byte) : List Byte :=
  let n := key.length / 8
  let r := ((List.range (6 * n)).map (· + 1)).foldl (kwStep (aesKeys kek) n) (List.replicate 8 0xA6, pieces 8 n key)
  r.1 ++ r.2.flatten

/-- The key that a wrap holds. -/
def keyUnwrap (kek w : List Byte) : List Byte :=
  let n := w.length / 8 - 1
  (((List.range (6 * n)).map (· + 1)).reverse.foldl (kuStep (aesKeys kek) n) (w.take 8, pieces 8 n (w.drop 8))).2.flatten

/-! ### CRC-32C, R138 -/

/-- One bit of the CRC-32C. -/
def crcBit (c : Nat) : Nat := if c % 2 = 1 then (c / 2) ^^^ 0x82F63B78 else c / 2

/-- One byte into the CRC-32C. -/
def crcByte (c : Nat) (b : Byte) : Nat := (List.range 8).foldl (fun c _ => crcBit c) (c ^^^ b.toNat)

/-- The CRC-32C of a byte string. -/
def crc32c (bs : List Byte) : Nat := bs.foldl crcByte 0xFFFFFFFF ^^^ 0xFFFFFFFF

end Sys2Proof
end

