-- ==== Sys2Proof/Config.lean ====
section
/-! DEFINITION. What the spec leaves open: the free values. None of these constants has a body, so nothing can be
proved of the value of any of them. The assumption log names each one. -/

namespace Sys2Proof.Config

/-- R447: which of the candidates the module hands out, for the n-th choice it makes (log entry 3). -/
opaque choice : Nat → Nat

/-- R194: the n-th byte drawn from the module's random bit generator (log entry 4). -/
opaque drbg : Nat → Byte

/-- R194: the store root key, fused into D1 and not readable (log entry 4). -/
opaque rootKey : List Byte

/-- R388, R434: whether a firmware image carries a signature that the fused key verifies; the image's layout is not
given (log entry 5). -/
opaque fwSignatureOk : List Byte → Bool

/-- R388: the security version a firmware image carries; the image's layout is not given (log entry 5). -/
opaque fwSecurityVersion : List Byte → Nat

/-- R360: the FW_VERSION a firmware image carries; the image's layout is not given (log entry 5). -/
opaque fwVersion : List Byte → BitVec 32

end Sys2Proof.Config
end

