-- ==== Sys2Proof/Machine/Fp.lean ====
section
/-! DEFINITION. Floating point: the formats of R50 and Table 3.1, exact values, the one rounding of R50 and R69, and the
functions of Table 4.5. A finite value is an integer times a power of two, so every operation below is exact until its
last rounding. -/

namespace Sys2Proof

/-- A floating-point format: the widths of its fields, its bias, and what its top exponent holds. `ieee`: infinities and NaNs.
`ofp`: E4M3, where only the all-ones magnitude is a NaN. `none`: no special encoding (R48). -/
inductive FTop where
  | ieee | ofp | none
  deriving DecidableEq, Repr

structure FFmt where
  eb : Nat
  mb : Nat
  bias : Nat
  top : FTop
  deriving DecidableEq, Repr

namespace FFmt
def fp32 : FFmt := ⟨8, 23, 127, .ieee⟩
def bf16 : FFmt := ⟨8, 7, 127, .ieee⟩
def fp16 : FFmt := ⟨5, 10, 15, .ieee⟩
def e4m3 : FFmt := ⟨4, 3, 7, .ofp⟩
def e5m2 : FFmt := ⟨5, 2, 15, .ieee⟩
def e2m3 : FFmt := ⟨2, 3, 1, .none⟩
def e3m2 : FFmt := ⟨3, 2, 3, .none⟩
def e2m1 : FFmt := ⟨2, 1, 1, .none⟩
end FFmt

/-- The width of a format. -/
def fwidth (f : FFmt) : Nat := f.eb + f.mb + 1

/-- The OUT_FMT and IN_FMT codes of Tables 3.3 and 4.1. -/
def outFmt : Nat → FFmt
  | 0 => .fp32
  | 1 => .bf16
  | 2 => .fp16
  | 3 => .e4m3
  | _ => .e5m2

/-- The value of an encoding: `fin neg m e` is `m * 2^e` with its sign. -/
inductive FVal where
  | nan
  | inf (neg : Bool)
  | fin (neg : Bool) (m : Nat) (e : Int)
  deriving DecidableEq, Repr

/-- The weight exponent of the least significant bit of a subnormal. -/
def femin (f : FFmt) : Int := 1 - (f.bias : Int) - f.mb

/-- The value that the encoding `x` has in format `f`. -/
def fdec (f : FFmt) (x : Nat) : FVal :=
  let neg := bit x (f.eb + f.mb)
  let m := bits x 0 f.mb
  let e := bits x f.mb f.eb
  if f.top = .ieee ∧ e = 2 ^ f.eb - 1 then (if m = 0 then .inf neg else .nan)
  else if f.top = .ofp ∧ e = 2 ^ f.eb - 1 ∧ m = 2 ^ f.mb - 1 then .nan
  else if e = 0 then .fin neg m (femin f)
  else .fin neg (2 ^ f.mb + m) (femin f + e - 1)

/-- The canonical quiet NaN of a format, R50. -/
def fqnan (f : FFmt) : Nat :=
  match f.top with
  | .ieee => (2 ^ f.eb - 1) * 2 ^ f.mb + 2 ^ (f.mb - 1)
  | _ => 2 ^ (f.eb + f.mb) - 1

/-- R50: the canonical quiet NaN of E5M2 is 0x7E, that of E4M3 0x7F. -/
def fsign (f : FFmt) (neg : Bool) (mag : Nat) : Nat := flg (f.eb + f.mb) neg + mag

/-- The magnitude of the largest finite encoding. -/
def fmax (f : FFmt) : Nat :=
  match f.top with
  | .ieee => (2 ^ f.eb - 1) * 2 ^ f.mb - 1
  | .ofp => 2 ^ (f.eb + f.mb) - 2
  | .none => 2 ^ (f.eb + f.mb) - 1

/-- What an overflow or an infinity becomes: the signed maximum under OUT_SAT, else the infinity or, without one, the NaN (R50). -/
def foverflow (f : FFmt) (sat neg : Bool) : Nat :=
  if sat then fsign f neg (fmax f)
  else if f.top = .ieee then fsign f neg ((2 ^ f.eb - 1) * 2 ^ f.mb)
  else fqnan f

/-- `m / 2^d` rounded to nearest, ties to even. -/
def rne (m d : Nat) : Nat :=
  let q := m / 2 ^ d
  let r := m % 2 ^ d
  if 2 * r < 2 ^ d then q else if 2 ^ d < 2 * r then q + 1 else q + q % 2

/-- The magnitude field that `m * 2^e` rounds to, with an unbounded top exponent: nearest even, subnormals produced. -/
def fround (f : FFmt) (m : Nat) (e : Int) : Nat :=
  if m = 0 then 0
  else
    let q : Int := max (femin f) ((Nat.log2 m : Int) + e - f.mb)
    let k : Nat := if q ≤ e then m * 2 ^ (e - q).toNat else rne m (q - e).toNat
    (q - femin f).toNat * 2 ^ f.mb + k

/-- A value encoded in format `f`, R50: one rounding, then the overflow rule. -/
def fenc (f : FFmt) (sat : Bool) : FVal → Nat
  | .nan => fqnan f
  | .inf neg => foverflow f sat neg
  | .fin neg m e =>
    let k := fround f m e
    if fmax f < k then foverflow f sat neg else fsign f neg k

/-- A signed integer times a power of two; zero is +0. -/
def fint (v e : Int) : FVal := .fin (decide (v < 0)) v.natAbs e

/-- FP32, the format every vector stage computes in. -/
abbrev F32 := BitVec 32

def f32 (v : FVal) : F32 := BitVec.ofNat 32 (fenc .fp32 false v)
def f32v (x : F32) : FVal := fdec .fp32 x.toNat
def f32zero : F32 := 0
def f32one : F32 := 0x3F800000
def f32inf (neg : Bool) : F32 := if neg then 0xFF800000 else 0x7F800000
def f32nan : F32 := 0x7FC00000
def f32neg (x : F32) : F32 := x ^^^ 0x80000000
def f32isNan (x : F32) : Bool := f32v x = .nan

/-- The signed significand of a finite value. -/
def fsgn (neg : Bool) (m : Nat) : Int := if neg then -(m : Int) else m

/-- The product of two values, exact; an infinity times a zero is a NaN. -/
def fmul : FVal → FVal → FVal
  | .nan, _ => .nan
  | _, .nan => .nan
  | .inf a, .inf b => .inf (a != b)
  | .inf a, .fin b m _ => if m = 0 then .nan else .inf (a != b)
  | .fin a m _, .inf b => if m = 0 then .nan else .inf (a != b)
  | .fin a m e, .fin b n f => .fin (a != b) (m * n) (e + f)

/-- The sum of two values, exact; an exact zero sum is +0 unless both addends are negative zeros. -/
def fadd : FVal → FVal → FVal
  | .nan, _ => .nan
  | _, .nan => .nan
  | .inf a, .inf b => if a = b then .inf a else .nan
  | .inf a, .fin _ _ _ => .inf a
  | .fin _ _ _, .inf b => .inf b
  | .fin a m e, .fin b n f =>
    let q := min e f
    let s : Int := fsgn a m * 2 ^ (e - q).toNat + fsgn b n * 2 ^ (f - q).toNat
    if s = 0 then .fin (a && b && m == 0 && n == 0) 0 q else fint s q

/-- Fused multiply-add, one rounding (R69). -/
def f32fma (a b c : F32) : F32 := f32 (fadd (fmul (f32v a) (f32v b)) (f32v c))
def f32add (a b : F32) : F32 := f32 (fadd (f32v a) (f32v b))
def f32mul (a b : F32) : F32 := f32 (fmul (f32v a) (f32v b))

/-- `a < b` on values; false where either is a NaN. -/
def flt : FVal → FVal → Bool
  | .nan, _ => false
  | _, .nan => false
  | .inf a, .inf b => a && !b
  | .inf a, .fin _ _ _ => a
  | .fin _ _ _, .inf b => !b
  | .fin a m e, .fin b n f =>
    let q := min e f
    decide (fsgn a m * 2 ^ (e - q).toNat < fsgn b n * 2 ^ (f - q).toNat)

def f32lt (a b : F32) : Bool := flt (f32v a) (f32v b)
/-- `a ≤ b`: neither is a NaN and `b < a` fails. -/
def f32le (a b : F32) : Bool := !f32isNan a && !f32isNan b && !f32lt b a

/-- R76: IEEE 754-2019 maximum; +0 is greater than −0. -/
def f32max (a b : F32) : F32 :=
  if f32isNan a || f32isNan b then f32nan
  else if f32lt a b then b else if f32lt b a then a
  else if a.getLsbD 31 then b else a

/-- R76: IEEE 754-2019 minimum. -/
def f32min (a b : F32) : F32 :=
  if f32isNan a || f32isNan b then f32nan
  else if f32lt a b then a else if f32lt b a then b
  else if a.getLsbD 31 then a else b

/-- An FP32 value converted to a format, R50, R51, R74. -/
def f32to (f : FFmt) (sat : Bool) (x : F32) : Nat :=
  if f = .fp32 then x.toNat else fenc f sat (f32v x)

/-- A stream element widened to FP32, exact (R71); a NaN becomes the canonical one. -/
def f32from (f : FFmt) (x : Nat) : F32 := if f = .fp32 then BitVec.ofNat 32 x else f32 (fdec f x)

/-- R69: the FP32 result of a MODE 1 micro-op rounded once to BF16 and held as FP32. -/
def f32bf (x : F32) : F32 := f32from .bf16 (fenc .bf16 false (f32v x))

/-- The integer square root of `n`, by bits. -/
def isqrtFrom : Nat → Nat → Nat → Nat
  | 0, _, r => r
  | k + 1, n, r => isqrtFrom k n (if (r + 2 ^ k) * (r + 2 ^ k) ≤ n then r + 2 ^ k else r)

def isqrt (n : Nat) : Nat := isqrtFrom (Nat.log2 n / 2 + 1) n 0

/-- A truncated positive result with the sticky bit that says whether anything was cut off. -/
def sticky (q : Nat) (inexact : Bool) : Nat := 2 * q + (if inexact then 1 else 0)

/-- RCP, Table 4.5: 1/x rounded once. -/
def f32rcp (x : F32) : F32 :=
  match f32v x with
  | .nan => f32nan
  | .inf n => f32 (.fin n 0 0)
  | .fin n 0 _ => f32inf n
  | .fin n m e => f32 (.fin n (sticky (2 ^ 80 / m) (2 ^ 80 % m != 0)) (-e - 81))

/-- RSQRT, Table 4.5: 1/√x rounded once. -/
def f32rsqrt (x : F32) : F32 :=
  match f32v x with
  | .nan => f32nan
  | .inf n => if n then f32nan else f32zero
  | .fin n 0 _ => f32inf n
  | .fin true _ _ => f32nan
  | .fin false m e =>
    let m' := if e % 2 = 0 then m else 2 * m
    let e' := if e % 2 = 0 then e else e - 1
    let q := isqrt (2 ^ 120 / m')
    f32 (.fin false (sticky q (q * q * m' != 2 ^ 120)) (-(e' / 2) - 61))

/-- Working precision, in bits, of the two transcendental functions: far beyond what one rounding to 24 bits needs. -/
def fprec : Nat := 256

/-- 2 to the fraction whose bits are `f` below 2^k, scaled by 2^fprec: a product of the square roots of 2. -/
def exp2Frac : Nat → Nat → Nat → Nat → Nat
  | 0, _, _, acc => acc
  | k + 1, f, root, acc =>
    exp2Frac k f (isqrt (root * 2 ^ fprec)) (if bit f k then acc * root / 2 ^ fprec else acc)

/-- EXP2, Table 4.5: 2^x rounded once. -/
def f32exp2 (x : F32) : F32 :=
  match f32v x with
  | .nan => f32nan
  | .inf n => if n then f32zero else f32inf false
  | .fin n m e =>
    let v : Int := fsgn n m
    if decide (f32le x 0xC3160000) then f32zero
    else if decide (f32le 0x43000000 x) then f32inf false
    else
      let s : Int := if 0 ≤ e then v * 2 ^ e.toNat * 2 ^ 160 else v * 2 ^ 160 / 2 ^ (-e).toNat
      let i := s / 2 ^ 160
      let f := (s % 2 ^ 160).toNat
      if f = 0 then f32 (.fin false 1 i)
      else f32 (.fin false (sticky (exp2Frac 160 f (isqrt (2 * 2 ^ (2 * fprec))) (2 ^ fprec)) true) (i - fprec - 1))

/-- The bits of log₂ y for a `y` in [1, 2) scaled by 2^(2 fprec), by repeated squaring. -/
def log2Frac : Nat → Nat → Nat → Nat
  | 0, _, acc => acc
  | k + 1, y, acc =>
    let y2 := y * y / 2 ^ (2 * fprec)
    if 2 * 2 ^ (2 * fprec) ≤ y2 then log2Frac k (y2 / 2) (2 * acc + 1) else log2Frac k y2 (2 * acc)

/-- LOG2, Table 4.5: log₂ x rounded once. -/
def f32log2 (x : F32) : F32 :=
  match f32v x with
  | .nan => f32nan
  | .inf n => if n then f32nan else f32inf false
  | .fin _ 0 _ => f32inf true
  | .fin true _ _ => f32nan
  | .fin false m e =>
    let k := Nat.log2 m
    let i : Int := e + k
    if m = 2 ^ k then f32 (fint i 0)
    else f32 (fint (2 * (i * 2 ^ 160 + log2Frac 160 (m * 2 ^ (2 * fprec - k)) 0) + 1) (-161))

/-- R80: a function table: LO, HI, BELOW, ABOVE and the coefficients of its 64 segments. -/
structure FTab where
  lo : F32
  hi : F32
  below : F32
  above : F32
  coef : List F32
  deriving DecidableEq, Repr

/-- The table that 784 bytes hold, R80. -/
def ftab (bs : List Byte) : FTab :=
  let w := fun i => BitVec.ofNat 32 (leAt bs (4 * i) 4)
  ⟨w 0, w 1, w 2, w 3, (List.range 192).map fun i => w (4 + i)⟩

/-- R80: the segment of a table that `x` falls in; a segment width that rounds to zero has no floor stated, and the segment
is then a free value (log entry 3). -/
def ftabSeg (t : FTab) (w x : F32) : Nat :=
  match fadd (f32v x) (f32v (f32neg t.lo)), f32v w with
  | .fin _ m e, .fin _ n f =>
    if n = 0 then Config.choice (x.toNat + 2 ^ 32 * t.lo.toNat) % 64
    else
      let q := min e f
      min 63 (m * 2 ^ (e - q).toNat / (n * 2 ^ (f - q).toNat))
  | _, _ => 63

/-- R80: the value of a table function. -/
def f32tab (t : FTab) (x : F32) : F32 :=
  if f32isNan x then f32nan
  else if f32lt x t.lo then (if f32isNan t.below then x else t.below)
  else if f32le t.hi x then (if f32isNan t.above then x else t.above)
  else
    let w := f32 (match fadd (f32v t.hi) (f32v (f32neg t.lo)) with
      | .fin n m e => .fin n m (e - 6)
      | v => v)
    let j := ftabSeg t w x
    let base := f32 (fadd (f32v t.lo) (fmul (.fin false j 0) (f32v w)))
    let u := f32add x (f32neg base)
    let c := fun i => nth 0 t.coef (3 * j + i)
    f32fma (f32fma (c 2) u (c 1)) u (c 0)

/-- FUNC of Table 4.2: the function F applied to a result. -/
def f32func (tabs : Nat → FTab) (func : Nat) (x : F32) : F32 :=
  match func with
  | 1 => f32exp2 x
  | 2 => f32log2 x
  | 3 => f32rcp x
  | 4 => f32rsqrt x
  | 8 => f32tab (tabs 0) x
  | 9 => f32tab (tabs 1) x
  | 10 => f32tab (tabs 2) x
  | 11 => f32tab (tabs 3) x
  | _ => x

end Sys2Proof
end

