-- ==== Sys2Proof/Machine/Skim.lean ====
section
/-! DEFINITION. The Skimmer's rules as functions of bytes and numbers: the sampling block (R247), the grammar (R251), the draw
(R250), the sampling of one position (R249), and the speculative tree (R243 to R245). -/

namespace Sys2Proof

/-- The quotient of two FP32 values, rounded once (R249). -/
def f32div (a b : F32) : F32 :=
  match f32v a, f32v b with
  | .nan, _ => f32nan
  | _, .nan => f32nan
  | .inf _, .inf _ => f32nan
  | .inf n, .fin m _ _ => f32inf (n != m)
  | .fin n _ _, .inf m => if n != m then 0x80000000 else 0
  | .fin n x e, .fin m y f =>
    if y = 0 then (if x = 0 then f32nan else f32inf (n != m))
    else
      let q := x * 2 ^ 64 / y
      f32 (.fin (n != m) (sticky q (x * 2 ^ 64 % y != 0)) (e - f - 65))

def f32sub (a b : F32) : F32 := f32add a (f32neg b)

def f32finite (x : F32) : Bool :=
  match f32v x with
  | .fin _ _ _ => true
  | _ => false

/-- A small natural number in FP32. -/
def f32nat (n : Nat) : F32 := f32 (.fin false n 0)

def f32ninf : F32 := 0xFF800000

/-! ### The sampling block, Table 11.3 -/

structure Samp where
  seed : Nat
  temperature : F32
  topP : F32
  minP : F32
  topK : Nat
  window : Nat
  repetition : F32
  presence : F32
  frequency : F32
  biasAddr : Nat
  biasCount : Nat
  grammar : Nat
  gramStart : Nat
  stops : List Nat
  stopEmit : Bool
  keep : Bool
  publish : Bool

def sampOf (bs : List Byte) : Samp :=
  let v := leNat (bs.take 128)
  let f := fun lo => BitVec.ofNat 32 (bits v lo 32)
  ⟨bits v 0 64, f 64, f 96, f 128, bits v 160 11, bits v 176 16, f 192, f 224, f 256, bits v 288 48, bits v 336 16,
   bits v 352 48, bits v 400 16, unpack 32 (bits v 416 4) (bits v 448 256), bit v 420, bit v 421, bit v 422⟩

/-- R247: the block keeps its rules. -/
def sampOk (bs : List Byte) (vocab : Nat) : Bool :=
  let v := leNat (bs.take 128)
  let x := sampOf bs
  bits v 171 5 == 0 && bits v 423 25 == 0 && bits v 704 320 == 0 &&
  f32finite x.temperature && f32le 0 x.temperature &&
  f32lt 0 x.topP && f32le x.topP f32one && f32le 0 x.minP && f32lt x.minP f32one &&
  decide (x.topK ≤ 1024) && decide (x.window ≤ 4096) &&
  f32finite x.repetition && f32lt 0 x.repetition && f32finite x.presence && f32finite x.frequency &&
  decide (x.biasCount ≤ 4096) && decide (bits v 416 4 ≤ 8) && x.stops.all (fun t => decide (t < vocab))

/-- The bias table: token and bias. -/
def biasOf (n : Nat) (bs : List Byte) : List (Nat × F32) :=
  (pieces 8 n bs).map fun b => (leAt b 0 4, BitVec.ofNat 32 (leAt b 4 4))

/-- R247: a bias entry's token is below VOCAB and its bias is neither NaN nor +inf. -/
def biasOk (vocab : Nat) (b : Nat × F32) : Bool := decide (b.1 < vocab) && !f32isNan b.2 && b.2 != f32inf false

/-! ### The grammar, R251 -/

/-- An automaton: classes by token, END flags by state, next states in row-major order. -/
structure Gram where
  states : Nat
  classes : Nat
  cls : Array Nat
  flags : Array Nat
  next : Array Nat

/-- R251: where the parts of an automaton lie behind its header, and its length. -/
def gramFlags (vocab : Nat) : Nat := (64 + 2 * vocab + 63) / 64 * 64
def gramNext (vocab states : Nat) : Nat := (gramFlags vocab + states + 63) / 64 * 64
def gramLen (vocab states classes : Nat) : Nat := gramNext vocab states + 2 * states * classes

/-- R251: VOCAB, STATES and CLASSES of a header; none where the header breaks its format. -/
def gramHead (bs : List Byte) : Option (Nat × Nat × Nat) :=
  let v := leNat (bs.take 64)
  let x := (bits v 32 19, bits v 64 16, bits v 80 16)
  if v = 0x5658474D + fld 32 x.1 + fld 64 x.2.1 + fld 80 x.2.2 ∧ x.2.1 ≠ 0 ∧ 1 ≤ x.2.2 ∧ x.2.2 ≤ 4096 then some x else none

/-- R251: the automaton behind a header. -/
def gramOf (h : Nat × Nat × Nat) (bs : List Byte) : Gram :=
  let half := fun (off n : Nat) => ((pieces 2 n (bs.drop off)).map leNat).toArray
  ⟨h.2.1, h.2.2, half 64 h.1, (((bs.drop (gramFlags h.1)).take h.2.1).map BitVec.toNat).toArray,
   half (gramNext h.1 h.2.1) (h.2.1 * h.2.2)⟩

/-- R251: classes, flags, next states and the start state are in range. -/
def gramOk (g : Gram) (start : Nat) : Bool :=
  g.cls.all (fun c => decide (c < g.classes)) && g.flags.all (fun f => decide (f < 2)) &&
  g.next.all (fun n => decide (n < g.states) || n == 0xFFFF) && decide (start < g.states)

/-- R251: the state that a token leads to; none where it is not allowed. -/
def gramStep (g : Gram) (st t : Nat) : Option Nat :=
  let n := g.next.getD (st * g.classes + g.cls.getD t 0) 0xFFFF
  if n = 0xFFFF then none else some n

def gramEnd (g : Gram) (st : Nat) : Bool := g.flags.getD st 0 % 2 == 1

/-! ### The draw, R250 -/

def skMix (x : Word) : Word :=
  let x := (x ^^^ (x >>> 30)) * 0xBF58476D1CE4E5B9
  let x := (x ^^^ (x >>> 27)) * 0x94D049BB133111EB
  x ^^^ (x >>> 31)

/-- R250: the draw for a position, in FP32: an odd number of 2^-24. -/
def skDraw (seed : Word) (pos : Nat) : F32 :=
  let x := skMix (seed ^^^ skMix (BitVec.ofNat 64 pos + 0x9E3779B97F4A7C15))
  f32 (.fin false (2 * (x >>> 41).toNat + 1) (-24))

/-! ### One position, R249 -/

/-- How often a token occurs in a window. -/
def occurs (w : List Nat) (t : Nat) : Nat := (w.filter (· == t)).length

/-- R249: the penalties of a window's tokens. -/
def skPenalty (x : Samp) (w : List Nat) (l : Array F32) : Array F32 :=
  w.eraseDups.foldl (fun l t =>
    let v := l.getD t f32ninf
    let v := if f32lt 0 v then f32div v x.repetition else f32mul v x.repetition
    l.setIfInBounds t (f32sub v (f32add x.presence (f32mul (f32nat (occurs w t)) x.frequency)))) l

/-- R249: the logits after bias, penalties and grammar. -/
def skLogits (x : Samp) (bias : List (Nat × F32)) (w : List Nat) (g : Option (Gram × Nat)) (l : List F32) : Array F32 :=
  let l := (l.map fun v => if f32isNan v then f32ninf else v).toArray
  let l := bias.foldl (fun l b => l.setIfInBounds b.1 (f32add (l.getD b.1 f32ninf) b.2)) l
  let l := skPenalty x (w.filter fun t => decide (t < l.size)) l
  match g with
  | none => l
  | some g => l.mapIdx fun t v => if (gramStep g.1 g.2 t).isSome then v else f32ninf

/-- R249: (l, t) stands before (m, u): a larger logit, or the same and a lower token. -/
def skBefore (a b : F32 × Nat) : Bool := f32lt b.1 a.1 || (!f32lt a.1 b.1 && decide (a.2 < b.2))

/-- A candidate put in order into the best `k`. -/
def skInsert (x : F32 × Nat) : Nat → List (F32 × Nat) → List (F32 × Nat)
  | 0, _ => []
  | _ + 1, [] => [x]
  | k + 1, y :: ys => if skBefore x y then x :: (y :: ys).take k else y :: skInsert x k ys

/-- The candidates of an array with their tokens, the finite ones. -/
def skFinite (l : Array F32) : List (F32 × Nat) := (l.toList.zipIdx).filter fun x => f32finite x.1

/-- R249: the shortest prefix whose running sum reaches a target. -/
def skPrefix (target : F32) : F32 → List (Nat × F32) → List (Nat × F32)
  | _, [] => []
  | acc, c :: cs =>
    let acc := f32add acc c.2
    if f32le target acc then [c] else c :: skPrefix target acc cs

/-- R249: the first candidate at which the accumulated weight passes the target; else the last. -/
def skPick (target : F32) : F32 → List (Nat × F32) → Option Nat
  | _, [] => none
  | acc, c :: cs =>
    let acc := f32add acc c.2
    if f32lt target acc || cs.isEmpty then some c.1 else skPick target acc cs

/-- What R249 gives for a position: a token, no token at all, or one that the rule does not fix, because every finite logit left
the finite range when it was divided by TEMPERATURE. -/
inductive Sampled where
  | token (t : Nat)
  | none
  | anyOf (ts : List Nat)

/-- R249: the token that is sampled at a position from its logits as they stand after `skLogits`. -/
def skSample (x : Samp) (l : Array F32) (pos : Nat) : Sampled :=
  let fin := skFinite l
  if fin.isEmpty then .none
  else if f32le x.temperature 0 then
    match l.toList.zipIdx.foldl (fun b v => skInsert v 1 b) [] with
    | c :: _ => .token c.2
    | [] => .none
  else
    let l := l.map fun v => f32div v x.temperature
    let fs := skFinite l
    let k := min (if x.topK = 0 then 1024 else x.topK) fs.length
    match fs.foldl (fun b v => skInsert v k b) [] with
    | [] => .anyOf (fin.map Prod.snd)
    | c1 :: cs =>
      let p := fun (v : F32) => f32exp2 (f32mul (f32sub v c1.1) 0x3FB8AA3B)
      let z := fs.foldl (fun a v => f32add a (p v.1)) f32zero
      let c := ((c1 :: cs).map fun v => (v.2, p v.1)).filter fun v => !f32lt v.2 x.minP
      let kept := skPrefix (f32mul x.topP z) f32zero c
      let sum := kept.foldl (fun a v => f32add a v.2) f32zero
      match skPick (f32mul (skDraw (BitVec.ofNat 64 x.seed) pos) sum) f32zero kept with
      | some t => .token t
      | none => .none

/-! ### Trees, R243 to R245 -/

def treeN (bs : List Byte) : Nat := leAt bs 0 4 % 128
def treeParent (bs : List Byte) (i : Nat) : Nat := leAt bs (4 + i) 1
def treeToken (bs : List Byte) (i : Nat) : Nat := leAt bs (128 + 4 * i) 4

/-- R244: a candidate's ancestors, itself first; parents are lower, so `i + 1` steps reach the root. -/
def treeAnc (bs : List Byte) : Nat → Nat → List Nat
  | 0, _ => []
  | f + 1, i => if i = 0xFF then [] else i :: treeAnc bs f (treeParent bs i)

/-- R243: the tree is valid. The bytes that hold no candidate's fields, 68 to 127 and 384 to 511, are the reserved ones. -/
def treeOk (bs : List Byte) (spec vocab : Nat) : Bool :=
  let n := treeN bs
  decide (leAt bs 0 4 < 128) && decide (n ≤ spec) && decide (n ≤ 64) &&
  (List.range n).all (fun i => (treeParent bs i == 0xFF || decide (treeParent bs i < i)) && decide (treeToken bs i < vocab) &&
    decide ((treeAnc bs (i + 1) i).length ≤ 16)) &&
  ((bs.drop 68).take 60).all (· == 0) && ((bs.drop 384).take 128).all (· == 0)

/-- R244: the verify block of a tree for a pending token at position `l`; MASK_FMT 0 FP32, 1 BF16, 4 E5M2. -/
def verifyBlock (bs : List Byte) (l maskFmt : Nat) : List Byte :=
  let n := treeN bs
  let anc := (List.range n).map fun i => treeAnc bs (i + 1) i
  let w := if maskFmt = 0 then 4 else if maskFmt = 1 then 2 else 1
  let minf := if maskFmt = 0 then 0xFF800000 else if maskFmt = 1 then 0xFF80 else 0xFC
  let posB := (List.range 64).flatMap fun i => leBytes 4 (if i < n then l + (nth [] anc i).length else 0)
  let mask := (List.range 64).flatMap fun i => (List.range 64).flatMap fun j =>
    leBytes w (if (if i < n then (nth [] anc i).contains j else j == 0) then 0 else minf)
  leBytes 64 n ++ posB ++ List.replicate 192 0 ++ mask

/-- R245: the lowest candidate under a node (0xFF the root) that names a token. -/
def treeChild (bs : List Byte) (node t : Nat) : Option Nat :=
  (List.range (treeN bs)).find? fun i => treeParent bs i == node && treeToken bs i == t

end Sys2Proof
end

