-- ==== Sys2Proof/Machine/Matrix.lean ====
section
/-! DEFINITION. The matrix engine: EXA words (R47, R49, R50), operand formats (R41 to R45, R48), the tile that a set of
operand entries makes (R46, R51, R54), its residue check (R57, R58) and its output entries (R55). -/

namespace Sys2Proof

/-- An EXA word, R47: VALUE as an integer, and its flags. -/
structure Exa where
  value : Int
  sat : Bool
  nan : Bool
  pinf : Bool
  ninf : Bool
  deriving DecidableEq, Repr

def exaZero : Exa := ⟨0, false, false, false, false⟩

/-- R47: the word's 128 bits. -/
def exaWord (x : Exa) : Nat :=
  unsgn 124 x.value + flg 124 x.sat + flg 125 x.nan + flg 126 x.pinf + flg 127 x.ninf

/-- R47: the word that 128 bits hold. -/
def exaOf (w : Nat) : Exa := ⟨sgn 124 (bits w 0 124), bit w 124, bit w 125, bit w 126, bit w 127⟩

/-- R49: VALUE added modulo 2^124, the flags joined; SAT where the exact sum leaves the window. -/
def exaAdd (x y : Exa) : Exa :=
  let s := x.value + y.value
  ⟨sgn 124 (unsgn 124 s), x.sat || y.sat || decide (s < -(2 ^ 123)) || decide (2 ^ 123 ≤ s),
   x.nan || y.nan, x.pinf || y.pinf, x.ninf || y.ninf⟩

/-- R50: the value that the one conversion of an EXA word rounds; the caller has stopped on SAT. -/
def exaVal (x : Exa) (anchor : Int) (outSat : Bool) (f : FFmt) : FVal :=
  if x.nan || (x.pinf && x.ninf) then .nan
  else if x.pinf || x.ninf then (if f.top = .ieee ∨ outSat then .inf x.ninf else .nan)
  else fint x.value anchor

/-- R50: an EXA word converted to a format. An infinity stays one where the format has it, OUT_SAT or not. -/
def exaConvert (x : Exa) (anchor : Int) (f : FFmt) (outSat : Bool) : Nat :=
  match exaVal x anchor outSat f with
  | .inf neg => if f.top = .ieee then fsign f neg ((2 ^ f.eb - 1) * 2 ^ f.mb) else foverflow f outSat neg
  | v => fenc f outSat v

/-- An operand element of the exact group: a NaN, an infinity, or a signed significand and its weight exponent (R46, R48). -/
inductive MElem where
  | nan
  | inf (neg : Bool)
  | fin (sig exp : Int)
  deriving DecidableEq, Repr

/-- The format codes of Table 3.1 with their element widths. -/
def matBits (fmt : Nat) : Nat :=
  if fmt ≤ 4 then 8 else if fmt ≤ 6 then 6 else if fmt = 7 then 4 else 16

/-- Table 3.1: the MX formats, which carry a scale entry per block (R44). -/
def matMx (fmt : Nat) : Bool := decide (3 ≤ fmt) && decide (fmt ≤ 7)

/-- Table 3.1: the FP32 group. -/
def matFp (fmt : Nat) : Bool := decide (fmt = 8) || decide (fmt = 9)

/-- The floating-point format of a code of Table 3.1, but INT8. -/
def matFmt (fmt : Nat) : FFmt :=
  match fmt with
  | 0 => .e4m3
  | 1 => .e5m2
  | 3 => .e4m3
  | 4 => .e5m2
  | 5 => .e2m3
  | 6 => .e3m2
  | 7 => .e2m1
  | 8 => .bf16
  | _ => .fp16

/-- R41, R48: the element that an encoding of the exact group holds. -/
def matElem (fmt x : Nat) : MElem :=
  if fmt = 2 then .fin (sgn 8 x) 0
  else match fdec (matFmt fmt) x with
    | .nan => .nan
    | .inf n => .inf n
    | .fin n m e => .fin (fsgn n m) e

/-- R44, R48: an element under its E8M0 block scale. -/
def matScaled (scale : Nat) (x : MElem) : MElem :=
  if scale = 255 then .nan
  else match x with
    | .fin s e => .fin s (e + scale - 127)
    | v => v

/-- Vector entries per block of 32 k-steps, Table 3.1. -/
def matBlock (fmt : Nat) : Nat := 4 * matBits fmt + (if matMx fmt then 1 else 0)

/-- R43, R44: the 32 k-steps of one block of an operand, each 64 encodings with the block's scale of its row or column. -/
def matSteps (fmt : Nat) (es : List Nat) : List (List (Nat × Nat)) :=
  let scales := if matMx fmt then unpack 8 64 (nth 0 es 0) else List.replicate 64 127
  let datas := if matMx fmt then es.drop 1 else es
  (pieces 64 32 (unpack (matBits fmt) 2048 (pack 512 datas))).map fun k => k.zip scales

/-- All the k-steps of `n` blocks. -/
def matAll (fmt : Nat) : Nat → List Nat → List (List (Nat × Nat))
  | 0, _ => []
  | n + 1, es => matSteps fmt (es.take (matBlock fmt)) ++ matAll fmt n (es.drop (matBlock fmt))

/-- An element's running sum with its predicted residue modulo 7 (R57). -/
abbrev ExaAcc := Exa × Nat

/-- R46, R57: one product added to an element's sum. -/
def matMac (anchor : Int) (acc : ExaAcc) (a b : MElem) : ExaAcc :=
  match a, b with
  | .fin x e, .fin y f =>
    let p := x * y
    let s := e + f - anchor
    if p = 0 then acc
    else
      let term := ((x % 7) * (y % 7) * (2 ^ (s % 3).toNat % 7) % 7).toNat
      let pred := (acc.2 + term) % 7
      let v := p * 2 ^ s.toNat
      if s < 0 ∧ p % 2 ^ (-s).toNat ≠ 0 then (⟨acc.1.value, true, acc.1.nan, acc.1.pinf, acc.1.ninf⟩, pred)
      else
        let v := if s < 0 then p / 2 ^ (-s).toNat else v
        (exaAdd acc.1 ⟨v, decide (v < -(2 ^ 123)) || decide (2 ^ 123 ≤ v), false, false, false⟩, pred)
  | .nan, _ => ({ acc.1 with nan := true }, acc.2)
  | _, .nan => ({ acc.1 with nan := true }, acc.2)
  | .inf n, .inf m => (if n != m then { acc.1 with ninf := true } else { acc.1 with pinf := true }, acc.2)
  | .inf n, .fin y _ =>
    (if y = 0 then { acc.1 with nan := true }
     else if n != decide (y < 0) then { acc.1 with ninf := true } else { acc.1 with pinf := true }, acc.2)
  | .fin x _, .inf n =>
    (if x = 0 then { acc.1 with nan := true }
     else if n != decide (x < 0) then { acc.1 with ninf := true } else { acc.1 with pinf := true }, acc.2)

/-- A matrix record, R60. -/
structure MatRec where
  enable : Bool
  op : Nat
  fmtA : Nat
  fmtB : Nat
  bHold : Bool
  outMode : Nat
  outFmt : Nat
  outSat : Bool
  kBlocks : Nat
  tileCount : Nat
  anchor : Int
  deriving DecidableEq, Repr

/-- R60: the record that 16 bytes hold; K_BLOCKS 0 means 2,048. -/
def matRec (bs : List Byte) : MatRec :=
  let w := leAt bs 0 16
  { enable := bit w 0, op := bits w 1 2, fmtA := bits w 3 4, fmtB := bits w 7 4, bHold := bit w 11,
    outMode := bits w 12 2, outFmt := bits w 14 4, outSat := bit w 18,
    kBlocks := (if bits w 19 11 = 0 then 2048 else bits w 19 11), tileCount := bits w 32 16,
    anchor := sgn 10 (bits w 48 10) }

/-- A finished tile in the array: EXA sums with their predicted residues, or FP32 accumulators. -/
inductive MTile where
  | exa (l : List ExaAcc)
  | fp (l : List F32)
  deriving DecidableEq, Repr

/-- Operand entries that one tile takes on input A: K_BLOCKS blocks, or under COMBINE the 1,024 entries of an EXA tile (R54). -/
def matNeedA (r : MatRec) : Nat := if r.op = 1 then 1024 else r.kBlocks * matBlock r.fmtA

/-- The same for B; under B_HOLD the panel of the pass (R45). -/
def matNeedB (r : MatRec) : Nat := if r.op = 1 then 1024 else r.kBlocks * matBlock r.fmtB

/-- The sums of one element over all k-steps, in the exact group. -/
def matElemSum (anchor : Int) (fa fb : Nat) (m n : Nat) : List (List (Nat × Nat)) → List (List (Nat × Nat)) → ExaAcc → ExaAcc
  | a :: as, b :: bs, acc =>
    let x := nth (0, 127) a m
    let y := nth (0, 127) b n
    let ea := if matMx fa then matScaled x.2 (matElem fa x.1) else matElem fa x.1
    let eb := if matMx fb then matScaled y.2 (matElem fb y.1) else matElem fb y.1
    matElemSum anchor fa fb m n as bs (matMac anchor acc ea eb)
  | _, _, acc => acc

/-- R51: the accumulation of one element in the FP32 group, in ascending k. -/
def matElemFp (f : FFmt) (m n : Nat) : List (List (Nat × Nat)) → List (List (Nat × Nat)) → F32 → F32
  | a :: as, b :: bs, acc =>
    let p := f32mul (f32from f (nth (0, 127) a m).1) (f32from f (nth (0, 127) b n).1)
    matElemFp f m n as bs (f32add acc p)
  | _, _, acc => acc

/-- The elements of a tile in row-major order. -/
def tileIndex : List (Nat × Nat) := (List.range 4096).map fun e => (e / 64, e % 64)

/-- The EXA words of 1,024 entries, R55. -/
def exaEntries (es : List Nat) : List Exa := (es.map fun e => (unpack 128 4 e).map exaOf).flatten

/-- R40, R46, R51, R54: the tile that the entries taken on A and B make. -/
def matTile (r : MatRec) (as bs : List Nat) : MTile :=
  if r.op = 1 then
    .exa ((exaEntries as).zip (exaEntries bs) |>.map fun p =>
      (exaAdd p.1 p.2, ((p.1.value % 7 + p.2.value % 7) % 7).toNat))
  else
    let a := matAll r.fmtA r.kBlocks as
    let b := matAll r.fmtB r.kBlocks bs
    if matFp r.fmtA then .fp (tileIndex.map fun i => matElemFp (matFmt r.fmtA) i.1 i.2 a b f32zero)
    else .exa (tileIndex.map fun i => matElemSum r.anchor r.fmtA r.fmtB i.1 i.2 a b (exaZero, 0))

/-- The operand upset of a row MATRIX_TILE_COMPLETE: element `i` of the array is off by `d` (R57); in the FP32 group it is a
parity error (R58). -/
def matUpset (t : MTile) (i : Nat) (d : Int) : MTile :=
  match t with
  | .exa l => .exa (upd l i fun x => ({ x.1 with value := sgn 124 (unsgn 124 (x.1.value + d)) }, x.2))
  | .fp l => .fp l

/-- R57, R58: whether the tile fails its residue or parity check. -/
def matResidueBad (t : MTile) (d : Int) : Bool :=
  match t with
  | .exa l => l.any fun x => !x.1.sat && x.2 != (x.1.value % 7).toNat
  | .fp _ => d != 0

/-- R62: whether an EXA word of the tile has SAT. -/
def matSat (t : MTile) : Bool :=
  match t with
  | .exa l => l.any fun x => x.1.sat
  | .fp _ => false

/-- R59: the first element that fails the check; in the FP32 group the one that the parity error strikes. -/
def matFirstBad (t : MTile) (i : Nat) : Nat :=
  match t with
  | .exa l => (l.findIdx? fun x => !x.1.sat && x.2 != (x.1.value % 7).toNat).getD 0
  | .fp _ => i

/-- R62: the first saturated element. -/
def matFirstSat (t : MTile) : Nat :=
  match t with
  | .exa l => (l.findIdx? fun x => x.1.sat).getD 0
  | .fp _ => 0

/-- The tile as FP32, OUT_MODE 0 (R50, R51). -/
def matTileF32 (r : MatRec) : MTile → List F32
  | .exa l => l.map fun x => BitVec.ofNat 32 (exaConvert x.1 r.anchor .fp32 r.outSat)
  | .fp l => l

/-- Elements of `w` bits packed into vector entries, `512 / w` an entry, R55. -/
def entriesOf (w : Nat) (xs : List Nat) : List Nat :=
  (pieces (512 / w) (xs.length * w / 512) xs).map (pack w)

/-- R55: the entries that a tile sends on CUO under OUT_MODE 1 and 2. -/
def matEntries (r : MatRec) (t : MTile) : List Nat :=
  let f := outFmt r.outFmt
  match t with
  | .exa l =>
    if r.outMode = 1 then entriesOf 128 (l.map fun x => exaWord x.1)
    else entriesOf (fwidth f) (l.map fun x => exaConvert x.1 r.anchor f r.outSat)
  | .fp l => entriesOf (fwidth f) (l.map (f32to f r.outSat))

end Sys2Proof
end

