-- ==== Sys2Proof/Machine/Quant.lean ====
section
/-! DEFINITION. What the Separator writes into a store image: quantisation (R200), the layouts (R197), ZWORD coding (R198), the
segment entries (R196) and the header (R195). -/

namespace Sys2Proof

/-- `m * 2^e` rounded to an integer, nearest even. -/
def rneInt (m : Nat) (e : Int) : Nat := if 0 ≤ e then m * 2 ^ e.toNat else rne m (-e).toNat

/-- R200: a plain source value; SRC_FMT 0 FP32, 1 BF16, 2 FP16. -/
def srcVal (srcFmt x : Nat) : FVal := fdec (if srcFmt = 0 then .fp32 else if srcFmt = 1 then .bf16 else .fp16) x

/-- R200: a value quantised to INT8. -/
def quantInt8 (shift : Int) : FVal → Nat
  | .nan => 0
  | .inf neg => if neg then 128 else 127
  | .fin neg m e =>
    let q := rneInt m (e + shift)
    if neg then unsgn 8 (-(min q 128 : Nat)) else min q 127

/-- R200: a value quantised to a floating-point format: infinities and overflows saturate. -/
def quantFp (f : FFmt) : FVal → Nat
  | .nan => fqnan f
  | .inf neg => fsign f neg (fmax f)
  | v => fenc f true v

/-- R200: a value quantised to a code of Table 3.1 that is not an MX format. -/
def quant (fmt : Nat) (shift : Int) (v : FVal) : Nat :=
  if fmt = 2 then quantInt8 shift v else quantFp (matFmt fmt) v

/-- R200: emax of an MX format. -/
def mxEmax (fmt : Nat) : Int :=
  match fmt with
  | 3 => 8
  | 4 => 15
  | 6 => 4
  | _ => 2

/-- floor(log2) of a non-zero magnitude. -/
def fexp : FVal → Option Int
  | .fin _ m e => if m = 0 then none else some (Nat.log2 m + e)
  | _ => none

/-- R200: the scale code of an MX block. -/
def mxScale (fmt : Nat) (vs : List FVal) : Nat :=
  if vs.any (· == .nan) then 255
  else if vs.any fun v => v == .inf true || v == .inf false then 254
  else match (vs.filterMap fexp).max? with
    | none => 0
    | some k => (min (max (k - mxEmax fmt + 127) 0) 254).toNat

/-- R200: an element of an MX block under its scale. -/
def mxElem (fmt code : Nat) (v : FVal) : Nat :=
  if code = 255 then 0
  else match v with
    | .fin neg m e => quantFp (matFmt fmt) (.fin neg m (e - (code - 127)))
    | w => quantFp (matFmt fmt) w

/-- R196, R200: a segment entry of Table 9.2, or a pack list entry with its SRC_FMT and SRC_ADDR. -/
structure Seg where
  dest : Nat
  len : Nat
  fmt : Nat
  layout : Nat
  zword : Bool
  rows : Nat
  cols : Nat
  shift : Nat
  pay : Nat
  srcFmt : Nat
  src : Nat
  deriving DecidableEq, Repr

def segOf (bs : List Byte) : Seg :=
  let v := leNat (bs.take 32)
  ⟨bits v 0 48, bits v 64 40, bits v 104 4, bits v 108 2, bit v 110, bits v 128 24, bits v 152 24, bits v 176 8,
   bits v 192 40, bits v 184 8, bits v 192 48⟩

/-- The 32 bytes of a segment entry. -/
def segBytes (g : Seg) : List Byte :=
  leBytes 32 (fld 0 g.dest + fld 64 g.len + fld 104 g.fmt + fld 108 g.layout + flg 110 g.zword + fld 128 g.rows +
    fld 152 g.cols + fld 176 g.shift + fld 192 g.pay)

def up (k n : Nat) : Nat := (n + k - 1) / k * k

/-- The element width of a format code: a RAW element is a byte. -/
def segWidth (fmt : Nat) : Nat := if fmt = 15 then 8 else matBits fmt

/-- R197: what SEG_BYTES must be; none for a format that the layout does not allow or a reserved code. -/
def segNeeds (g : Seg) : Option Nat :=
  if g.layout = 0 then
    if g.fmt ≤ 2 ∨ g.fmt = 8 ∨ g.fmt = 9 ∨ g.fmt = 15 then some (up 64 (g.rows * g.cols * segWidth g.fmt / 8)) else none
  else if 9 < g.fmt then none
  else if g.layout = 1 then some (up 64 g.cols / 64 * (up 32 g.rows / 32) * 64 * matBlock g.fmt)
  else if g.layout = 2 then some (up 64 g.rows / 64 * (up 32 g.cols / 32) * 64 * matBlock g.fmt)
  else none

/-- R196, R197: one segment keeps its rules. -/
def segOk (g : Seg) : Bool :=
  g.dest % 64 == 0 && g.len % 64 == 0 && g.rows != 0 && g.cols != 0 && segNeeds g == some g.len

/-- R196: the segments cover disjoint ranges, and together `total` bytes from 0. -/
def segsCover (gs : List Seg) (total : Nat) : Bool :=
  let t := gs.foldl (fun t g => Tbl.insert t g.dest g.len) ([] : List (Nat × Nat))
  t.length == gs.length && t.foldl (fun (k : Option Nat) x => k.bind fun n => if x.1 = n then some (n + x.2) else none) (some 0) == some total

/-- R197: the element of step `k` and row or column `j` of a panel source; padding is zero. -/
def panelElem (g : Seg) (src : Array Nat) (k j : Nat) : FVal :=
  let rc := if g.layout = 1 then (k, j) else (j, k)
  if rc.1 < g.rows ∧ rc.2 < g.cols then srcVal g.srcFmt (src.getD (rc.1 * g.cols + rc.2) 0) else .fin false 0 0

/-- R197: one block of 32 k-steps of a panel: its scale entry, for an MX format, and its data entries. -/
def panelBlock (g : Seg) (src : Array Nat) (panel blk : Nat) : List Byte :=
  let js := (List.range 64).map (64 * panel + ·)
  let ks := (List.range 32).map (32 * blk + ·)
  let w := matBits g.fmt
  if matMx g.fmt then
    let codes := js.map fun j => mxScale g.fmt (ks.map fun k => panelElem g src k j)
    let els := ks.flatMap fun k => List.zipWith (fun j c => mxElem g.fmt c (panelElem g src k j)) js codes
    codes.map (BitVec.ofNat 8) ++ leBytes (256 * w) (pack w els)
  else
    leBytes (256 * w) (pack w (ks.flatMap fun k => js.map fun j => quant g.fmt (sgn 8 g.shift) (panelElem g src k j)))

/-- R197: the bytes that a segment writes, from its source elements. -/
def segData (g : Seg) (src : Array Nat) : List Byte :=
  if g.layout = 0 then
    let w := segWidth g.fmt / 8
    let one := fun i => if g.fmt = 15 then src.getD i 0 else quant g.fmt (sgn 8 g.shift) (srcVal g.srcFmt (src.getD i 0))
    let d := (List.range (g.rows * g.cols)).flatMap fun i => leBytes w (one i)
    d ++ List.replicate (g.len - d.length) 0
  else
    let n := if g.layout = 1 then (up 64 g.cols / 64, up 32 g.rows / 32) else (up 64 g.rows / 64, up 32 g.cols / 32)
    (List.range n.1).flatMap fun p => (List.range n.2).flatMap fun b => panelBlock g src p b

/-- A list cut into pieces of `k`, the last one shorter. -/
def cut (k : Nat) (bs : List Byte) : List (List Byte) := pieces k ((bs.length + k - 1) / k) bs

def padTo (k : Nat) (bs : List Byte) : List Byte := bs ++ List.replicate (up k bs.length - bs.length) 0

/-- R198: a chunk coded by a bitmap of its words that are not zero, and those words. -/
def zChunk (raw : List Byte) : List Byte :=
  let ws := cut 64 raw
  let lit := fun (w : List Byte) => w.any (· != 0)
  padTo 64 (leBytes ((ws.length + 7) / 8) (pack 1 (ws.map fun w => if lit w then 1 else 0))) ++ (ws.filter lit).flatten

/-- R198: the chunk as stored, and whether it is stored raw. -/
def zStore (raw : List Byte) : List Byte × Bool :=
  let c := zChunk raw
  if raw.length ≤ c.length then (raw, true) else (c, false)

/-- R198: a payload in ZWORD chunks. -/
def zEncode (seg : List Byte) : List Byte :=
  let cs := (cut 65536 seg).map zStore
  padTo 64 (cs.flatMap fun c => leBytes 4 (c.1.length + flg 31 c.2)) ++ (cs.map Prod.fst).flatten

/-- R198: the words of a coded chunk: `n` words from bitmap position `i`, the literals left. -/
def zWords (map : Nat) : Nat → Nat → List Byte → List Byte
  | 0, _, _ => []
  | n + 1, i, lits =>
    if bit map i then lits.take 64 ++ zWords map n (i + 1) (lits.drop 64)
    else List.replicate 64 0 ++ zWords map n (i + 1) lits

/-- R198: the `n` bytes that a stored chunk holds. -/
def zUnchunk (c : List Byte) (raw : Bool) (n : Nat) : List Byte :=
  if raw then c.take n
  else
    let b := (n / 64 + 7) / 8
    zWords (leNat (c.take b)) (n / 64) 0 (c.drop (up 64 b))

/-- R198: the stored sizes of the chunks of a payload of `n` bytes, with their raw bits. -/
def zTable (pay : List Byte) (n : Nat) : List (Nat × Bool) :=
  (List.range ((n + 65535) / 65536)).map fun i => (leAt pay (4 * i) 4 % 2 ^ 17, bit (leAt pay (4 * i) 4) 31)

/-- R198: the chunks of a payload from `bs`, for the bytes still to come. -/
def zChunks : List (Nat × Bool) → List Byte → Nat → List Byte
  | [], _, _ => []
  | (k, raw) :: t, bs, n => zUnchunk (bs.take k) raw (min n 65536) ++ zChunks t (bs.drop k) (n - 65536)

/-- R198: the `n` bytes that a ZWORD payload holds. -/
def zDecode (pay : List Byte) (n : Nat) : List Byte :=
  let t := zTable pay n
  zChunks t (pay.drop (up 64 (4 * t.length))) n

/-- R195: the fields of a store image header. -/
structure SHead where
  kind : Nat
  segments : Nat
  id : Nat
  adapter : Nat
  version : Nat
  dest : Nat
  logical : Nat
  deriving DecidableEq, Repr

def sheadNat (h : SHead) (check : Nat) : Nat :=
  0x56585354 + fld 32 1 + fld 48 h.kind + fld 64 h.segments + fld 96 h.id + fld 160 h.adapter + fld 172 h.version +
    fld 192 h.dest + fld 256 h.logical + fld 320 check

/-- R195: the header's 4,096 bytes with its CHECK over header and segment table. -/
def sheadBytes (h : SHead) (table : List Byte) : List Byte :=
  leBytes 64 (sheadNat h (crc32c (leBytes 4096 (sheadNat h 0) ++ table))) ++ List.replicate 4032 0

/-- R195: the header that 4,096 bytes hold. -/
def sheadOf (bs : List Byte) : SHead :=
  let v := leNat (bs.take 64)
  ⟨bits v 48 2, bits v 64 16, bits v 96 64, bits v 160 12, bits v 172 16, bits v 192 40, bits v 256 40⟩

/-- R195, R196: header and segment table keep their rules. -/
def sheadOk (hd : List Byte) (table : List Byte) : Bool :=
  let h := sheadOf hd
  let gs := (cut 32 table).map segOf
  hd == sheadBytes h table && h.kind != 3 && h.segments != 0 && h.id != 0 && h.dest % 64 == 0 && h.logical % 64 == 0 &&
  (if h.kind = 1 then h.version != 0 else h.adapter == 0 && h.version == 0) &&
  table.length == 32 * h.segments && gs.all (fun g => segOk g && g.pay % 64 == 0) &&
  (cut 32 table).all (fun b => segBytes (segOf b) == b) && segsCover gs h.dest

/-- An image before encryption, R195 to R198: segments with their destination bytes; payloads follow the table in order. -/
def imgLay (h : SHead) (gs : List (Seg × List Byte)) : List Byte × List (Nat × Nat) :=
  let pays := gs.map fun g => if g.1.zword then zEncode g.2 else g.2
  let start := 4096 + up 64 (32 * gs.length)
  let places := (pays.foldl (fun (a : Nat × List (Nat × Nat)) p => (a.1 + p.length, a.2 ++ [(a.1, p.length)])) (start, [])).2
  let len := start + (pays.map List.length).foldl (· + ·) 0
  let table := List.flatten (List.zipWith (fun g p => segBytes { g.1 with pay := p.1 }) gs places)
  let dest := (gs.map fun g => g.1.len).foldl (· + ·) 0
  let hd := sheadBytes { h with segments := gs.length, dest := dest, logical := len } table
  (hd ++ padTo 64 table ++ pays.flatten, places)

end Sys2Proof
end

