-- ==== Sys2Proof/Machine/LadleRec.lean ====
section
/-! DEFINITION. The LADLE section of a configuration (R260, Tables 12.1 to 12.3). -/

namespace Sys2Proof.Machine

def up64 (n : Nat) : Nat := (n + 63) / 64 * 64

def ladTables (sec : List Byte) : Nat := bits (leAt sec 0 64) 0 7
def ladQueues (sec : List Byte) : Nat := bits (leAt sec 0 64) 16 11
def ladDisps (sec : List Byte) : Nat := bits (leAt sec 0 64) 32 5
def ladColls (sec : List Byte) : Nat := bits (leAt sec 0 64) 40 7

/-- R260: where the parts of the section begin. -/
def ladTabAt (t : Nat) : Nat := 64 + 16400 * t
def ladMapAt (sec : List Byte) : Nat := up64 (64 + 16400 * ladTables sec)
def ladDispAt (sec : List Byte) : Nat := up64 (ladMapAt sec + 8 * ladQueues sec)
def ladCollAt (sec : List Byte) : Nat := up64 (ladDispAt sec + 64 * ladDisps sec)
def ladEnd (sec : List Byte) : Nat := ladCollAt sec + 32 * ladColls sec

/-- The member of a queue, from the queue map. -/
def ladMember (sec : List Byte) (q : Nat) : Nat := bits (leAt sec (ladMapAt sec + 8 * q) 8) 0 8

/-- The expert and queue of a bucket. -/
def ladBucket (sec : List Byte) (t b : Nat) : Nat × Nat :=
  let w := leAt sec (ladTabAt t + 16 + 4 * b) 4
  (bits w 0 10, bits w 10 10)

/-- A dispatch record, Table 12.2. -/
structure LadDisp where
  src : Nat
  srcReg : Nat
  routeReg : Nat
  routeOff : Nat
  rows : Nat
  rowUnits : Nat
  tables : List Nat
  ans : Nat
  ansReg : Nat
  resReg : Nat
  ansUnits : Nat
  ansFmt : Nat
  outFmt : Nat
  outSat : Bool
  anchor : Int
  deriving DecidableEq, Repr

def ladDispOf (w : Nat) : LadDisp :=
  { src := bits w 0 9, srcReg := bits w 9 3, routeReg := bits w 12 3, routeOff := bits w 15 21, rows := bits w 36 11,
    rowUnits := bits w 47 5, tables := (unpack 6 8 (bits w 55 48)).take (bits w 52 3 + 1), ans := bits w 103 9,
    ansReg := bits w 112 3, resReg := bits w 115 3, ansUnits := bits w 118 8, ansFmt := bits w 126 3,
    outFmt := bits w 129 3, outSat := bit w 132, anchor := sgn 10 (bits w 133 10) }

def ladDisp (sec : List Byte) (d : Nat) : LadDisp := ladDispOf (leAt sec (ladDispAt sec + 64 * d) 64)

/-- A collector record, Table 12.3. -/
structure LadColl where
  cell : Nat
  reg : Nat
  senders : Nat
  tileRows : Nat
  rowUnits : Nat
  ans : Nat
  ansReg : Nat
  ansUnits : Nat
  deriving DecidableEq, Repr

def ladCollOf (w : Nat) : LadColl :=
  { cell := bits w 0 9, reg := bits w 9 3, senders := (if bits w 12 8 = 0 then 256 else bits w 12 8),
    tileRows := bits w 20 7, rowUnits := bits w 27 5, ans := bits w 32 9, ansReg := bits w 41 3, ansUnits := bits w 44 8 }

def ladColl (sec : List Byte) (c : Nat) : LadColl := ladCollOf (leAt sec (ladCollAt sec + 32 * c) 32)

end Sys2Proof.Machine
end

