-- ==== Sys2Proof/Machine/Codes.lean ====
section
/-! DEFINITION. The status codes (R7, R8): Table 0.3 and the tables of each chapter. -/

namespace Sys2Proof.Machine.Code

/-- R7: a code of a class of Table 0.3, other than success. -/
def valid (c : Status) : Bool := decide (c.toNat / 256 ≤ 0x0B) && c.toNat % 256 != 0

/-- OK, file 00. -/
def ok : Status := 0x0000
/-- BAD_ARGUMENT, file 00. -/
def badArgument : Status := 0x0001
/-- ACCESS_WIDTH, file 00. -/
def accessWidth : Status := 0x0002
/-- RESERVED_SET, file 00. -/
def reservedSet : Status := 0x0003
/-- BUSY, file 00. -/
def busy : Status := 0x0004
/-- UNSUPPORTED, file 00. -/
def unsupported : Status := 0x0005
/-- INTERNAL, file 00. -/
def internal : Status := 0x00FF
/-- IMAGE_FORMAT, file 07. -/
def imageFormat : Status := 0x0101
/-- IMAGE_CHECK, file 07. -/
def imageCheck : Status := 0x0102
/-- IMAGE_SIZE, file 07. -/
def imageSize : Status := 0x0103
/-- BAD_SWITCH_RECORD, file 07. -/
def badSwitchRecord : Status := 0x0104
/-- BAD_STEERING_RECORD, file 07. -/
def badSteeringRecord : Status := 0x0105
/-- BAD_MATRIX_RECORD, file 07. -/
def badMatrixRecord : Status := 0x0106
/-- BAD_VECTOR_RECORD, file 07. -/
def badVectorRecord : Status := 0x0107
/-- BAD_MU_RECORD, file 07. -/
def badMuRecord : Status := 0x0108
/-- BAD_BEAT_TIMER, file 07. -/
def badBeatTimer : Status := 0x0109
/-- BAD_STREAM, file 07. -/
def badStream : Status := 0x010A
/-- BAD_TABLE, file 07. -/
def badTable : Status := 0x010B
/-- FOOTPRINT_CONFLICT, file 07. -/
def footprintConflict : Status := 0x010C
/-- INCOMPLETE_PASS, file 07. -/
def incompletePass : Status := 0x010D
/-- WAVE_CYCLE, file 07. -/
def waveCycle : Status := 0x010E
/-- OVERLAY_BASE_MISMATCH, file 07. -/
def overlayBaseMismatch : Status := 0x010F
/-- IMAGE_TABLE_FULL, file 07. -/
def imageTableFull : Status := 0x0110
/-- IMAGE_IN_USE, file 07. -/
def imageInUse : Status := 0x0111
/-- NOT_REGISTERED, file 07. -/
def notRegistered : Status := 0x0112
/-- NOT_LOADED, file 07. -/
def notLoaded : Status := 0x0113
/-- SHADOW_BUSY, file 07. -/
def shadowBusy : Status := 0x0114
/-- SWAP_STALLED, file 07. -/
def swapStalled : Status := 0x0115
/-- BEAT_OVERRUN, file 02. -/
def beatOverrun : Status := 0x0201
/-- GRID_HANG, file 02. -/
def gridHang : Status := 0x0202
/-- UNROUTED_ENTRY, file 02. -/
def unroutedEntry : Status := 0x0203
/-- LINK_UNCORRECTABLE, file 02. -/
def linkUncorrectable : Status := 0x0204
/-- TOKEN_PARITY, file 02. -/
def tokenParity : Status := 0x0205
/-- PAIR_FAILED_NO_SPARE, file 02. -/
def pairFailedNoSpare : Status := 0x0206
/-- RESIDUE_MISMATCH, file 18. -/
def residueMismatch : Status := 0x0207
/-- EXA_SATURATED, file 18. -/
def exaSaturated : Status := 0x0208
/-- VEC_UNCORRECTABLE, file 18. -/
def vecUncorrectable : Status := 0x0209
/-- STEER_TOKEN_RANGE, file 18. -/
def steerTokenRange : Status := 0x020A
/-- STEER_COUNT_OVERFLOW, file 18. -/
def steerCountOverflow : Status := 0x020B
/-- UNIT_REMAPPED, file 18. -/
def unitRemapped : Status := 0x020C
/-- ADDR_OUT_OF_REGION, file 05. -/
def addrOutOfRegion : Status := 0x0301
/-- WINDOW_NO_CREDIT, file 05. -/
def windowNoCredit : Status := 0x0302
/-- WINDOW_RANGE, file 05. -/
def windowRange : Status := 0x0303
/-- WINDOW_PARTITION, file 05. -/
def windowPartition : Status := 0x0304
/-- WINDOW_CLOSED, file 05. -/
def windowClosed : Status := 0x0305
/-- WINDOW_TABLE_FULL, file 05. -/
def windowTableFull : Status := 0x0306
/-- WINDOW_CONFLICT, file 05. -/
def windowConflict : Status := 0x0307
/-- CLOSE_TIMEOUT, file 05. -/
def closeTimeout : Status := 0x0308
/-- MU_UNCORRECTABLE, file 05. -/
def muUncorrectable : Status := 0x0309
/-- FLIP_INVALID, file 05. -/
def flipInvalid : Status := 0x030A
/-- CREDIT_RETURN_OVERFLOW, file 05. -/
def creditReturnOverflow : Status := 0x030B
/-- WINDOW_SUSPENDED, file 05. -/
def windowSuspended : Status := 0x030C
/-- RESERVATION_EXCEEDED, file 08. -/
def reservationExceeded : Status := 0x030D
/-- PREFETCH_LATE, file 08. -/
def prefetchLate : Status := 0x030E
/-- REARM_OVERFLOW, file 08. -/
def rearmOverflow : Status := 0x030F
/-- STREAM_HALTED_ABSENT, file 08. -/
def streamHaltedAbsent : Status := 0x0310
/-- UNMAPPED_ADDRESS, file 08. -/
def unmappedAddress : Status := 0x0311
/-- MAP_FULL, file 08. -/
def mapFull : Status := 0x0312
/-- PAGE_PINNED, file 08. -/
def pagePinned : Status := 0x0313
/-- TIER_UNCORRECTABLE, file 08. -/
def tierUncorrectable : Status := 0x0314
/-- PAGE_STATE, file 08. -/
def pageState : Status := 0x0315
/-- STORE_FULL, file 09. -/
def storeFull : Status := 0x0401
/-- DIRECTORY_FULL, file 09. -/
def directoryFull : Status := 0x0402
/-- IMAGE_EXISTS, file 09. -/
def imageExists : Status := 0x0403
/-- IMAGE_NOT_FOUND, file 09. -/
def imageNotFound : Status := 0x0404
/-- STORE_IMAGE_FORMAT, file 09. -/
def storeImageFormat : Status := 0x0405
/-- SHARD_REBUILT, file 09. -/
def shardRebuilt : Status := 0x0406
/-- STRIPE_LOST, file 09. -/
def stripeLost : Status := 0x0407
/-- SERVICE_OPEN, file 09. -/
def serviceOpen : Status := 0x0408
/-- ADAPTER_TABLE_FULL, file 09. -/
def adapterTableFull : Status := 0x0409
/-- ADAPTER_VERSION_ORDER, file 09. -/
def adapterVersionOrder : Status := 0x040A
/-- ADAPTER_NOT_READY, file 09. -/
def adapterNotReady : Status := 0x040B
/-- SPILL_AREA_FULL, file 09. -/
def spillAreaFull : Status := 0x040C
/-- PACK_SOURCE, file 09. -/
def packSource : Status := 0x040D
/-- STORE_WORN, file 09. -/
def storeWorn : Status := 0x040E
/-- ADMISSION_CLOSED, file 10. -/
def admissionClosed : Status := 0x0501
/-- SERVICE_SUSPENDED, file 10. -/
def serviceSuspended : Status := 0x0502
/-- SERVICE_NOT_READY, file 10. -/
def serviceNotReady : Status := 0x0503
/-- ADAPTER_NONE, file 10. -/
def adapterNone : Status := 0x0504
/-- SEQUENCE_BUSY, file 10. -/
def sequenceBusy : Status := 0x0505
/-- POSITION_LIMIT, file 10. -/
def positionLimit : Status := 0x0506
/-- NO_SEQUENCE, file 10. -/
def noSequence : Status := 0x0507
/-- BOUND_UNMET, file 10. -/
def boundUnmet : Status := 0x0508
/-- NO_KV_SPACE, file 10. -/
def noKvSpace : Status := 0x0509
/-- NO_SLOT, file 10. -/
def noSlot : Status := 0x050A
/-- PENDING_FULL, file 10. -/
def pendingFull : Status := 0x050B
/-- PROMISE_BROKEN, file 10. -/
def promiseBroken : Status := 0x050C
/-- CANCELLED, file 10. -/
def cancelled : Status := 0x050D
/-- ALREADY_COMPLETE, file 10. -/
def alreadyComplete : Status := 0x050E
/-- REMOVED, file 10. -/
def removed : Status := 0x050F
/-- UNKNOWN_REQUEST, file 10. -/
def unknownRequest : Status := 0x0510
/-- BAD_SAMPLING_BLOCK, file 11. -/
def badSamplingBlock : Status := 0x0601
/-- GRAMMAR_FORMAT, file 11. -/
def grammarFormat : Status := 0x0602
/-- REQUEST_PAGE, file 11. -/
def requestPage : Status := 0x0603
/-- SAMPLE_NO_TOKEN, file 11. -/
def sampleNoToken : Status := 0x0604
/-- SPEC_TREE_INVALID, file 11. -/
def specTreeInvalid : Status := 0x0605
/-- SLOT_MAP_INVALID, file 11. -/
def slotMapInvalid : Status := 0x0606
/-- KEEP_LAPSED, file 11. -/
def keepLapsed : Status := 0x0607
/-- QUEUE_UNBOUND, file 12. -/
def queueUnbound : Status := 0x0701
/-- QUEUE_OVERFLOW, file 12. -/
def queueOverflow : Status := 0x0702
/-- MARKER_MISMATCH, file 12. -/
def markerMismatch : Status := 0x0703
/-- ANSWER_MISMATCH, file 12. -/
def answerMismatch : Status := 0x0704
/-- STALE_DROPPED, file 12. -/
def staleDropped : Status := 0x0705
/-- LADLE_STALLED, file 12. -/
def ladleStalled : Status := 0x0706
/-- BIND_CONFLICT, file 12. -/
def bindConflict : Status := 0x0707
/-- SLICE_LOST, file 13. -/
def sliceLost : Status := 0x0801
/-- PATH_LOST, file 13. -/
def pathLost : Status := 0x0802
/-- PORT_MISWIRED, file 13. -/
def portMiswired : Status := 0x0803
/-- LANE_SWAPPED, file 13. -/
def laneSwapped : Status := 0x0804
/-- PORT_DEGRADED, file 13. -/
def portDegraded : Status := 0x0805
/-- PORT_DOWN, file 13. -/
def portDown : Status := 0x0806
/-- RING_BROKEN, file 13. -/
def ringBroken : Status := 0x0807
/-- UNREACHABLE, file 13. -/
def unreachable : Status := 0x0808
/-- PARTITION_UNKNOWN, file 13. -/
def partitionUnknown : Status := 0x0809
/-- PLAN_INVALID, file 13. -/
def planInvalid : Status := 0x080A
/-- BER_FAIL, file 13. -/
def berFail : Status := 0x080B
/-- MSG_REFUSED, file 13. -/
def msgRefused : Status := 0x080C
/-- SENDER_INVALID, file 13. -/
def senderInvalid : Status := 0x080D
/-- ADD_ALIGN, file 13. -/
def addAlign : Status := 0x080E
/-- NEIGHBOUR_LEFT, file 13. -/
def neighbourLeft : Status := 0x080F
/-- NOT_OWNER, file 00, Table 0.1. -/
def notOwner : Status := 0x0901
/-- OWNER_HELD, file 15. -/
def ownerHeld : Status := 0x0902
/-- LEASE_LOST, file 15. -/
def leaseLost : Status := 0x0903
/-- HANDOVER_INVALID, file 15. -/
def handoverInvalid : Status := 0x0904
/-- APERTURE_DENIED, file 15. -/
def apertureDenied : Status := 0x0905
/-- JOB_RUNNING, file 15. -/
def jobRunning : Status := 0x0906
/-- JOB_ID_IN_USE, file 15. -/
def jobIdInUse : Status := 0x0907
/-- JOB_PARTITION, file 15. -/
def jobPartition : Status := 0x0908
/-- ILLEGAL_INSTRUCTION, file 14. -/
def illegalInstruction : Status := 0x0920
/-- MISALIGNED, file 14. -/
def misaligned : Status := 0x0921
/-- CM_RANGE, file 14. -/
def cmRange : Status := 0x0922
/-- PRIVILEGED, file 14. -/
def privileged : Status := 0x0923
/-- BAD_ENTRY, file 14. -/
def badEntry : Status := 0x0924
/-- JOB_FAULTED, file 14. -/
def jobFaulted : Status := 0x0925
/-- JOB_ENDED, file 14. -/
def jobEnded : Status := 0x0926
/-- INBOX_EMPTY, file 14. -/
def inboxEmpty : Status := 0x0927
/-- SAVE_AREA_FULL, file 14. -/
def saveAreaFull : Status := 0x0928
/-- NO_JOB, file 14. -/
def noJob : Status := 0x0929
/-- NO_SAVED_JOB, file 14. -/
def noSavedJob : Status := 0x092A
/-- CAP_DENIED, file 16. -/
def capDenied : Status := 0x0A01
/-- CAP_CLAMPED, file 16. -/
def capClamped : Status := 0x0A02
/-- FAST_CAP_STEP, file 16. -/
def fastCapStep : Status := 0x0A03
/-- CAP_TIMEOUT, file 16. -/
def capTimeout : Status := 0x0A04
/-- REFCLK_LOST, file 16. -/
def refclkLost : Status := 0x0A05
/-- THERMAL_WARN, file 16. -/
def thermalWarn : Status := 0x0A06
/-- THERMAL_TRIP, file 16. -/
def thermalTrip : Status := 0x0A07
/-- THERMAL_SHUTDOWN, file 16. -/
def thermalShutdown : Status := 0x0A08
/-- COOLANT_OUT_OF_RATING, file 16. -/
def coolantOutOfRating : Status := 0x0A09
/-- INPUT_LOW, file 16. -/
def inputLow : Status := 0x0A0A
/-- INPUT_HIGH, file 16. -/
def inputHigh : Status := 0x0A0B
/-- BROWN_OUT, file 16. -/
def brownOut : Status := 0x0A0C
/-- DATA_LOST, file 18. -/
def dataLost : Status := 0x0B01
/-- FRAME_RETIRED, file 18. -/
def frameRetired : Status := 0x0B02
/-- RETIRE_POOL_EMPTY, file 18. -/
def retirePoolEmpty : Status := 0x0B03
/-- VAT_CHANNEL_REPLACED, file 18. -/
def vatChannelReplaced : Status := 0x0B04
/-- VAT_NO_STANDBY, file 18. -/
def vatNoStandby : Status := 0x0B05
/-- VAT_CHANNEL_LOST, file 18. -/
def vatChannelLost : Status := 0x0B06
/-- STACK_FAILED, file 18. -/
def stackFailed : Status := 0x0B07
/-- PROCESSOR_REPLACED, file 18. -/
def processorReplaced : Status := 0x0B08
/-- PROCESSOR_FAILED, file 18. -/
def processorFailed : Status := 0x0B09
/-- CM_UNCORRECTABLE, file 18. -/
def cmUncorrectable : Status := 0x0B0A
/-- CELLAR_UNCORRECTABLE, file 18. -/
def cellarUncorrectable : Status := 0x0B0B
/-- SAVE_AREA_ERROR, file 18. -/
def saveAreaError : Status := 0x0B0C
/-- REG_PHASE_LOST, file 18. -/
def regPhaseLost : Status := 0x0B0D
/-- SPARE_TEST_FAILED, file 18. -/
def spareTestFailed : Status := 0x0B0E
/-- AGEING_ALERT, file 18. -/
def ageingAlert : Status := 0x0B0F
/-- CONSISTENCY, file 18. -/
def consistency : Status := 0x0B10

end Sys2Proof.Machine.Code
end

