-- ==== Sys2Proof/Machine/Vector.lean ====
section
/-! DEFINITION. The vector pipeline: its record (R75), one row through its six stages (R67 to R82), the tile registers
(R84, R85) and what a tile's end commits (R78, R85). -/

namespace Sys2Proof

/-- A stage word, Table 4.2. -/
structure VStage where
  opc : Nat
  dstW : Bool
  srcA : Nat
  srcB : Nat
  srcC : Nat
  negA : Bool
  negC : Bool
  func : Nat
  treg : Nat
  trFixed : Bool
  trRow : Nat
  md : Bool
  imm : F32
  deriving DecidableEq, Repr

def vstage (w : Nat) : VStage :=
  { opc := bits w 0 5, dstW := bit w 5, srcA := bits w 6 3, srcB := bits w 9 3, srcC := bits w 12 3,
    negA := bit w 15, negC := bit w 16, func := bits w 17 4, treg := bits w 21 3, trFixed := bit w 24,
    trRow := bits w 25 6, md := bit w 31, imm := BitVec.ofNat 32 (bits w 32 32) }

/-- A vector record, R75. -/
structure VecRec where
  enable : Bool
  mode1 : Bool
  src : Nat
  inFmt : Nat
  loadTreg : Nat
  sinkCuo : Bool
  sinkTreg : Bool
  sinkScalar : Bool
  treg : Nat
  sinkW : Bool
  outFmt : Nat
  outSat : Bool
  tokenOut : Bool
  laneCount : Nat
  rowCount : Nat
  vtiles : Nat
  stages : List VStage
  tabs : Nat
  bytes : List Byte

/-- R75: the record that its bytes hold. -/
def vecRec (bs : List Byte) : VecRec :=
  let w := leAt bs 0 16
  { enable := bit w 0, mode1 := bit w 1, src := bits w 2 2, inFmt := bits w 4 3, loadTreg := bits w 7 4,
    sinkCuo := bit w 11, sinkTreg := bit w 12, sinkScalar := bit w 13, treg := bits w 14 3, sinkW := bit w 17,
    outFmt := bits w 18 3, outSat := bit w 21, tokenOut := bit w 22, laneCount := bits w 23 7,
    rowCount := bits w 30 7, vtiles := bits w 37 16, tabs := bits w 53 4,
    stages := (List.range 6).map fun i => vstage (leAt bs (16 + 8 * i) 8), bytes := bs }

/-- R75: function table TABn, in ascending order of the tables present. -/
def vecTab (r : VecRec) (n : Nat) : FTab :=
  let before := ((List.range n).filter fun i => bit r.tabs i).length
  ftab ((r.bytes.drop (64 + 784 * before)).take 784)

/-- Table 4.4: the operands a micro-op reads, a, b and c. A code in a field that the micro-op does not read is no use of what it
names (log entry 88). -/
def vopReads (g : VStage) : List Nat :=
  match g.opc with
  | 1 => [g.srcA, g.srcB, g.srcC]
  | 2 => [g.srcA, g.srcB]
  | 3 => [g.srcA, g.srcB]
  | 4 => if g.srcC = 4 then [g.srcA, 4] else [g.srcA]
  | 5 => [g.srcA, g.srcB, g.srcC]
  | 6 => [g.srcA]
  | 7 => [g.srcA]
  | 8 => [g.srcA, g.srcB]
  | 9 => [g.srcA]
  | 10 => [g.srcA]
  | 11 => [g.srcA]
  | _ => []

/-- R73: whether any micro-op uses the tile scalar. -/
def vecUsesScal (r : VecRec) : Bool := r.stages.any fun g => (vopReads g).contains 4

/-- R71: whether any micro-op names the side source. -/
def vecUsesSide (r : VecRec) : Bool := r.stages.any fun g => (vopReads g).contains 7

/-- R73: whether COMPRESS takes its mask from the scalar input. -/
def vecUsesMask (r : VecRec) : Bool := r.stages.any fun g => g.opc == 12 && g.srcA == 0

/-- R73: the scalar entries that a tile takes. -/
def vecScalars (r : VecRec) : Nat := (if vecUsesScal r then 1 else 0) + (if vecUsesMask r then 2 else 0)

/-- Vector entries of a row in a format, R71 and R74: 4 in FP32, 2 in BF16 or FP16, 1 in E4M3 or E5M2. -/
def rowEntries (fmt : Nat) : Nat := fwidth (outFmt fmt) / 8

/-- R71: the 64 elements that a row's entries hold, widened to FP32. -/
def rowOf (fmt : Nat) (es : List Nat) : List F32 :=
  (unpack (fwidth (outFmt fmt)) 64 (pack 512 es)).map (f32from (outFmt fmt))

/-- A tile register bank: the rows that are not all +0, by 64 × register + row. -/
abbrev TRegs := List (Nat × List F32)

def zeroRow : List F32 := List.replicate 64 f32zero

/-- The pipeline of one CU between its rows: the finished-tile queue (R64), the pass position, the tile registers with their
uncommitted writes (R85), the column accumulators (R78), the tile scalar and mask (R73), what the tile has sent, and the
entries of the latest row of the final tile, which wait until the CU knows whether they carry LAST (R74). -/
structure VecSt where
  ftq : List (List F32) := []
  tile : Nat := 0
  loaded : Bool := false
  row : Nat := 0
  taken : Bool := false
  scal : F32 := 0
  mask : Nat := 0
  treg : TRegs := []
  writes : List (Nat × List F32) := []
  cols : List (Nat × List F32) := []
  sent : Nat := 0
  heldV : List Nat := []
  heldS : List Nat := []
  deriving DecidableEq, Repr

/-- R85: a row of a tile register as it stood after the previous tile's commit. -/
def tregRow (s : VecSt) (reg row : Nat) : List F32 := Tbl.get zeroRow s.treg (64 * reg + row)

/-- R69: every NaN result is the canonical quiet NaN; in MODE 1 the result rounds once to BF16. -/
def vround (mode1 : Bool) (x : F32) : F32 :=
  let y := if f32isNan x then f32nan else x
  if mode1 then f32bf y else y

/-- A row on its way through the stages: V, W and whether COMPRESS has removed it. -/
structure VRow where
  v : List F32
  w : List F32
  live : Bool

/-- Table 4.3: operand `src` of the row, lane by lane, with its sign. -/
def voperand (s : VecSt) (g : VStage) (idx : Nat) (side : List F32) (x : VRow) (src : Nat) (neg : Bool) : List F32 :=
  let l := match src with
    | 0 => x.v
    | 1 => x.w
    | 2 => tregRow s g.treg (if g.trFixed then g.trRow else idx)
    | 3 => List.replicate 64 g.imm
    | 4 => List.replicate 64 s.scal
    | 5 => zeroRow
    | 6 => List.replicate 64 f32one
    | _ => side
  if neg then l.map f32neg else l

/-- R77: one level of the tree. -/
def treeLevel (op : F32 → F32 → F32) (w : Nat) (t : List F32) : List F32 :=
  List.zipWith op (t.take w) (t.drop w)

/-- R77: the reduction of a row in its fixed order. -/
def rowReduce (op : F32 → F32 → F32) (ident : F32) (lanes : Nat) (x : List F32) : F32 :=
  let t := x.take lanes ++ List.replicate (64 - lanes) ident
  nth f32zero ([32, 16, 8, 4, 2, 1].foldl (fun t w => treeLevel op w t) t) 0

/-- R78: the identity of a column reduction. -/
def colIdent (opc : Nat) : List F32 :=
  List.replicate 64 (if opc = 8 then f32zero else f32inf (opc == 9))

/-- R78: an accumulator after one row. -/
def colStep (opc : Nat) (lanes : Nat) (acc a b : List F32) : List F32 :=
  (List.range 64).map fun l =>
    let c := nth 0 acc l
    let x := nth 0 a l
    if lanes ≤ l then c
    else if opc = 8 then f32add c (f32mul x (nth 0 b l))
    else if opc = 9 then f32max c x else f32min c x

/-- A result written to V or W. -/
def vput (g : VStage) (x : VRow) (l : List F32) : VRow := if g.dstW then { x with w := l } else { x with v := l }

/-- Table 4.4: stage `i` applied to a row. Only rows that COMPRESS has left active are changed (R81). -/
def vecStage (r : VecRec) (idx : Nat) (side : List F32) (st : VecSt × VRow) (ig : Nat × VStage) : VecSt × VRow :=
  let s := st.1
  let x := st.2
  let g := ig.2
  let a := voperand s g idx side x g.srcA g.negA
  let b := voperand s g idx side x g.srcB false
  let c := voperand s g idx side x g.srcC g.negC
  let rd := vround r.mode1
  let fn := f32func (vecTab r) g.func
  let lanes := fun (f : Nat → F32) => (List.range 64).map f
  if !x.live then
    if g.opc = 13 then (s, ⟨List.replicate 64 (rd g.imm), zeroRow, true⟩) else st
  else match g.opc with
  | 1 => (s, vput g x (lanes fun l => rd (fn (f32fma (nth 0 a l) (nth 0 b l) (nth 0 c l)))))
  | 2 => (s, vput g x (lanes fun l => rd (fn (f32max (nth 0 a l) (nth 0 b l)))))
  | 3 => (s, vput g x (lanes fun l => rd (fn (f32min (nth 0 a l) (nth 0 b l)))))
  | 4 =>
    let k : Int := if g.srcC = 4 then sgn 32 s.scal.toNat else 0
    (s, vput g x (lanes fun l => rd (if decide (k < (l : Int) - idx) then g.imm else nth 0 a l)))
  | 5 =>
    let sum := rowReduce f32add f32zero r.laneCount (lanes fun l => f32mul (nth 0 a l) (nth 0 b l))
    (s, vput g x (lanes fun l => rd (fn (f32fma sum g.imm (nth 0 c l)))))
  | 6 =>
    let m := rowReduce f32max (f32inf true) r.laneCount a
    let m := if g.md && m == f32inf true then f32zero else m
    (s, vput g x (List.replicate 64 (rd (fn m))))
  | 7 =>
    let m := rowReduce f32min (f32inf false) r.laneCount a
    let m := if g.md && m == f32inf false then f32zero else m
    (s, vput g x (List.replicate 64 (rd (fn m))))
  | 8 => ({ s with cols := Tbl.insert s.cols ig.1 (colStep 8 r.laneCount (Tbl.get (colIdent 8) s.cols ig.1) a b) }, x)
  | 9 => ({ s with cols := Tbl.insert s.cols ig.1 (colStep 9 r.laneCount (Tbl.get (colIdent 9) s.cols ig.1) a b) }, x)
  | 10 => ({ s with cols := Tbl.insert s.cols ig.1 (colStep 10 r.laneCount (Tbl.get (colIdent 10) s.cols ig.1) a b) }, x)
  | 11 => ({ s with writes := s.writes ++ [(64 * g.treg + (if g.trFixed then g.trRow else idx), a.map rd)] }, x)
  | 12 =>
    let keep := if g.srcA = 0 then bit s.mask idx
      else f32lt g.imm (nth 0 x.w 0) || (g.md && f32le g.imm (nth 0 x.w 0))
    (s, { x with live := keep })
  | _ => st

/-- R67, R68: one row through the six stages; what reaches the sink, with its inactive lanes at +0. -/
def vecRow (r : VecRec) (s : VecSt) (idx : Nat) (v side : List F32) : VecSt × Option (List F32) :=
  let v := if r.mode1 then v.map f32bf else v
  let o := (r.stages.zipIdx.map fun p => (p.2, p.1)).foldl (vecStage r idx side) (s, ⟨v, zeroRow, true⟩)
  let out := if r.sinkW then o.2.w else o.2.v
  (o.1, if o.2.live then some (out.take r.laneCount ++ List.replicate (64 - r.laneCount) f32zero) else none)

/-- R74, R85: the sink's register write and the count of the tile's rows. -/
def vecSink (r : VecRec) (s : VecSt) (idx : Nat) (out : List F32) : VecSt :=
  { s with
    writes := if r.sinkTreg then s.writes ++ [(64 * r.treg + idx, out)] else s.writes
    sent := s.sent + 1 }

/-- R74: the entries of a row on CUO, each element taken through the rounding and overflow steps of R50. -/
def vecCuo (r : VecRec) (out : List F32) : List Nat :=
  let f := outFmt r.outFmt
  entriesOf (fwidth f) (out.map fun x => fenc f r.outSat (f32v x))

/-- R78, R85: the tile-end commit: the column results and every write of the tile reach the tile registers. Of two writes to one row
of one register the later stands: TWR and the sink in row order, then the column results (log entry 89). -/
def vecCommit (r : VecRec) (s : VecSt) : VecSt :=
  let colw := (r.stages.zipIdx.filter fun p => 8 ≤ p.1.opc ∧ p.1.opc ≤ 10).map fun p =>
    (64 * p.1.treg + p.1.trRow,
      (Tbl.get (colIdent p.1.opc) s.cols p.2).take r.laneCount ++ List.replicate (64 - r.laneCount) f32zero)
  { s with
    treg := (s.writes ++ colw).foldl (fun t w => Tbl.set zeroRow t w.1 w.2) s.treg
    writes := [], cols := [], sent := 0, row := 0, taken := false, tile := s.tile + 1, heldV := [], heldS := [] }

/-- R72, R84: after the final tile of a pass the next pass begins: its tile registers read +0 and its LOAD_TREG tile comes first. -/
def vecPassEnd (s : VecSt) : VecSt := { s with tile := 0, loaded := false, treg := [] }

/-- R72: the first tile of a pass written into register LOAD_TREG, row by row. -/
def vecLoad (r : VecRec) (s : VecSt) (idx : Nat) (v : List F32) : VecSt :=
  { s with treg := Tbl.set zeroRow s.treg (64 * r.loadTreg + idx) v }

/-- Rows of a tile of the source: 64 from the finished-tile queue, ROW_COUNT from a stream (R71). -/
def vecRows (r : VecRec) : Nat := if r.src = 0 then 64 else r.rowCount

end Sys2Proof
end

