-- ==== Sys2Proof/Machine/GridTypes.lean ====
section
/-! DEFINITION. The state of the grid (files 02 to 07): entries, queues, units, memory units, windows, beat timers, the
records in force, the image table, the shadow and the wave. -/

namespace Sys2Proof.Machine

/-- An asynchronous operation that runs, R329: the context and program that issued it, its ticket and its immediate result. -/
structure OpRef where
  ctx : Nat := 0
  prog : Nat := 0
  ticket : BitVec 16 := 0
  imm : BitVec 16 := 0
  deriving DecidableEq, Repr

/-- A network entry, R19: up to 512 data bits and the LAST bit. A control entry's token is its low 8 bits. -/
structure Entry where
  data : BitVec 512 := 0
  last : Bool := false
  deriving DecidableEq, Repr

/-- What a steering unit is in the midst of (R120, R121, R124): a group under token `tok` with the entries taken from D0 and D1
and whether each side has ended, the copies left of a REPEAT entry, or a SEQ run of `n` tokens with `i` sent. -/
inductive SuBusy where
  | idle
  | group (tok k0 k1 : Nat) (end0 end1 : Bool)
  | copies (e : Entry) (left : Nat)
  | run (n i : Nat)
  deriving DecidableEq, Repr

/-- A steering unit, R118: its queues, its progress, the entries of a TALLY group, the position in a zero-source group
(R125), and its firing count since the pass began (R127; a pass begins with the first beat to begin while none runs, log
entry 83). -/
structure SuSt where
  d0 : List Entry := []
  d1 : List Entry := []
  t : List Byte := []
  busy : SuBusy := .idle
  tally : Nat := 0
  zpos : Nat := 0
  fires : Nat := 0
  deriving DecidableEq, Repr

/-- A line of the coalescing buffer, R97: its word address, its bytes and which of them are valid; `fresh` marks the bytes that a
generator or a stream has written since the checkpoint, which a replay discards (R113). -/
structure CoalLine where
  word : Nat
  bytes : List (Option Byte)
  fresh : List Bool := List.replicate 64 false
  deriving DecidableEq, Repr

/-- The position of a generator, R93, R99: nests done in the pass, elements done in the nest, whether it waits for a flip. -/
structure GenPos where
  nest : Nat := 0
  elem : Nat := 0
  waits : Bool := false
  deriving DecidableEq, Repr

/-- R100: a flip that an operation or the Ladle has requested: its regions, the control tokens that arrived before it and still wait,
and whether a replay makes the request again by itself. -/
structure FlipAsk where
  regions : BitVec 8
  behind : Nat := 0
  repeats : Bool := false
  deriving DecidableEq, Repr

/-- A memory unit: its banks by MU byte address, the tag fields by word, the coalescing buffer (oldest line first), and the
state of its regions, generators and banks (R89 to R110). `flip` is the pending flip, `flipTok` whether what has requested it since the
checkpoint requests it again in a replay (a control token, the Ladle's combine); `flipQ` are the flips that operations have requested
(R100). For replays (R113): `real` counts the exchanges of each region's halves since the checkpoint, `redo` those that a replay has
yet to meet again, and `opTook` are the other requests that have taken effect since the checkpoint. `tokens`: the count and completion tokens that wait for
room at its control output (R27), and `given` those of the beat since the checkpoint. `poison`: the words poisoned under
R398. Masks: bit r for region r, bit b for bank b. -/
structure MuSt where
  mem : Bytes := []
  tags : List (Nat × BitVec 16) := []
  coal : List CoalLine := []
  rd : GenPos := {}
  wr : GenPos := {}
  fifoRd : List (Nat × Nat) := []
  fifoWr : List (Nat × Nat) := []
  fillHalf : BitVec 8 := 0
  flip : BitVec 8 := 0
  flipTok : Bool := false
  flipQ : List FlipAsk := []
  real : List Nat := List.replicate 8 0
  redo : List Nat := List.replicate 8 0
  opTook : List (BitVec 8) := []
  tokens : List Entry := []
  given : List Entry := []
  waking : BitVec 32 := 0
  powered : BitVec 32 := 0
  zeroing : BitVec 32 := 0
  dirty : BitVec 32 := 0
  poison : List Nat := []
  deriving DecidableEq, Repr

/-- One cell: the entries travelling to each switch input and local input, the queues, when the head of each switch input
queue began to wait, the steering units, the matrix engine (operand entries taken for the tile that accumulates, the held B
panel, whether the next A entry of a B_HOLD pass comes on CUB, finished tiles that drain, and the tiles of the pass that have
accumulated and drained), the vector pipeline and the memory unit. Queue keys: 8 × network + input index for a
switch input, 32 + 8 × network + output index for a local input. -/
structure CellSt where
  wire : List (Nat × List Entry) := []
  q : List (Nat × List Entry) := []
  since : List (Nat × Nat) := []
  su : List SuSt := [{}, {}, {}, {}]
  takenA : List (BitVec 512) := []
  takenB : List (BitVec 512) := []
  panel : Option (List (BitVec 512)) := none
  side : Bool := false
  done : List MTile := []
  mtile : Nat := 0
  drained : Nat := 0
  vec : VecSt := {}
  mu : MuSt := {}
  deriving DecidableEq, Repr

/-- The records of a cell, R137, with its wait byte (R148). The default is the idle cell of R149. -/
structure CellRec where
  sw : List Byte := leBytes 16 (2 ^ 76 - 1)
  su : List Byte := List.replicate 64 0
  mat : List Byte := List.replicate 16 0
  mu : List Byte := List.replicate 96 0
  vec : List Byte := List.replicate 64 0
  wait : Byte := 0
  deriving DecidableEq, Repr

/-- R36: a beat of an old configuration that still runs when its timer index is armed for the new one: its entry, when it began,
whether it has overrun, whether it is a replay, and whether its sink has sent LAST. -/
structure OldBeat where
  cfg : Word
  start : Nat
  overrun : Bool
  replay : Bool
  sinkLast : Bool
  deriving DecidableEq, Repr

/-- A beat timer, R33 to R36, Table 2.10. `cfg` is the BT_CFG image. `srcSent`: the source has sent an entry since the timer
was armed or its beat ended; `sinkLast`: the sink has sent LAST since that entry; `disarm`: the wave has passed its sink
during a beat; `old`: beats of old configurations that end at their own LAST (R36), oldest first. `begun` counts the beats
begun, and a replay returns it; `top` is the most it has been, so a beat at or below it is a replayed one. `frozen` is
when a save froze the timer (R36). -/
structure Timer where
  cfg : Word := 0
  armed : Bool := false
  running : Bool := false
  overrun : Bool := false
  replay : Bool := false
  frozen : Option Nat := none
  start : Nat := 0
  srcSent : Bool := false
  sinkLast : Bool := false
  disarm : Bool := false
  old : List OldBeat := []
  begun : Nat := 0
  top : Nat := 0
  last : Nat := 0
  max : Nat := 0
  beats : Nat := 0
  overruns : Nat := 0
  deriving DecidableEq, Repr

/-- The grid of the running job. -/
structure Grid where
  cells : List (Nat × CellSt) := []
  recs : List (Nat × CellRec) := []
  timers : List Timer := List.replicate 8 {}
  deriving DecidableEq, Repr

/-- WDONE of a window slot, R304: its settings, the PLAIN markers counted for the fill half (member and count), the units landed
by member, and whether the token has been sent. -/
structure WDone where
  enable : Bool := false
  senders : Nat := 0
  token : Nat := 0
  markers : List (Nat × Nat) := []
  landed : List (Nat × Nat) := []
  sent : Bool := false
  deriving DecidableEq, Repr

/-- A window slot, R102, R103, Table 5.6, with the job it belongs to and the state of its close (R105): when it began and
the context and ticket that the WCLOSE reports to. `at0` and `at1` are the MU addresses of its bytes in the two halves of a
DOUBLE region (equal in any other), and `half` the half in which late writes land once a swap has replaced the region's entry
(R106, R110). `spent`: the units of the fill half that are no longer FRESH
(R303). `later`: markers that reached the window while it was suspended (R107). -/
structure Window where
  opened : Bool := false
  suspended : Bool := false
  closing : Bool := false
  gen : Byte := 0
  cell : Nat := 0
  region : Nat := 0
  baseUnit : Nat := 0
  units : Nat := 0
  at0 : Nat := 0
  at1 : Nat := 0
  half : Option Bool := none
  part : Byte := 0
  flip : Bool := false
  free : Nat := 0
  outstanding : Nat := 0
  held : Nat := 0
  writes : Nat := 0
  refused : Nat := 0
  lastCode : Status := 0
  lastSrc : BitVec 16 := 0
  job : Nat := 0
  closeAt : Nat := 0
  closeFor : List OpRef := []
  spent : List Nat := []
  later : List Frame := []
  wd : WDone := {}
  deriving DecidableEq, Repr

/-- An entry of the image table, R144, Table 7.9: STATE 0 free, 1 checking, 2 registered, 3 failed; and the context and ticket
that registered it. -/
structure ImgSlot where
  st : Nat := 0
  addr : Nat := 0
  overlay : Bool := false
  bytes : Nat := 0
  baseSlot : Nat := 0
  ovlIndex : Nat := 0
  id : Nat := 0
  forOp : OpRef := {}
  deriving DecidableEq, Repr

/-- A preload block, R146: cell, region, byte offset, data. -/
structure PreBlock where
  cell : Nat
  region : Nat
  off : Nat
  data : List Byte
  deriving DecidableEq, Repr

/-- The parts of a configuration beside its cells, R140: timers by index, stream descriptors by index, the SCHEDULE and
LADLE sections. -/
structure ConfTables where
  timers : List (Nat × Word) := []
  streams : List (Nat × List Byte) := []
  sched : List Byte := []
  ladle : List Byte := []
  deriving DecidableEq, Repr

/-- The shadow, R145, R154: 0 EMPTY, 1 LOADING, 2 READY, 3 SWAPPING; the composed configuration, its changed cells, the
preload blocks that wait for the commits, the operation that loads it and a swap that waits for it. -/
structure Shadow where
  st : Nat := 0
  slot : Nat := 0
  recs : List (Nat × CellRec) := []
  tables : ConfTables := {}
  changed : List Nat := []
  late : List PreBlock := []
  forOp : OpRef := {}
  waiting : Option OpRef := none
  deriving DecidableEq, Repr

/-- The wave, R148 to R152: whether the injection has happened, per cell the tokens received and whether its wait has been
met and it has committed, the tokens that travel, the old entries left on each awaited input (key 24 × cell + 8 × network +
input; R150), when the swap began, how long an MU has held the token, and whether the wave has stopped for good (R154). -/
structure Wave where
  active : Bool := false
  stopped : Bool := false
  first : Bool := false
  injected : Bool := false
  tokens : List (Nat × BitVec 5) := []
  travel : List (Nat × BitVec 4) := []
  met : List Nat := []
  committed : List Nat := []
  old : List (Nat × Nat) := []
  start : Nat := 0
  heldSince : Option Nat := none
  heldTime : Nat := 0
  forOp : OpRef := {}
  deriving DecidableEq, Repr

/-- The Churn of the running job: the image table, what is in force, the shadow, the wave and its counts. -/
structure Churn where
  images : List ImgSlot := List.replicate 64 {}
  baseSlot : Nat := 0
  baseValid : Bool := false
  ovlSlot : Nat := 0
  ovlValid : Bool := false
  tables : ConfTables := {}
  shadow : Shadow := {}
  wave : Wave := {}
  committed : Nat := 0
  changed : Nat := 0
  swaps : Nat := 0
  waveLast : Nat := 0
  waveMax : Nat := 0
  deriving DecidableEq, Repr

/-- A record register of Table 2.11's kind: the register's image (CODE in 15:0, VALID in 16, then the fields), the second
register that some of them have, and the count of further records. `detail` is what the record names beyond its registers'
fields, in the order of the rule that records it (log entry 84). -/
structure Rec where
  reg : Word := 0
  aux : Word := 0
  more : BitVec 32 := 0
  detail : List Nat := []
  deriving DecidableEq, Repr

end Sys2Proof.Machine
end

