-- ==== Sys2Proof/Machine/MemTypes.lean ====
section
/-! DEFINITION. The state of the tiers, the streams, the store and the Separator (files 08 and 09). -/

namespace Sys2Proof.Machine

/-- A page's state, R158 to R162: unmapped, NEAR or VAT with its frame, MOVING between two frames, or ABSENT with the stripe
image that backs it, if any. -/
inductive PState where
  | unmapped
  | near (f : Nat)
  | vat (f : Nat)
  | moving (srcVat : Bool) (src : Nat) (dstVat : Bool) (dst : Nat)
  | absent (backing : Option Nat)
  deriving DecidableEq, Repr

/-- A page of the page map with the job it counts against, and whether it is set aside for a request (R164 to R166). -/
structure PageEnt where
  st : PState := .unmapped
  job : Nat := 0
  aside : Bool := false
  deriving DecidableEq, Repr

/-- A frame's state beside being mapped, R157, R163: free and zeroed (the default), in use, being zeroed, or retired. -/
inductive FState where
  | free | used | zeroing | retired
  deriving DecidableEq, Repr

/-- A queued or running page move, R161, R164, R179, R181: its page, destination and job, whether it has started, the operation
that waits for it, and the schedule entry that issued it. -/
structure Move where
  page : Nat
  toVat : Bool
  job : Nat
  started : Bool := false
  forOp : Option OpRef := none
  sched : Option Nat := none
  deriving DecidableEq, Repr

/-- An accepted MAP that has not completed, R330: first page, count, tier (0 NEAR, 1 VAT, 2 ABSENT), job and operation. -/
structure MapOp where
  first : Nat
  count : Nat
  tier : Nat
  job : Nat
  op : OpRef
  deriving DecidableEq, Repr

/-- A stream descriptor's run-time state, R169 to R175: 0 IDLE, 1 ARMED, 2 RUNNING, 3 HALTED, 4 DONE. `addr` and `off` are the
ADDR and MU_OFFSET in force, `pos` the word position, `shadow` a pending re-arm, `took` the arms and re-arms that have taken effect
since the checkpoint and `again` those that a replay has yet to repeat (R181), `ran` whether it ran in the current
assignment of its half, `ready` when it could first start, `quiet` whether a resumption has already met the ABSENT page. -/
structure Stream where
  st : Nat := 0
  pos : Nat := 0
  addr : Nat := 0
  off : Nat := 0
  shadow : Option (Nat × Nat) := none
  took : List (Nat × Nat) := []
  again : List (Nat × Nat) := []
  ran : Bool := false
  ready : Nat := 0
  quiet : Bool := false
  deriving DecidableEq, Repr

/-- R179: a page that entry `entry` wants in a tier before beat number `before` of the schedule begins. -/
structure Due where
  entry : Nat
  page : Nat
  vat : Bool
  before : Nat
  deriving DecidableEq, Repr

/-- The migration engine's schedule of the running job, R178, R179, Table 8.7: `count` beats have begun since it started, `entry` is
the next to issue, and `due` are the pages with a DEADLINE that have not been seen in their target state. -/
structure Sched where
  running : Bool := false
  count : Nat := 0
  entry : Nat := 0
  due : List Due := []
  late : Nat := 0
  moves : Nat := 0
  skipped : Nat := 0
  deriving DecidableEq, Repr

/-- A line of a read cache, R167, R168: its line number (device address div 256), whether it is pinned, and whether a cell that has
committed in the wave under way has pinned it (R168: the lines that others pinned become ordinary when the wave completes). Most
recent first. -/
structure CacheLine where
  line : Nat
  pinned : Bool
  fresh : Bool := false
  deriving DecidableEq, Repr

/-- R190: the tag of a shard: 128 bits of its digest, the stripe and shard it belongs to, the directory slot of its image and a write
sequence number. -/
structure ShardTag where
  digest : List Byte := []
  stripe : Nat := 0
  shard : Nat := 0
  dir : Nat := 0
  seq : Nat := 0
  deriving DecidableEq, Repr

/-- A written stripe, R187, R190: its eight shards as stored (empty where a shard no longer reads), their tags, the directory slot of
its image, its write sequence number, and whether it is known to be lost. -/
structure Stripe where
  shards : List (List Byte) := []
  tags : List ShardTag := []
  dir : Nat := 0
  seq : Nat := 0
  lost : Bool := false
  deriving DecidableEq, Repr

/-- A page of a SPILL image that still has its backing: its place in the image, the offset and length of its bytes in the image, and for
a page in ZWORD chunks the offset of its entries in the chunk table. -/
structure Backing where
  index : Nat
  off : Nat
  len : Nat
  table : Nat := 0
  deriving DecidableEq, Repr

/-- An image of the store's directory, R187, R194, R195, R212: its identity, KIND, stripes (position in the image and number),
adapter identity and version, wrapped key pair, and for a SPILL image its job, its coding and the pages it still backs. -/
structure DirEnt where
  id : Word := 0
  kind : Nat := 0
  stripes : List (Nat × Nat) := []
  adapter : Nat := 0
  version : Nat := 0
  wrapped : List Byte := []
  job : Nat := 0
  zword : Bool := false
  backed : List Backing := []
  deriving DecidableEq, Repr

/-- A Separator command, R199, R201: the fields of its block, the operation that waits for it, its job, whether it runs and how it
ended; the adapter slot that a LOAD took; the pages that a RESTORE counted when it was accepted (R208), and the request (service
and slot) for which admission issued it. -/
structure SepCmd where
  op : Nat := 0
  tier : Nat := 0
  wset : Nat := 0
  adapter : Nat := 0
  version : Nat := 0
  zword : Bool := false
  id : Word := 0
  addr : Nat := 0
  count : Nat := 0
  forOp : OpRef := {}
  job : Nat := 0
  running : Bool := false
  result : Option Status := none
  slot : Option Nat := none
  pages : List Nat := []
  req : Option (Nat × Nat) := none
  deriving DecidableEq, Repr

/-- A weight set, R202, Table 9.7: 0 EMPTY, 1 LOADING, 2 READY, 3 FAILED; its image, first page, pages and job. -/
structure WSet where
  st : Nat := 0
  image : Word := 0
  page : Nat := 0
  pages : Nat := 0
  job : Nat := 0
  deriving DecidableEq, Repr

/-- An adapter slot, R204, Table 9.7: 0 EMPTY, 1 LOADING, 2 READY, 3 CURRENT, 4 RETIRING, 5 FAILED; the version it holds, its
references, pages and job. -/
structure AdpSlot where
  st : Nat := 0
  id : Nat := 0
  version : Nat := 0
  refs : Nat := 0
  page : Nat := 0
  pages : Nat := 0
  job : Nat := 0
  deriving DecidableEq, Repr

/-- The store and the Separator (file 09). `drawn` counts the bytes drawn from the random bit generator, `spillKeys` holds each
job's wrapped pair, `scrubSince` is when the scrub pass began. Shipped figures of wear and spare blocks under R449. -/
structure Sep where
  dir : List (Nat × DirEnt) := []
  stripes : List (Nat × Stripe) := []
  writes : Nat := 0
  drawn : Nat := 0
  spillKeys : List (Nat × List Byte) := []
  wsets : List WSet := List.replicate 16 {}
  adps : List (Nat × AdpSlot) := []
  urgent : List SepCmd := []
  bulk : List SepCmd := []
  rebuilt : Nat := 0
  lost : Nat := 0
  scrubPos : Nat := 0
  scrubSince : Nat := 0
  passDays : Nat := 0
  wear : List Nat := List.replicate 8 0
  spare : List Nat := List.replicate 8 100
  corr : List Nat := List.replicate 8 0
  deriving DecidableEq, Repr

end Sys2Proof.Machine
end

