-- ==== Sys2Proof/Machine/AdmTypes.lean ====
section
/-! DEFINITION. The state of admission (file 10) and of the Cellar and the Skimmer (file 11). -/

namespace Sys2Proof.Machine

/-- A service, R214 to R217, R227, R235 to R257: the registers of Tables 10.6 and 11.6 as written, STATE 0 CLOSED, 1 OPEN,
2 SUSPENDED, its rounds, and its counts. `ctr` counts every round begun: the schedule of
the admitted requests is kept in it. `gone`: the slots whose request has ended FAULTED or REMOVED in the round in progress (R263). -/
structure Service where
  cfg : Word := 0
  timing : Word := 0
  kv : Word := 0x200000000
  ctrl : Word := 0
  st : Nat := 0
  idx : Nat := 0
  prefillNext : Nat := 0
  ctr : Nat := 0
  inRound : Bool := false
  gone : List Nat := []
  start : Nat := 0
  timer : Nat := 0
  beats : Nat := 0
  job : Nat := 0
  rounds : Nat := 0
  long : Nat := 0
  pool : Word := 0
  area : Word := 0x50000000
  areaSet : Bool := false
  logit : Word := 0
  slotmap : Word := 0
  token : Word := 0
  skm : Word := 0
  steps : Nat := 0
  accepted : Nat := 0
  deriving DecidableEq, Repr

/-- A sequence entry, R232, R233, Tables 11.1 and 11.7: 0 FREE, 1 OPEN, 2 RESIDENT. `stored` positions have their keys and
values stored, `pending` is the token at the last position, `pool` its pool blocks in order. -/
structure SeqEnt where
  st : Nat := 0
  job : Nat := 0
  svc : Nat := 0
  slot : Nat := 0
  lost : Bool := false
  ver : Nat := 0
  stored : Nat := 0
  pending : Option Nat := none
  pool : List Nat := []
  gram : Nat := 0
  deriving DecidableEq, Repr

/-- A pool block that is not free, R236 to R240: its job, service and number in the pool, its references, its prefix hash while it
is indexed, the tokens it holds, its last reuse or publication, and whether a copy into it runs. -/
structure PBlock where
  job : Nat
  svc : Nat
  idx : Nat
  refs : Nat := 0
  hash : Option (List Byte) := none
  tokens : List Nat := []
  last : Nat := 0
  busy : Bool := false
  deriving DecidableEq, Repr

/-- An outstanding copy, R237: of `n` positions from own block `own` of the request in a slot of a service to a pool block, for the index under a
hash, for KEEP, or both; `orphan`: its KEEP has lapsed or its request has gone. -/
structure BCopy where
  job : Nat
  svc : Nat
  slot : Nat
  own : Nat
  idx : Nat
  n : Nat
  hash : Option (List Byte) := none
  keep : Bool := false
  orphan : Bool := false
  deriving DecidableEq, Repr

/-- An admitted request without its completion record, R218 to R225, R237, R242, R252, R254: its descriptor and host slot, what it
holds, its rounds and bounds, its times (moved by suspensions, R222), its tokens, its copies, its re-arms that wait (which
descriptor of the slot map, and address), those issued that are pending (descriptor, which, address), the contexts whose CANCEL waits
for it, and how and when it ended. `excused`: its promise broke in a thermal trip with cooling outside the rating (R229). -/
structure Req where
  svc : Nat
  slot : Nat
  host : Nat
  job : Nat
  desc : List Byte
  seq : Option Nat := none
  adp : Option Nat := none
  version : Nat := 0
  reused : Nat := 0
  startLen : Nat := 0
  pages : Nat := 0
  rFirst : Nat := 0
  rLast : Nat := 0
  ttft : Nat := 0
  interval : Nat := 0
  base : Nat := 0
  last : Nat := 0
  due : Nat := 0
  first : Nat := 0
  worst : Nat := 0
  late : Nat := 0
  susp : Nat := 0
  faults : Nat := 0
  broken : Bool := false
  excused : Bool := false
  overrun : Bool := false
  checked : Bool := false
  sampled : Option Nat := none
  tokens : List Nat := []
  produced : Nat := 0
  keep : Bool := false
  publish : Bool := false
  gram : Nat := 0
  tree : List Byte := []
  copied : Nat := 0
  kept : List Nat := []
  lapsed : Bool := false
  rearms : List (Nat × Nat) := []
  issued : List (Nat × Nat × Nat) := []
  cancels : List Nat := []
  ended : Option (Nat × Status) := none
  endAt : Nat := 0
  deriving DecidableEq, Repr

/-- A pending request, R224. -/
structure Pend where
  host : Nat
  job : Nat
  desc : List Byte
  deriving DecidableEq, Repr

/-- R163: the decision that waits for zeroed frames: that of an ADMIT instruction, by its context and the context's program count, or
that of a pending request. -/
inductive Deciding where
  | ctx (c : Nat) (prog : Nat)
  | pend (p : Pend)
  deriving DecidableEq, Repr

/-- Admission, the Cellar and the Skimmer of the module. Requests are in order of admission; `deciding` is the decision that waits for
zeroed frames (R163). -/
structure Adm where
  svcs : List Service := List.replicate 16 {}
  reqs : List Req := []
  pending : List Pend := []
  deciding : Option Deciding := none
  seqs : List (Nat × SeqEnt) := []
  blocks : List PBlock := []
  copies : List BCopy := []
  admitted : Nat := 0
  refused : Nat := 0
  broken : Nat := 0
  overruns : Nat := 0
  promised : Nat := 0
  lost : Nat := 0
  reused : Nat := 0
  published : Nat := 0
  notKept : Nat := 0
  skipped : Nat := 0
  collisions : Nat := 0
  cmd : Word := 0
  deriving DecidableEq, Repr

end Sys2Proof.Machine
end

