-- ==== Sys2Proof/Machine/RingTypes.lean ====
section
/-! DEFINITION. The state of the Ladle (file 12) and of the Miled ring (file 13). -/

namespace Sys2Proof.Machine

/-- A row that a dispatch routed: position, table rank in the dispatch, queue and answer slot; `st` 0 waits, 1 sent, 2 void; its place
among the rows sent to the queue, and the units of it to write again because their writes met a suspended window (R299). -/
structure LadRow where
  p : Nat
  t : Nat
  queue : Nat
  slot : Nat
  st : Nat := 0
  idx : Nat := 0
  redo : List Nat := []
  deriving DecidableEq, Repr

/-- A dispatch's credit on one queue in a half, R264: units not yet asked for, credits held, rows sent, marker sent. -/
structure LadQ where
  queue : Nat
  credit : Nat := 0
  sent : Nat := 0
  marked : Bool := false
  deriving DecidableEq, Repr

/-- A credit request that waits at its window (R271, R274): requesting module, partition, window, GEN, count, epoch. -/
structure HeldReq where
  src : BitVec 16
  part : Byte
  win : Nat
  gen : Byte
  n : Nat
  epoch : Option (BitVec 16) := none
  deriving DecidableEq, Repr

/-- A half-batch of a dispatch, R263 to R277: its epoch, its letter, the half of SRC_REGION it is read from, and its phase: 0 a
replay sends it again, 1 SENDING, 2 AWAIT, 3 COMBINE. `landed` lists the answer units that have landed. -/
structure DispHalf where
  epoch : BitVec 16 := 0
  letter : Bool := false
  side : Bool := false
  phase : Nat := 1
  rows : List LadRow := []
  qs : List LadQ := []
  landed : List Nat := []
  since : Nat := 0
  deriving DecidableEq, Repr

/-- A dispatch point, R263 to R275, Table 12.7: the epoch last taken, the letter of the half-batch that is or was last awaited and
of the next one, the half-batches in flight (the first is awaited, the last may be sending), how many flips a replay repeats, and the
stale answers (epoch, slot) of which some frames have been dropped, with how many. -/
structure DispSt where
  epoch : BitVec 16 := 0
  half : Bool := false
  next : Bool := false
  flight : List DispHalf := []
  halves : Nat := 0
  resent : Nat := 0
  again : Nat := 0
  held : List HeldReq := []
  dropped : List (BitVec 16 × Nat × Nat) := []
  deriving DecidableEq, Repr

/-- The credit of a collector's answers towards one answer window and epoch, R273. -/
structure AnsQ where
  home : Nat
  win : Nat
  gen : Byte
  epoch : BitVec 16
  credit : Nat := 0
  deriving DecidableEq, Repr

/-- A collector, R267 to R273, Table 12.7: markers that have arrived (member, epoch, count; a member's first one belongs to the
half), the rows landed with the units of each, the member whose row landed last, the queue that markers name, the count token sent for
the half, the halves drained whose answers are not exposed yet (the first `exposed` of them are,
since the checkpoint), and the answers to send and sent (row of the drain half, tag). -/
structure CollSt where
  markers : List (Nat × BitVec 16 × Nat) := []
  rows : List (RowTag × Nat) := []
  last : Nat := 0
  queue : Option Nat := none
  token : Option Nat := none
  lastToken : Nat := 0
  since : Option Nat := none
  held : List HeldReq := []
  heldN : Nat := 0
  halves : Nat := 0
  flips : Nat := 0
  drained : List (List RowTag) := []
  exposed : Nat := 0
  answers : List (Nat × RowTag) := []
  past : List (Nat × RowTag) := []
  ansQs : List AnsQ := []
  deriving DecidableEq, Repr

/-- LQ_BIND, Table 12.6. -/
structure LqBind where
  bound : Bool := false
  win : Nat := 0
  gen : Byte := 0
  member : Nat := 0
  deriving DecidableEq, Repr

/-- The Ladle of the running job. -/
structure Ladle where
  binds : List (Nat × LqBind) := []
  disps : List DispSt := List.replicate 16 {}
  colls : List CollSt := List.replicate 64 {}
  rows : Nat := 0
  answers : Nat := 0
  stale : Nat := 0
  zeroHalves : Nat := 0
  deriving DecidableEq, Repr

/-- Who asked for a window's credit (R264, R273, R302); `gone`: nobody needs it any more, and the grant returns. -/
inductive Asker where
  | disp (d queue : Nat) (epoch : BitVec 16)
  | coll (c k : Nat)
  | sender (n : Nat)
  | gone
  deriving DecidableEq, Repr

/-- A credit request on its way, or one that got nothing and may ask again from `retry` on (R299). -/
structure Ask where
  who : Asker
  dst : BitVec 16
  part : Byte
  win : Nat
  gen : Byte
  n : Nat
  epoch : Option (BitVec 16) := none
  retry : Option Nat := none
  deriving DecidableEq, Repr

/-- A ring sender, R302: the RSND_CFG image, completed sends, and the send in progress: whether one is, the next unit,
the credits held, and units to write again because their writes met a suspended window. -/
structure Sender where
  cfg : Word := 0
  sends : Nat := 0
  active : Bool := false
  pos : Nat := 0
  credit : Nat := 0
  redo : List Nat := []
  deriving DecidableEq, Repr

/-- A frame that waits at a port, with its transit origin (R290, R298): the receiving port, its LSEQ there and the DL share. -/
structure QFrame where
  f : Frame
  origin : Option (Nat × BitVec 16 × Bool) := none
  deriving DecidableEq, Repr

/-- A frame in a replay buffer, R289, R290. -/
structure Custody where
  lseq : BitVec 16
  q : QFrame
  acked : Bool := false
  deriving DecidableEq, Repr

/-- What a port puts on its wire. -/
inductive Wire where
  | frame (lseq : BitVec 16) (f : Frame)
  | ack (ack release : BitVec 16) (nak : Bool) (part : Byte) (dl : Bool) (flits : Nat)
  | ident (serial : Word) (port : Nat) (plan : BitVec 32) (src : BitVec 16)
  | heartbeat (state : Nat) (leaving : Bool)
  | leaving (done : Bool)
  | brk (axis pos : Nat) (up : Bool)
  | swap (lane width : Nat)
  deriving DecidableEq, Repr

/-- A token bucket, R306: its level in sixteenths of a byte, when that held, since when a frame waits for tokens, the
periods stalled, the bytes charged. -/
structure Bucket where
  tokens : Int := 0
  at_ : Nat := 0
  waitAt : Option Nat := none
  stalls : Nat := 0
  bytes : Nat := 0
  deriving DecidableEq, Repr

/-- A port, R284 to R314, Table 13.7. STATE 0 DOWN, 1 TRAINING, 2 UP, 3 MISWIRED, 4 LEAVING, 5 TEST. `map`: the physical lane of
each active logical lane; `retired` lanes; `spare`: the physical lane that stands by, L12 or a restored one (R412), and whether it is in service; `swapping`: a lane swap under way and the lane it retires; `queue`: frames that wait,
in order; `credit` and `share` by `shareKey`: flits the sender may send, and the shares that the neighbour has granted; `rxSeq`: the last
good LSEQ received; `open_`: frames received whose custody is not released;
`l12Errors`: bit errors that the receiver has counted on L12 out of service (R286); `used`, `owed` as `credit`: flits that occupy the transit share, and credit to return; `repeats`: BREAK and LEAVING
frames repeated until a heartbeat acknowledges them; `test`: a bit-error test's start, and whether it is a lane restore. -/
structure PortSt where
  st : Nat := 0
  map : List Nat := List.range 12
  spare : Nat := 12
  spareUsed : Bool := false
  laneOk : BitVec 13 := 0x1FFF
  retired : BitVec 13 := 0
  swapping : Option Nat := none
  farLeaving : Bool := false
  farSerial : Word := 0
  farPort : Nat := 0
  farIndex : BitVec 16 := 0
  farPlan : BitVec 32 := 0
  fecCorr : Nat := 0
  fecUncorr : Nat := 0
  l12Errors : Nat := 0
  replays : Nat := 0
  swaps : Nat := 0
  downs : Nat := 0
  txBytes : Nat := 0
  transitBytes : Nat := 0
  berMode : Bool := false
  berLanes : BitVec 13 := 0
  berMs : Nat := 1000
  test : Option Nat := none
  berDone : Bool := false
  berFailed : BitVec 13 := 0
  berWorst : Nat := 0
  berErrors : Nat := 0
  queue : List QFrame := []
  txSeq : BitVec 16 := 0
  replay : List Custody := []
  credit : List (Nat × Nat) := []
  share : List Nat := []
  rxSeq : BitVec 16 := 0
  open_ : List (BitVec 16 × Bool) := []
  ackAt : Option Nat := none
  released : BitVec 16 := 0
  relSent : BitVec 16 := 0
  used : List (Nat × Nat) := []
  owed : List (Nat × Nat) := []
  repeats : List Wire := []
  lastRx : Nat := 0
  identAt : Option Nat := none
  hbAt : Nat := 0
  wire : List Wire := []
  deriving DecidableEq, Repr

/-- A partition entry, Table 13.6: the writable bits of PT_CFG and PT_RATE. -/
structure PtEntry where
  cfg : Word := 0
  rate : Word := 0
  deriving DecidableEq, Repr

/-- A plan, R294: index, lengths, identifier, partition entries and each port's expected far end. -/
structure Plan where
  valid : Bool := false
  index : BitVec 16 := 0
  lengths : BitVec 16 := 0
  id : BitVec 32 := 0
  pts : List PtEntry := List.replicate 32 {}
  expSerial : List Word := List.replicate 8 0
  expCheck : List Bool := List.replicate 8 false
  deriving DecidableEq, Repr

/-- The ring of the module: the plan registers as written and the plan in force, the ports, the loopback, the buckets by
32 × port + entry, each axis's breaks (minus-side positions) with those whose link is back and when, the frames dropped
under R287, and whether the module leaves. -/
structure Ring where
  plan : Plan := {}
  inForce : Plan := {}
  ports : List PortSt := List.replicate 8 {}
  loop : List Frame := []
  buckets : List (Nat × Bucket) := []
  breaks : List (List Nat) := [[], [], [], []]
  restored : List (List Nat) := [[], [], [], []]
  quietSince : List Nat := [0, 0, 0, 0]
  frameBad : Nat := 0
  leaving : Bool := false
  deriving DecidableEq, Repr

end Sys2Proof.Machine
end

