-- ==== Sys2Proof/Machine/CtlTypes.lean ====
section
/-! DEFINITION. The state of the control side: Raler contexts and program queues (file 14), host slots, ownership and the
snapshot (file 15), clocks, power and heat (file 16), bring-up and firmware (file 17), spares, faults and ageing (file 18)
and the service panel (file 19). -/

namespace Sys2Proof.Machine

/-- What a context waits for (R328, R254, R305): nothing, an event, a cancellation, or the answer to a message. -/
inductive CtxWait where
  | none
  | event (rd : Nat) (mask : BitVec 32) (until? : Option Nat)
  | cancel (rd : Nat) (got : Bool)
  | msend (rd : Nat) (dst : Nat)
  deriving DecidableEq, Repr

/-- A Raler context, R319, R323, R327, Table 14.9: STATE 0 IDLE, 1 RUNNING, 2 WAITING, 3 SUSPENDED, 4 SAVED. `prog` numbers
the program it runs, `entry` is the index of its program queue entry. -/
structure CtxSt where
  regs : List Word := List.replicate 32 0
  pc : Nat := 0
  lastPc : Nat := 0
  st : Nat := 0
  ev : BitVec 32 := 0
  evq : List Word := []
  timer : Option Nat := none
  waits : CtxWait := .none
  tag : BitVec 32 := 0
  ticket : BitVec 16 := 0
  regStatus : Status := 0
  entry : Nat := 0
  prog : Nat := 0
  deriving DecidableEq, Repr

/-- A program queue, R322, Table 14.10. HEAD and TAIL wrap at 32 bits; `begun` and `ended` are the indices of entries whose
program has started, and has ended, since the entry at HEAD. -/
structure ProgQ where
  base : Nat := 0
  size : Nat := 8
  head : BitVec 32 := 0
  tail : BitVec 32 := 0
  begun : List (BitVec 32) := []
  ended : List (BitVec 32) := []
  deriving DecidableEq, Repr

/-- The Raler processors: contexts 1, 3, 5, 7 are the supervisors'; the job contexts are the job's. -/
structure Raler where
  ctx : List CtxSt := List.replicate 8 {}
  pq : List ProgQ := (List.range 4).map fun q => { base := 0x600000 + 0x8000 * q }
  progs : Nat := 0
  physMap : List Nat := [0, 1, 2, 3]
  spareUsed : Bool := false
  out : List Nat := []
  deriving DecidableEq, Repr

/-- A host slot, R339, R346 to R350, Tables 15.5 and 15.6, with its inspection selects. `buf` holds records that wait for the
ring; `ring` is what the module has written to host memory; `msgs` the interrupt messages it has sent (vector, address,
data); `sentAt` when it last sent each vector's; `resp` the bytes that the slot's latest read command returned. -/
structure HostSlot where
  present : Bool := false
  width : Nat := 0
  rate : Nat := 0
  errCount : BitVec 32 := 0
  errCode : Status := 0
  errBar : Nat := 0
  errOffset : Nat := 0
  rqBase : Nat := 0
  rqTail : BitVec 32 := 0
  crAddr : Word := 0
  crEnable : Bool := false
  crLog2 : Nat := 10
  crTail : BitVec 32 := 0
  crHead : BitVec 32 := 0
  buf : List (List Byte) := []
  lost : BitVec 32 := 0
  intEn : Word := 1
  pba : Word := 0
  msix : Bytes := []
  sentAt : List (Nat × Nat) := []
  ring : Bytes := []
  msgs : List (Nat × Word × BitVec 32) := []
  recent : List Word := []
  resp : List Byte := []
  cmBase : Nat := 0
  rxSel : Nat := 0
  swSel : Nat := 0
  muSel : Nat := 0
  pgSel : Nat := 0
  strSel : Nat := 0
  dirSel : Nat := 0
  seqSel : Nat := 0
  rgSel : Nat := 0
  deriving DecidableEq, Repr

/-- Ownership, R340 to R343. -/
structure Own where
  owned : Bool := false
  slot : Nat := 0
  epoch : BitVec 32 := 0
  nonce : Word := 0
  leaseEnd : Nat := 0
  handover : Bool := false
  target : Nat := 0
  handoverEnd : Nat := 0
  hoValid : Bool := false
  hoTarget : Nat := 0
  deriving DecidableEq, Repr

/-- The snapshot, R345. -/
structure Snap where
  seq : Word := 0
  epoch : Word := 0
  time : Word := 0
  own : Word := 0
  job : Word := 0
  svc : Word := 0
  adm : Word := 0
  health : Word := 0
  deriving DecidableEq, Repr

/-- Clocks, power and heat, Tables 16.5 and 16.6. Frequencies in MHz. `fabric` is the clock in force; `capFreq`, `droopFreq` and
`warnFreq` are what each limiter sets (2,100: not active), `droopAt` and `warnAt` when they last moved; the trip clock and the
low-input limit are flags. `capLim` is the POWER bit; `peakSince`, `tripSince` and `droopSince` begin the times that run. -/
structure Power where
  fabric : Nat := 1600
  capFreq : Nat := 1600
  capLim : Bool := false
  droopFreq : Nat := 2100
  droopAt : Nat := 0
  warnFreq : Nat := 2100
  warnAt : Nat := 0
  trip : Bool := false
  tripAt : Nat := 0
  inputLow : Bool := false
  peakSince : Option Nat := none
  peakPp : Nat := 0
  tripSince : Option Nat := none
  tripPp : Nat := 0
  droops : Nat := 0
  droopSince : Option Nat := none
  stretchPp : Nat := 0
  refMgmt : Bool := true
  refLink : Bool := true
  refHost : List Bool := [true, true]
  holdover : Bool := false
  maxC : List Nat := [0, 0, 0, 0, 0, 0]
  thermState : Nat := 0
  thermSource : Nat := 0
  trips : Nat := 0
  warns : Nat := 0
  inlet : Nat := 0
  outlet : Nat := 0
  flow : Nat := 0
  inRating : Bool := false
  deriving DecidableEq, Repr

/-- The management port's power registers, Table 16.6. `energy` is in W times planning periods; `evalAt` is the last evaluation. -/
structure PwrCap where
  cap : Nat := 1350
  armed : Nat := 1350
  timeoutMs : Nat := 0
  fallback : Nat := 1350
  lastWrite : Nat := 0
  fellBack : Bool := false
  inForce : Nat := 1350
  denied : Bool := false
  fastcap : Bool := false
  clamped : Bool := false
  mean : Nat := 0
  max10 : Nat := 0
  inputDv : Nat := 0
  energy : Nat := 0
  evalAt : Option Nat := none
  steps : Nat := 0
  denials : Nat := 0
  deriving DecidableEq, Repr

/-- Bring-up and firmware, Tables 17.4 and 19.6. STAGE 1 ROM, 2 FIRMWARE, 3 TRAINING, 4 READY, 5 FAILED, 6 WARM. -/
structure Boot where
  powered : Bool := false
  stage : Nat := 1
  cause : Nat := 0
  copyB : Bool := false
  stackFail : BitVec 12 := 0
  readyMs : Nat := 0
  startAt : Nat := 0
  cold : Nat := 0
  warm : Nat := 0
  modEn : Bool := false
  perst : List Bool := [true, true]
  vatZeroed : Bool := false
  vatEarly : List Nat := []
  shut : Bool := false
  shutHeat : Bool := false
  deriving DecidableEq, Repr

/-- The firmware copies in the store's system area and the update in progress (R388, R389, R434, Table 19.7). A copy holds its
security version and its FW_VERSION, or nothing that verifies. -/
structure Fw where
  copies : List (Option (Nat × BitVec 32)) := [some (1, 0x01000000), some (1, 0x01000000)]
  fusedMin : Nat := 1
  status : Status := 0
  reject : Nat := 0
  active : Bool := false
  target : Bool := false
  size : Nat := 0
  data : List Byte := []
  deriving DecidableEq, Repr

/-- The management port, R432: the mode and address read at power-up, the dynamic address of I3C, and the alerts it has signalled. -/
structure Mgmt where
  smbus : Bool := false
  addr : Nat := 0
  dynAddr : Option Nat := none
  alerts : Nat := 0
  deriving DecidableEq, Repr

/-- The service panel, R435 to R442: switches, REMOVAL 0 NONE, 1 REMOVING, 2 REMOVED, whether the removal began with the lever,
how far it has gone, the bits of PANEL_EVENT and of MG_PANEL EVENTS, the two LOCATE bits, the split pins. -/
structure Panel where
  latchClosed : Bool := true
  leverMoved : Bool := false
  latchSince : Nat := 0
  removal : Nat := 0
  byLever : Bool := false
  began : Nat := 0
  events : BitVec 4 := 0
  mgEvents : BitVec 4 := 0
  locate : Bool := false
  mgLocate : Bool := false
  split0 : Bool := false
  split1 : Bool := false
  removedReqs : Nat := 0
  doneUs : Nat := 0
  insertions : Nat := 1
  deriving DecidableEq, Repr

/-- An ageing region, R416, Table 18.10. -/
structure AgeReg where
  eol : Nat := 65535
  conf : Nat := 90
  spare : Nat := 0
  alert : Bool := false
  metric : Nat := 0
  offset : Nat := 0
  raisedAt : Option Nat := none
  updated : Nat := 0
  deriving DecidableEq, Repr

/-- A Vat channel, Table 18.9: STATE 0 in service, 1 standby, 2 copying, 3 retired; the slot it serves or is copied for. -/
structure VatCh where
  st : Nat := 0
  slot : Nat := 127
  src : Nat := 127
  deriving DecidableEq, Repr

/-- The Vat channels as shipped: V46, V47, V94 and V95 stand by, and the slots are mapped in order to the others (R157). -/
def vatShipped : List VatCh := (List.range 96).map fun c =>
  if c = 46 ∨ c = 47 ∨ c = 94 ∨ c = 95 then ⟨1, 127, 127⟩ else ⟨0, if c < 46 then c else c - 2, 127⟩

/-- Spares and ageing, R407 to R419, Tables 18.8 to 18.10: the stacks' pools and retired frames, frames that are being retired,
Vat channels, regulator rails without a redundant phase, the stacks that have failed, the operation of ERR_CTRL that runs (1 LANE_RESTORE, 2 SPARE_TEST) with the
fields last written, its STATUS and when it began, the unit faults that wait for a spare test (cell, code, in the MU column, injected, detail), and the ageing regions. -/
structure Ras where
  pool : List Nat := List.replicate 12 1536
  retired : List Nat := List.replicate 12 0
  retiring : List Nat := []
  chans : List VatCh := vatShipped
  rails : List Nat := []
  failedStacks : BitVec 12 := 0
  ctrl : Word := 0
  ctrlStatus : Status := 0
  busy : Nat := 0
  opAt : Nat := 0
  testing : Bool := false
  testHour : Nat := 0
  heldFaults : List (Nat × Status × Bool × Bool × List Nat) := []
  age : List AgeReg := List.replicate 64 {}
  mismatches : Nat := 0
  deriving DecidableEq, Repr

/-- Sparing, R20, R21: per die the pair out of service, the reason, whether it is a healthy spare held, and the pairs marked
FAILED, in the order in which they failed. -/
structure Die where
  oos : Nat := 16
  reason : Nat := 0
  held : Bool := true
  failed : List Nat := []
  deriving DecidableEq, Repr

end Sys2Proof.Machine
end

