-- ==== Sys2Proof/Machine/State.lean ====
section
/-! DEFINITION. The state of the module, the reasons a step can stop, and the state at time zero. -/

namespace Sys2Proof.Machine

/-- Why the machine would stop with a fault. No meaning of this model raises one: every status, job fault, unit fault and
shutdown of the spec is an effect on State. `unreachable` has no raiser; it is here because the type needs a reason. Safe. -/
inductive Fault where
  | unreachable
  deriving DecidableEq, Repr

/-- Why the model gives a command no meaning. `notModelled` is raised by an arm of `exec` whose meaning is not written; safe:
nothing follows from it. -/
inductive Refusal where
  | notModelled (mnemonic : String)
  deriving DecidableEq, Repr

/-- The record registers of every block (file 15, Table 15.1, vector 8), and PWR_EVENT. -/
structure Records where
  grid : Rec := {}
  mu : Rec := {}
  cfg : Rec := {}
  str : Rec := {}
  sep : Rec := {}
  adm : Rec := {}
  cel : Rec := {}
  lad : Rec := {}
  mil : Rec := {}
  ral : Rec := {}
  pt : Rec := {}
  unit : Rec := {}
  ras : Rec := {}
  pwr : Rec := {}
  deriving DecidableEq, Repr

/-- The limit registers that the owner writes: HANG_LIMIT, CLOSE_TIMEOUT, SWAP_LIMIT, HALF_LIMIT, SPILL_LIMIT, AGE_CTRL. -/
structure Limits where
  hangUs : Nat := 48
  closeUs : Nat := 1000
  swapUs : Nat := 200
  halfUs : Nat := 200
  spill : Nat := 11184810
  ageDays : Nat := 90
  ageConf : Nat := 90
  deriving DecidableEq, Repr

/-- The checkpoint of R401: the grid, streams and schedule as they stood, and when. Banks and accumulators are not used from it. -/
structure Ckpt where
  grid : Grid := {}
  streams : List (Nat × Stream) := []
  lad : Ladle := {}
  senders : List Sender := []
  wave : Wave := {}
  tables : ConfTables := {}
  time : Nat := 0
  partialTile : Bool := false
  deriving DecidableEq, Repr

/-- What belongs to the running job and is saved with it (R355): the grid, the Churn, streams, the schedule, the inbox with
the count of messages refused, and the checkpoint with its hazards (R402): the first reason that prevents a replay and the banks read since. -/
structure Job where
  grid : Grid := {}
  churn : Churn := {}
  streams : List (Nat × Stream) := []
  sched : Sched := {}
  sbase : List Nat := List.replicate 16 0
  rearmDropped : Nat := 0
  inbox : List (BitVec 16 × List Byte) := []
  refused : Nat := 0
  lad : Ladle := {}
  senders : List Sender := List.replicate 64 {}
  asks : List Ask := []
  ckpt : Option Ckpt := none
  hazard : Nat := 0
  banksRead : List (Nat × BitVec 32) := []
  deriving DecidableEq, Repr

/-- JOB_CTRL and JOB_STATE (file 15), when the STATE in force began, the job whose contents the banks hold while none runs (R352),
the size of the image of a save in progress, and whether the fault is a SLICE_LOST for the removal of another module (R229): STATE 0 NONE, 1 RUNNING, 2 FAULTED, 3 SAVING, 4 RESTORING, 5 ENDING, 6 STARTING. -/
structure JobCtl where
  st : Nat := 0
  id : Nat := 0
  fault : Status := 0
  lastStatus : Status := 0
  ptEntry : Nat := 0
  noRing : Bool := false
  resNear : Nat := 0
  resVat : Nat := 0
  nearRes : Nat := 0
  vatRes : Nat := 0
  op : OpRef := {}
  ctrlId : Nat := 0
  ctrlPt : Nat := 0
  ctrlNoRing : Bool := false
  began : Nat := 0
  banksOf : Nat := 0
  saveMib : Nat := 0
  left : Bool := false
  deriving DecidableEq, Repr

/-- A saved job, R355 to R357. -/
structure SavedJob where
  entry : Nat := 0
  urgent : List SepCmd := []
  bulk : List SepCmd := []
  mib : Nat := 0
  sliceLost : Bool := false
  time : Nat := 0
  ctl : JobCtl := {}
  job : Job := {}
  ctx : List CtxSt := []
  area : Bytes := []
  deriving DecidableEq, Repr

/-- The tiers (file 08): device memory by frame (byte keys: 2^21 × frame + offset), the page map, the frames that are not free,
MAPs in progress, the queue of moves, the two read caches by set with their counters, BAR4's window, and the words that are
poisoned (R398, R409): near words by byte key / 64, Vat granules by byte key / 256, Vat slots lost outright with the granules
written since. -/
structure Tiers where
  near : Bytes := []
  vat : Bytes := []
  pages : List (Nat × PageEnt) := []
  nearF : List (Nat × FState) := []
  vatF : List (Nat × FState) := []
  maps : List MapOp := []
  moves : List Move := []
  cache : List (List (Nat × List CacheLine)) := [[], []]
  hits : List Nat := [0, 0]
  misses : List Nat := [0, 0]
  pinSpill : List Nat := [0, 0]
  aperture : Nat := 0
  badNear : List Nat := []
  badVat : List Nat := []
  lostSlots : List Nat := []
  cured : List Nat := []
  deriving DecidableEq, Repr

/-- Counters since power-up: LINK_CORR, MU_CORR, CORR_COUNT, ZERO_STATUS EVENTS, FAULT_COUNT. -/
structure Counts where
  linkCorr : Nat := 0
  muCorr : Nat := 0
  corr : Nat := 0
  zeroings : Nat := 0
  unitFaults : Nat := 0
  replays : Nat := 0
  worst : Nat := 0
  deriving DecidableEq, Repr

/-- The state of the module. `pending` is the queue of commands that wait, first in, first out. `free` is the model's own
counter of the free choices made (log entry 3). `now` is the module timebase, in planning periods. -/
structure State where
  pending : List Instr := []
  free : Nat := 0
  now : Nat := 0
  cm : Bytes := []
  boot : Boot := {}
  fw : Fw := {}
  mgmt : Mgmt := {}
  panel : Panel := {}
  ras : Ras := {}
  power : Power := {}
  cap : PwrCap := {}
  raler : Raler := {}
  hosts : List HostSlot := (List.range 4).map fun n => { rqBase := 0x5F0000 + 0x1000 * n }
  own : Own := {}
  snap : Snap := {}
  jobc : JobCtl := {}
  job : Job := {}
  saved : List SavedJob := []
  wins : List Window := List.replicate 64 {}
  tiers : Tiers := {}
  recs : Records := {}
  limits : Limits := {}
  counts : Counts := {}
  dies : List Die := [{}, {}]
  remapLog : List (Nat × Nat × Status × Nat) := []
  hours : Nat := 0
  ring : Ring := {}
  sep : Sep := {}
  adm : Adm := {}
  deriving DecidableEq, Repr

/-- The module at time zero (R385): every field at its reset value. -/
def State.reset : State := {}

end Sys2Proof.Machine
end

