-- ==== Sys2Proof/Machine/Ops.lean ====
section
/-! DEFINITION. The operations that commands share: reading and writing the parts of State, interrupts (R350), record
registers, events and the end of a program (R322, R327), the completion of a device operation (R329), and the fault of a
job (R334, R353). -/

namespace Sys2Proof.Machine

/-- Planning periods in a microsecond and a millisecond. -/
def us : Nat := 1600
def ms : Nat := 1600000

/-! ### Parts of State -/

def getCell (s : State) (c : Nat) : CellSt := Tbl.get {} s.job.grid.cells c
def setGrid (s : State) (g : Grid) : State := { s with job := { s.job with grid := g } }
def setCell (s : State) (c : Nat) (v : CellSt) : State :=
  setGrid s { s.job.grid with cells := Tbl.set {} s.job.grid.cells c v }
def getRec (s : State) (c : Nat) : CellRec := Tbl.get {} s.job.grid.recs c
def setMu (s : State) (c : Nat) (m : MuSt) : State := setCell s c { getCell s c with mu := m }
def setChurn (s : State) (c : Churn) : State := { s with job := { s.job with churn := c } }
def getWin (s : State) (w : Nat) : Window := nth {} s.wins w
def setWin (s : State) (w : Nat) (v : Window) : State := { s with wins := s.wins.set w v }
def getHost (s : State) (n : Nat) : HostSlot := nth {} s.hosts n
def setHost (s : State) (n : Nat) (h : HostSlot) : State := { s with hosts := s.hosts.set n h }
def getCtx (s : State) (c : Nat) : CtxSt := nth {} s.raler.ctx c
def setCtx (s : State) (c : Nat) (v : CtxSt) : State := { s with raler := { s.raler with ctx := s.raler.ctx.set c v } }

/-- The free choice of R447 among `n` candidates: an index below `n`, and the state that has made it (log entry 3). -/
def choose (s : State) (n : Nat) : Nat × State := (Config.choice s.free % n, { s with free := s.free + 1 })

/-- READY of R390: registers answer, and the module works. -/
def isReady (s : State) : Bool := s.boot.powered && s.boot.stage == 4 && !s.boot.shut

/-- A job runs (JOB_STATE STATE 1). -/
def jobOn (s : State) : Bool := s.jobc.st == 1

/-- The grid's units fire: a job runs, and no unit fault holds them (R403, R420). -/
def jobRuns (s : State) : Bool := jobOn s && s.ras.heldFaults.isEmpty

/-- A job's faulted or running state is held in the units. -/
def jobHeld (s : State) : Bool := s.jobc.st == 1 || s.jobc.st == 2

/-- R392: the hours with the fabric powered, since manufacture. -/
def poweredHours (s : State) : Nat := if s.boot.shut then s.hours else s.hours + s.now / (3600 * 1000 * ms)

/-! ### Interrupts, R350 -/

/-- The MSI-X entry of vector `v`: message address, data, and whether it is masked. -/
def msixEntry (h : HostSlot) (v : Nat) : Word × BitVec 32 × Bool :=
  (BitVec.ofNat 64 (leNat (Mem.readN h.msix (16 * v) 8)), BitVec.ofNat 32 (leNat (Mem.readN h.msix (16 * v + 8) 4)),
   !bit (leNat (Mem.readN h.msix (16 * v + 12) 4)) 0)

/-- R350: a pending vector sends its message when it is not masked and its last message is 1 µs old; its bit then clears. -/
def msixSend (now : Nat) (h : HostSlot) (v : Nat) : HostSlot :=
  let e := msixEntry h v
  let last := Tbl.get none (h.sentAt.map fun p => (p.1, some p.2)) v
  let waited := match last with
    | none => true
    | some t => decide (t + us ≤ now)
  if h.pba.getLsbD v && !e.2.2 && waited then
    { h with
      pba := h.pba &&& ~~~(1#64 <<< v)
      sentAt := Tbl.insert h.sentAt v now
      msgs := h.msgs ++ [(v, e.1, e.2.1)] }
  else h

/-- R350: vector `v` becomes pending on a slot and is sent at once if it may be. -/
def msixRaise (now : Nat) (h : HostSlot) (v : Nat) : HostSlot :=
  if h.present && h.intEn.getLsbD v then msixSend now { h with pba := h.pba ||| (1#64 <<< v) } v else h

/-- R350: vectors 1 to 63 signal every present slot whose INT_EN bit is set. -/
def interrupt (s : State) (v : Nat) : State := { s with hosts := s.hosts.map fun h => msixRaise s.now h v }

/-- R350: a vector of one slot. -/
def interruptSlot (s : State) (n v : Nat) : State := setHost s n (msixRaise s.now (getHost s n) v)

/-- R350: pending vectors of every slot that may be sent now. -/
def msixFlush (s : State) : State :=
  { s with hosts := s.hosts.map fun h => (List.range 12).foldl (msixSend s.now) h }

/-! ### Completion rings, R349 -/

/-- R349: records in the ring that the host has yet to take. -/
def crUsed (h : HostSlot) : Nat := (h.crTail - h.crHead).toNat

/-- R349: one record written to the ring, and then CR_TAIL advances and signals vector 0. -/
def crWrite (now : Nat) (h : HostSlot) (r : List Byte) : HostSlot :=
  msixRaise now { h with
    ring := Mem.writeN h.ring (h.crAddr.toNat + 64 * (h.crTail.toNat % 2 ^ h.crLog2)) r
    crTail := h.crTail + 1 } 0

/-- R349: held records go to the ring, oldest first, while it has room. -/
def crDrain (now : Nat) : Nat → HostSlot → HostSlot
  | 0, h => h
  | n + 1, h =>
    match h.buf with
    | [] => h
    | r :: rs => if h.present && h.crEnable && decide (crUsed h < 2 ^ h.crLog2)
        then crDrain now n (crWrite now { h with buf := rs } r) else h

/-- R349: as many held records as the ring has room for. -/
def crFill (now : Nat) (h : HostSlot) : HostSlot := crDrain now h.buf.length h

/-- R349: a record for a slot enters its buffer, and the ring where it has room; or it is dropped and counted. -/
def postRecord (s : State) (n : Nat) (r : List Byte) : State :=
  let h := getHost s n
  if !h.present || !h.crEnable || decide (4096 ≤ h.buf.length) then setHost s n { h with lost := h.lost + 1 }
  else setHost s n (crFill s.now { h with buf := h.buf ++ [r] })

/-! ### Record registers -/

/-- Whether a record register holds a record. -/
def Rec.valid (r : Rec) : Bool := r.reg.getLsbD 16

/-- A record: kept when none is held, else counted. `fields` is the register's image above VALID, `detail` what the record names
beyond it. -/
def recNote (r : Rec) (code : Status) (fields aux : Nat) (detail : List Nat := []) : Rec :=
  if r.valid then { r with more := r.more + 1 }
  else ⟨BitVec.ofNat 64 (code.toNat + 2 ^ 16 + fields), BitVec.ofNat 64 aux, r.more, detail⟩

/-- W1C of VALID: clearing it clears the record. -/
def recClear (r : Rec) (v : Word) : Rec := if v.getLsbD 16 then {} else r

/-- R350, vector 8: a record register became VALID. -/
def recIrq (s : State) (was : Rec) : State := if was.valid then s else interrupt s 8

/-- GRID_FAULT, Table 2.11. A record that its rule gives no network or port has 0 in NET and PORT (log entry 85). -/
def noteGrid (s : State) (code : Status) (cell punit net port : Nat) (detail : List Nat := []) : State :=
  let r := recNote s.recs.grid code (fld 17 cell + fld 26 punit + fld 37 net + fld 39 port) 0 detail
  recIrq { s with recs := { s.recs with grid := r } } s.recs.grid

def noteMu (s : State) (code : Status) (cell bank addr win : Nat) (detail : List Nat := []) : State :=
  let r := recNote s.recs.mu code (fld 17 cell + fld 26 bank + fld 31 addr + fld 52 win) 0 detail
  recIrq { s with recs := { s.recs with mu := r } } s.recs.mu

def noteCfg (s : State) (code : Status) (cell kind slot off : Nat) : State :=
  let r := recNote s.recs.cfg code (fld 17 cell + fld 26 kind + fld 30 slot + fld 36 off) 0
  recIrq { s with recs := { s.recs with cfg := r } } s.recs.cfg

def noteStr (s : State) (code : Status) (sched : Bool) (index pos addr : Nat) : State :=
  let r := recNote s.recs.str code (fld 17 index + flg 30 sched + fld 31 pos) addr
  recIrq { s with recs := { s.recs with str := r } } s.recs.str

def noteSep (s : State) (code : Status) (op stripe shards : Nat) (id : Word) : State :=
  let r := recNote s.recs.sep code (fld 17 op + fld 21 stripe + fld 48 shards) id.toNat
  recIrq { s with recs := { s.recs with sep := r } } s.recs.sep

def noteAdm (s : State) (code : Status) (svc slot : Nat) : State :=
  recIrq { s with recs := { s.recs with adm := recNote s.recs.adm code (fld 17 svc + fld 21 slot) 0 } } s.recs.adm

def noteCel (s : State) (code : Status) (seq svc slot : Nat) : State :=
  recIrq { s with recs := { s.recs with cel := recNote s.recs.cel code (fld 17 seq + fld 29 svc + fld 33 slot) 0 } } s.recs.cel

def noteLad (s : State) (code : Status) (disp coll queue member epoch : Nat) (detail : List Nat := []) : State :=
  let r := recNote s.recs.lad code (fld 17 disp + fld 21 coll + fld 27 queue + fld 37 member + fld 45 epoch) 0 detail
  recIrq { s with recs := { s.recs with lad := r } } s.recs.lad

def noteMil (s : State) (code : Status) (port lane part module : Nat) : State :=
  let r := recNote s.recs.mil code (fld 17 port + fld 20 lane + fld 24 part + fld 32 module) 0
  recIrq { s with recs := { s.recs with mil := r } } s.recs.mil

def noteRal (s : State) (code : Status) (ctx pc : Nat) : State :=
  recIrq { s with recs := { s.recs with ral := recNote s.recs.ral code (fld 17 ctx + fld 20 pc) 0 } } s.recs.ral

/-- PT_FAULT; a new record also signals vector 11 (file 16). -/
def notePt (s : State) (code : Status) (source : Nat) : State :=
  let t := recIrq { s with recs := { s.recs with pt := recNote s.recs.pt code (fld 17 source) 0 } } s.recs.pt
  if s.recs.pt.valid then t else interrupt t 11

def noteUnit (s : State) (code : Status) (cell punit replay : Nat) (injected remapped : Bool) (lost : Nat)
    (detail : List Nat := []) : State :=
  let r := recNote s.recs.unit code (fld 17 cell + fld 26 punit + fld 37 replay + flg 40 injected + flg 41 remapped) lost detail
  recIrq { s with recs := { s.recs with unit := r } } s.recs.unit

def noteRas (s : State) (code : Status) (region detail : Nat) : State :=
  recIrq { s with recs := { s.recs with ras := recNote s.recs.ras code (fld 17 region + fld 32 detail) 0 } } s.recs.ras

/-- R432: the management port signals an alert. -/
def mgmtAlert (s : State) : State := { s with mgmt := { s.mgmt with alerts := s.mgmt.alerts + 1 } }

/-- PWR_EVENT, which no host reads: no vector; a new record raises a management alert (R432). -/
def notePwr (s : State) (code : Status) : State :=
  let t := { s with recs := { s.recs with pwr := recNote s.recs.pwr code 0 0 } }
  if s.recs.pwr.valid then t else mgmtAlert t

/-! ### Events and programs, R322, R327, R328 -/

/-- An event record, R327: status, ticket or source, detail. -/
def evRecord (status : Status) (src detail : Nat) : Word :=
  BitVec.ofNat 64 (status.toNat + fld 16 (src % 2 ^ 16) + fld 32 (detail % 2 ^ 32))

/-- Register `r` of a context written; g0 stays zero (R324). -/
def ctxPut (x : CtxSt) (r : Nat) (v : Word) : CtxSt := if r = 0 then x else { x with regs := x.regs.set r v }

/-- R328: a WAIT whose mask meets EV returns: rd takes those bits, which clear. -/
def ctxWake (x : CtxSt) : CtxSt :=
  match x.waits with
  | .event rd mask _ =>
    if x.ev &&& mask = 0 then x
    else { ctxPut x rd ((x.ev &&& mask).setWidth 64) with ev := x.ev &&& ~~~mask, waits := .none, st := 1 }
  | _ => x

/-- R327: an event: the record joins the queue of 64, or is discarded with OVERFLOW; a WAIT on it ends. -/
def ctxEvent (x : CtxSt) (b : Nat) (r : Word) : CtxSt :=
  let e := if 64 ≤ x.evq.length then { x with ev := x.ev ||| (1#32 <<< b) ||| (1#32 <<< 31) }
    else { x with ev := x.ev ||| (1#32 <<< b), evq := x.evq ++ [r] }
  ctxWake e

def raiseEvent (s : State) (c b : Nat) (r : Word) : State := setCtx s c (ctxEvent (getCtx s c) b r)

/-- The job contexts and the supervisor contexts, R319. -/
def jobCtxs : List Nat := [0, 2, 4, 6]
def supCtxs : List Nat := [1, 3, 5, 7]

/-- An event to every job context, or to every supervisor context. -/
def raiseAll (s : State) (cs : List Nat) (b : Nat) (r : Word) : State := cs.foldl (fun s c => raiseEvent s c b r) s

/-- One byte of control memory. -/
def cmRead (s : State) (a n : Nat) : List Byte := Mem.readN s.cm a n
def cmWrite (s : State) (a : Nat) (d : List Byte) : State := { s with cm := Mem.writeN s.cm a d }

/-- R322: the entry's address in its queue's ring. -/
def pqAddr (q : ProgQ) (i : BitVec 32) : Nat := q.base + 32 * (i.toNat % 2 ^ q.size)

/-- R322: HEAD passes the entries that have ended, in ring order. -/
def pqRetire : Nat → ProgQ → ProgQ
  | 0, q => q
  | n + 1, q =>
    if q.ended.contains q.head then
      pqRetire n { q with head := q.head + 1, ended := q.ended.erase q.head, begun := q.begun.erase q.head }
    else q

/-- R322, R323: an entry's completion fields are written, DONE is set, HEAD advances, and NOTIFY signals vector 4 + q. -/
def pqEnd (s : State) (q : Nat) (i : BitVec 32) (status user : Status) (endPc : Nat) : State :=
  let pq := nth {} s.raler.pq q
  let a := pqAddr pq i
  let notify := bit (leNat (cmRead s a 4)) 24
  let s := cmWrite s (a + 24) (leBytes 7 (status.toNat + fld 16 user.toNat + fld 32 1 + fld 33 (endPc % 2 ^ 23)))
  let pq := pqRetire (pq.ended.length + 1) { pq with ended := pq.ended ++ [i] }
  let s := { s with raler := { s.raler with pq := s.raler.pq.set q pq } }
  if notify then interrupt s (4 + q) else s

/-- R322: a context's program ends; the context is idle. -/
def endProgram (s : State) (c : Nat) (status user : Status) : State :=
  let x := getCtx s c
  if x.st = 0 then s
  else
    let s := setCtx s c { x with st := 0, waits := .none, timer := none }
    pqEnd s (c / 2) (BitVec.ofNat 32 x.entry) status user x.lastPc

/-- R334: a program fault ends the program of its context, whose last instruction is at `lastPc`, and is recorded. -/
def programFault (s : State) (c : Nat) (code : Status) : State :=
  let x := getCtx s c
  noteRal (endProgram s c code 0) code c (x.lastPc % 2 ^ 23)

/-- R333: the contexts of a saved job, job context `o.ctx` of which receives OPDONE where it runs program `o.prog`. -/
def savedDone (o : OpRef) (r : Word) (cs : List CtxSt) : List CtxSt :=
  cs.modify (o.ctx / 2) fun x => if x.prog = o.prog ∧ x.st ≠ 0 ∧ o.ctx % 2 = 0 then ctxEvent x 1 r else x

/-- R329, R335: the completion of an asynchronous operation: OPDONE in the issuing context while its program still runs, or is
saved with its job (R333). -/
def opDone (s : State) (o : OpRef) (status : Status) : State :=
  let x := getCtx s o.ctx
  let r := evRecord status o.ticket.toNat o.imm.toNat
  if o.prog = 0 then s
  else if x.prog = o.prog ∧ x.st ≠ 0 then raiseEvent s o.ctx 1 r
  else { s with saved := s.saved.map fun j => { j with ctx := savedDone o r j.ctx } }

/-! ### Job faults, R334, R353 -/

/-- R350, vector 3: JOB_STATE changed. -/
def setJobSt (s : State) (st : Nat) : State := interrupt { s with jobc := { s.jobc with st := st } } 3

/-- R107: SUSPENDED of the windows of a job. -/
def suspendWins (s : State) (job : Nat) (v : Bool) : State :=
  { s with wins := s.wins.map fun w => if w.opened && w.job == job then { w with suspended := v } else w }

/-- R334, R353: the running job becomes FAULTED: every job program ends with JOB_FAULTED and every supervisor context receives
JOBFAULT. During a save the save is abandoned and completes with JOB_FAULTED (R358). -/
def raiseJobFault (s : State) (code : Status) : State :=
  if s.jobc.st = 1 ∨ s.jobc.st = 3 then
    let was := s.jobc.st
    let op := s.jobc.op
    let s := setJobSt { s with jobc := { s.jobc with fault := code } } 2
    let s := jobCtxs.foldl (fun s c => endProgram s c Code.jobFaulted 0) s
    let s := raiseAll s supCtxs 6 (evRecord code 0 0)
    if was = 3 then opDone (suspendWins s s.jobc.id false) op Code.jobFaulted else s
  else s

/-- R104, R313: a fault of a saved job: it is FAULTED when it is restored. -/
def savedFault (k : SavedJob) (code : Status) : SavedJob :=
  if k.ctl.st = 1 then { k with ctl := { k.ctl with st := 2, fault := code } } else k

/-- R104: a fault of the job with an identifier: the running job, or a saved one. -/
def ownerFault (s : State) (job : Nat) (code : Status) : State :=
  if s.jobc.st ≠ 0 ∧ s.jobc.id = job then raiseJobFault s code
  else { s with saved := s.saved.map fun k => if k.ctl.id = job then savedFault k code else k }

/-! ### Physical places, R20 -/

/-- The die of a logical cell. -/
def dieOf (cell : Nat) : Nat := if cell / 16 < 16 then 0 else 1

/-- R20: the physical pair of a logical cell. -/
def physPair (s : State) (cell : Nat) : Nat :=
  let d := dieOf cell
  let k := cell / 16 - 16 * d
  if k < (nth {} s.dies d).oos then k else k + 1

/-- The code of a physical unit: die, column, row (file 02). -/
def punit (s : State) (cell : Nat) (inMu : Bool) : Nat :=
  fld 10 (dieOf cell) + fld 4 (2 * physPair s cell + (if inMu then 1 else 0)) + cell % 16

/-- R399: an interruption is charged to every open request of the running job (its FAULTS field). -/
def chargeInterruption (s : State) : State :=
  { s with adm := { s.adm with reqs := s.adm.reqs.map fun r =>
      if r.job == s.jobc.id && r.ended.isNone then { r with faults := r.faults + 1 } else r } }

end Sys2Proof.Machine
end

