-- ==== Sys2Proof/Machine/Links.lean ====
section
/-! DEFINITION. What every sender of ring frames shares (file 13): partitions and members (R293), routes (R295, R296, R312), and the
way a frame leaves its origin (R295, R298, R302). -/

namespace Sys2Proof.Machine

/-- ID_SERIAL, fixed at manufacture: the as-shipped value of this model (log entry 2). -/
def moduleSerial : Word := 0x56584D3438010001

/-! ### Partition entries, R293, Table 13.6 -/

def ptPart (e : PtEntry) : Nat := bits e.cfg.toNat 0 8
def ptValid (e : PtEntry) : Bool := bit e.cfg.toNat 8
def ptDir (e : PtEntry) (a : Nat) : Nat := bits e.cfg.toNat (9 + 2 * a) 2
def ptOrigin (e : PtEntry) : Nat := bits e.cfg.toNat 17 16
def ptExt (e : PtEntry) (a : Nat) : Nat := bits e.cfg.toNat (33 + 4 * a) 4 + 1
def ptRate (e : PtEntry) : Nat := bits e.rate.toNat 0 12
def ptBurst (e : PtEntry) : Nat := bits e.rate.toNat 12 12

/-- R292: the length of an axis, and a module's position on it. -/
def axisLen (p : Plan) (a : Nat) : Nat := bits p.lengths.toNat (4 * a) 4 + 1
def axisPos (m a : Nat) : Nat := bits m (4 * a) 4

/-- R293: how far a module lies from the origin on an axis. -/
def boxOff (p : Plan) (e : PtEntry) (m a : Nat) : Nat :=
  (axisPos m a + axisLen p a - axisPos (ptOrigin e) a) % axisLen p a

/-- R293: a module lies in the box. -/
def inBox (p : Plan) (e : PtEntry) (m : Nat) : Bool :=
  (List.range 4).all fun a => decide (axisPos m a < axisLen p a) && decide (boxOff p e m a < ptExt e a)

def boxSize (e : PtEntry) : Nat := ptExt e 0 * ptExt e 1 * ptExt e 2 * ptExt e 3

/-- R293: the member index of a module, and the module of a member index. -/
def memberOf (p : Plan) (e : PtEntry) (m : Nat) : Nat :=
  ((boxOff p e m 3 * ptExt e 2 + boxOff p e m 2) * ptExt e 1 + boxOff p e m 1) * ptExt e 0 + boxOff p e m 0

def moduleOf (p : Plan) (e : PtEntry) (k : Nat) : Nat :=
  let go := fun a d => (axisPos (ptOrigin e) a + d) % axisLen p a * 16 ^ a
  go 0 (k % ptExt e 0) + go 1 (k / ptExt e 0 % ptExt e 1) + go 2 (k / (ptExt e 0 * ptExt e 1) % ptExt e 2) +
    go 3 (k / (ptExt e 0 * ptExt e 1 * ptExt e 2))

/-- Every module of a partition. -/
def members (p : Plan) (e : PtEntry) : List Nat := (List.range (boxSize e)).map (moduleOf p e)

/-- The valid entry of a partition in the plan in force, with its index. -/
def findPt (s : State) (part : Nat) : Option (PtEntry × Nat) :=
  if s.ring.inForce.valid then (s.ring.inForce.pts.zipIdx).find? fun x => ptValid x.1 && ptPart x.1 == part else none

/-- This module's index. -/
def myIndex (s : State) : Nat := s.ring.inForce.index.toNat

/-- The entry and the partition of the running job; one that is being restored is still a saved job. -/
def jobPt (s : State) : Option PtEntry :=
  if s.jobc.st = 0 ∨ s.jobc.st = 4 ∨ s.jobc.noRing then none
  else (s.ring.inForce.pts[s.jobc.ptEntry]?).filter fun e => s.ring.inForce.valid && ptValid e
def jobPart (s : State) : Option Nat := (jobPt s).map ptPart

/-- The module of a member of the running job's partition, and this module's member index in it. -/
def jobModule (s : State) (k : Nat) : Nat := ((jobPt s).map fun e => moduleOf s.ring.inForce e k).getD 0
def jobMember (s : State) : Nat := ((jobPt s).map fun e => memberOf s.ring.inForce e (myIndex s)).getD 0

/-! ### Frames, R287 -/

/-- LEN of a frame. -/
def bodyLen : Body → Nat
  | .write _ _ _ d => d.length
  | .add _ _ _ d => d.length
  | .row _ _ _ _ d => d.length
  | .answer _ _ _ _ _ d => d.length
  | .msg d => d.length
  | _ => 0

/-- CLASS of a frame: DATA, or CRED. -/
def bodyData : Body → Bool
  | .write .. => true
  | .add .. => true
  | .row .. => true
  | .answer .. => true
  | .msg _ => true
  | _ => false

/-- The flits of a frame. -/
def flits (b : Body) : Nat := 1 + (bodyLen b + 31) / 32

/-! ### Routes, R295, R296, R312 -/

/-- R312: going plus, or minus, for `n` links from position `i` meets no broken link. -/
def wayClear (bs : List Nat) (l i n : Nat) (plus : Bool) : Bool :=
  bs.all fun b => decide (n ≤ if plus then (b + l - i) % l else (i + l - 1 - b) % l)

/-- R295: the direction that DIR gives from position `i` to `j`. -/
def axisDir (dir l i j : Nat) : Bool :=
  if dir = 1 then true else if dir = 2 then false else decide (2 * ((j + l - i) % l) ≤ l)

/-- R295, R312: the direction taken on an axis, `fixed` for a frame already on it; none where the breaks leave no way. -/
def axisWay (bs : List Nat) (dir l i j : Nat) (fixed : Option Bool) : Option Bool :=
  let want := fixed.getD (axisDir dir l i j)
  let dist := fun plus => if plus then (j + l - i) % l else (i + l - j) % l
  if wayClear bs l i (dist want) want then some want
  else if wayClear bs l i (dist (!want)) (!want) then some (!want)
  else none

/-- R295, R296: the port and the DL on which a frame leaves this module for `dst`; `from?` is the axis, direction and DL of a
frame that passes through. -/
def route (s : State) (e : PtEntry) (dst : Nat) (from? : Option (Nat × Bool × Bool)) : Option (Nat × Bool) :=
  let me := myIndex s
  let p := s.ring.inForce
  match (List.range 4).find? fun a => axisPos me a != axisPos dst a with
  | none => none
  | some a =>
    let on := from?.filter fun f => f.1 == a
    let l := axisLen p a
    let i := axisPos me a
    match axisWay (nth [] s.ring.breaks a) (ptDir e a) l i (axisPos dst a) (on.map fun f => f.2.1) with
    | none => none
    | some plus =>
      let cross := if plus then i + 1 == l else i == 0
      some (2 * a + (if plus then 1 else 0), ((on.map fun f => f.2.2).getD false) || cross)

/-! ### Ports -/

def getPort (s : State) (p : Nat) : PortSt := nth {} s.ring.ports p

/-- PORT_STAT, Table 13.7. -/
def portStat (x : PortSt) : Nat :=
  fld 0 x.st + fld 3 x.map.length + flg 7 (x.map.contains 12) + fld 8 x.laneOk.toNat + flg 21 x.farLeaving

/-- A port changed; vector 9 when its PORT_STAT changes (R350). -/
def setPort (s : State) (p : Nat) (x : PortSt) : State :=
  let t := { s with ring := { s.ring with ports := s.ring.ports.set p x } }
  if portStat x = portStat (getPort s p) then t else interrupt t 9

def setRing (s : State) (r : Ring) : State := { s with ring := r }

/-- A frame joins the queue of a port. -/
def portQueue (s : State) (p : Nat) (q : QFrame) : State :=
  let x := getPort s p
  setPort s p { x with queue := x.queue ++ [q] }

/-- A frame leaves this module, or enters the loopback; one that no way leads to is dropped. A leaving module originates no
frame but LOST (R314). -/
def sendFrame (s : State) (e : PtEntry) (dst : Nat) (b : Body) : State :=
  let f : Frame := ⟨BitVec.ofNat 16 (myIndex s), BitVec.ofNat 16 dst, BitVec.ofNat 8 (ptPart e), false, b⟩
  let isLost := match b with
    | .lost .. => true
    | _ => false
  if dst = myIndex s then setRing s { s.ring with loop := s.ring.loop ++ [f] }
  else if s.ring.leaving && !isLost then s
  else match route s e dst none with
    | none => s
    | some r => portQueue s r.1 { f := { f with dl := r.2 } }

/-- R291, R298: a frame whose partition has no entry, or no share, is dropped and recorded. -/
def unknownPart (s : State) (port part module : Nat) : State := noteMil s Code.partitionUnknown port 0 part module

/-- R295: a frame of the running job leaves its origin; UNREACHABLE where its destination lies outside the box. -/
def originate (s : State) (part dst : Nat) (b : Body) : State :=
  match findPt s part with
  | none => unknownPart s 0 part dst
  | some e =>
    if inBox s.ring.inForce e.1 dst then sendFrame s e.1 dst b
    else raiseJobFault (noteMil s Code.unreachable 0 0 part dst) Code.unreachable

/-- An answer to a frame, or a notice; nothing is sent to a module outside the box. -/
def notify (s : State) (part dst : Nat) (b : Body) : State :=
  match findPt s part with
  | none => s
  | some e => if inBox s.ring.inForce e.1 dst then sendFrame s e.1 dst b else s

/-- A frame to every member of a partition. -/
def notifyAll (s : State) (part : Nat) (b : Body) : State :=
  match findPt s part with
  | none => s
  | some e => (members s.ring.inForce e.1).foldl (fun s m => sendFrame s e.1 m b) s

end Sys2Proof.Machine
end

