-- ==== Sys2Proof/Machine/Faults.lean ====
section
/-! DEFINITION. The unit fault (R21, R401 to R406), which every detector of Table 18.1 shares, and the checkpoint. -/

namespace Sys2Proof.Machine

/-- R402: a condition that prevents replay is recorded once, as the first since the checkpoint. -/
def hazard (s : State) (r : Nat) : State :=
  if s.job.hazard = 0 then { s with job := { s.job with hazard := r } } else s

/-- R402, condition 2: the cell holds part of a tile, or is in a pass that is not persistent and has begun. -/
def cellPartial (r : CellRec) (x : CellSt) : Bool :=
  let m := matRec r.mat
  let v := vecRec r.vec
  (m.enable && (!x.takenA.isEmpty || !x.takenB.isEmpty || !x.done.isEmpty ||
    (m.tileCount != 0 && (decide (0 < x.mtile) || x.panel.isSome)))) ||
  (v.enable && (decide (0 < x.vec.row) || (v.vtiles != 0 && (decide (0 < x.vec.tile) || x.vec.loaded))))

/-- R113, R181: what a replay undoes or repeats is marked from here on: bytes in coalescer lines, flips that tokens request, and
re-arms that take effect. -/
def markCell (x : CellSt) : CellSt :=
  { x with mu := { x.mu with
      flipTok := false, flipQ := x.mu.flipQ.map fun p => { p with repeats := false }, real := List.replicate 8 0, opTook := [], given := []
      coal := x.mu.coal.map fun l => { l with fresh := List.replicate 64 false } } }

/-- R401: the checkpoint of the grid. -/
def takeCheckpoint (s : State) : State :=
  let g := { s.job.grid with cells := s.job.grid.cells.map fun p => (p.1, markCell p.2) }
  let streams := s.job.streams.map fun p => (p.1, { p.2 with took := [] })
  let part := g.cells.any fun p => cellPartial (Tbl.get {} g.recs p.1) p.2
  let lad := { s.job.lad with colls := s.job.lad.colls.map fun c => { c with drained := c.drained.drop c.exposed, exposed := 0 } }
  { s with job := { s.job with
      grid := g
      streams := streams
      lad := lad
      ckpt := some ⟨g, streams, lad, s.job.senders, s.job.churn.wave, s.job.churn.tables, s.now, part⟩
      hazard := if part then 2 else 0
      banksRead := [] } }

/-- R113: a coalescer line after a replay: the bytes that generators and streams have written since the checkpoint are discarded
for what the line held at the checkpoint; window writes stay. -/
def restoreLine (was : List CoalLine) (l : CoalLine) : CoalLine :=
  let old := (was.find? fun k => k.word == l.word).elim (List.replicate 64 none) CoalLine.bytes
  ⟨l.word, (List.range 64).map fun i => if nth false l.fresh i then nth none old i else nth none l.bytes i, List.replicate 64 false⟩

/-- R113: the coalescing buffer after a replay: lines that have left it since the checkpoint do not come back. -/
def restoreCoal (was now : List CoalLine) : List CoalLine :=
  (now.map (restoreLine was)).filter fun l => l.bytes.any Option.isSome

/-- R113: the flip requests of an MU after a replay: those that have taken effect since the checkpoint and that nothing makes again, the
one pending, and those that wait; what a control token or the combine has requested is requested again by it (log entry 91). -/
def restoreAsks (m : MuSt) (tokens : Nat) : List FlipAsk :=
  m.opTook.map (⟨·, 0, false⟩) ++ (if m.flip = 0 ∨ m.flipTok then [] else [⟨m.flip, 0, false⟩]) ++
  (m.flipQ.filter fun p => !p.repeats).map fun p => { p with behind := tokens }

/-- R27: the tokens that wait at an MU's control output leave while the switch's control input, key 21, has room for them. -/
def giveTokens : Nat → CellSt → CellSt
  | 0, x => x
  | f + 1, x =>
    match x.mu.tokens with
    | [] => x
    | e :: rest =>
      if 8 ≤ (Tbl.get [] x.wire 21).length + (Tbl.get [] x.q 21).length then x
      else giveTokens f { x with wire := Tbl.set [] x.wire 21 (Tbl.get [] x.wire 21 ++ [e]), mu := { x.mu with tokens := rest } }

/-- R270, R304: a count or completion token of an MU. -/
def muToken (s : State) (c : Nat) (e : Entry) : State :=
  let x := getCell s c
  setCell s c (giveTokens 8 { x with mu := { x.mu with tokens := x.mu.tokens ++ [e], given := x.mu.given ++ [e] } })

/-- R403, R113: a cell from its checkpoint: queues, positions and counters return; banks, powers, zeroing and flips stay as they
are; accumulators and pipelines are cleared and their passes restart (R63, R88). The flips that stand are met again as the beat
repeats, and the tokens of collectors and windows since the checkpoint enter the grid again, so that the experts' work repeats (R277). -/
def restoreCell (was now : CellSt) : CellSt :=
  giveTokens 8 { was with
    takenA := [], takenB := [], panel := none, side := false, done := [], mtile := 0, drained := 0, vec := {}
    mu := { was.mu with
      mem := now.mu.mem, tags := now.mu.tags, fillHalf := now.mu.fillHalf
      flip := 0, flipTok := false, flipQ := restoreAsks now.mu (Tbl.get [] was.q 53).length
      real := now.mu.real, redo := List.zipWith (· + ·) was.mu.redo now.mu.real, opTook := []
      tokens := was.mu.tokens ++ now.mu.given, given := now.mu.given, coal := restoreCoal was.mu.coal now.mu.coal
      waking := now.mu.waking, powered := now.mu.powered, zeroing := now.mu.zeroing, dirty := now.mu.dirty, poison := now.mu.poison } }

/-- R36, R403: a timer after a restore of the checkpoint: each beat that ran restarts from zero with REPLAY set, and the counters
stand. -/
def restoreTimer (now : Nat) (t cur : Timer) : Timer :=
  { t with start := now, replay := t.running, overrun := false, top := cur.top, last := cur.last, max := cur.max, beats := cur.beats,
           overruns := cur.overruns, old := t.old.map fun b => { b with start := now, replay := true, overrun := false } }

/-- R181: a descriptor after a beat replay: its transfer restarts from where it stood, and the re-arms that have taken effect
since stand: they take effect again in their order. -/
def restoreStream (was now : Stream) : Stream :=
  match was.st == 1 || was.st == 2 || was.st == 3, now.took with
  | false, a :: rest => { now with st := 1, pos := 0, addr := a.1, off := a.2, again := rest ++ now.again, took := [], ran := was.ran }
  | _, took => { was with shadow := now.shadow, again := took ++ now.again, took := [] }

/-- R154: a wave under way resumes after a replay from where it stood at the checkpoint; one that has begun since starts again. -/
def restoreWave (was now : Wave) : Wave :=
  if !now.active then now
  else if was.active && was.forOp == now.forOp then { was with start := now.start, heldTime := now.heldTime }
  else { active := true, first := now.first, start := now.start, forOp := now.forOp, heldTime := now.heldTime }

/-! ### The Ladle and the ring senders in a replay, R277, R315 -/

/-- R103: unused credits go back to their window, in returns of at most 255. -/
def returnCreditsIn : Nat → State → Nat → Nat → Nat → Byte → Nat → State
  | 0, s, _, _, _, _, _ => s
  | m + 1, s, part, dst, win, gen, n =>
    if n = 0 then s
    else returnCreditsIn m (notify s part dst (.wreturn (BitVec.ofNat 6 win).toFin gen (BitVec.ofNat 8 (min n 255)))) part dst win gen (n - 255)

/-- R103: as many returns as the units need. -/
def returnCredits (s : State) (part dst win : Nat) (gen : Byte) (n : Nat) : State := returnCreditsIn (n / 255 + 1) s part dst win gen n

/-- The half-batches of a dispatch that a replay leaves as they are: those in flight at the checkpoint and now. -/
def keptHalves (was now : DispSt) : List DispHalf :=
  now.flight.filter fun h => was.flight.any fun g => g.epoch == h.epoch

/-- R277: a dispatch after a replay: half-batches combined since the checkpoint are sent again under a new epoch, and those
dispatched since it are sent again when their flips repeat, with the same letters. -/
def restoreDisp (time : Nat) (was now : DispSt) : DispSt :=
  let gone := was.flight.filter fun g => !(now.flight.any fun h => h.epoch == g.epoch)
  { now with
    next := was.next
    again := was.again + (now.epoch - was.epoch).toNat
    flight := (gone.map fun g => { g with phase := 0, rows := [], qs := [], landed := [], since := time }) ++ keptHalves was now }

/-- R277: a collector after a replay: what has landed and been counted stands; its answers are sent again. -/
def restoreColl (was now : CollSt) : CollSt :=
  { now with answers := was.answers, ansQs := was.ansQs.map fun q => { q with credit := 0 }, exposed := 0 }

/-- R315: a ring sender after a replay: it sends the units that it had not sent at the checkpoint. -/
def restoreSender (was now : Sender) : Sender :=
  { was with cfg := now.cfg, sends := now.sends, credit := 0, redo := now.redo }

/-- R277: the credits of the half-batches, answers and sends that a replay cancels go back. -/
def replayReturns (s : State) (was : Ladle) : State :=
  let part := (jobPart s).getD 0
  let l := s.job.lad
  let ret := fun s k win gen n => returnCredits s part (jobModule s k) win gen n
  let s := (was.disps.zip l.disps).foldl (fun s d =>
    let kept := keptHalves d.1 d.2
    (d.2.flight.filter fun h => !kept.contains h).foldl (fun s h => h.qs.foldl (fun s q =>
      let b := Tbl.get {} l.binds q.queue
      ret s b.member b.win b.gen q.credit) s) s) s
  let s := l.colls.foldl (fun s c => c.ansQs.foldl (fun s q => ret s q.home q.win q.gen q.credit) s) s
  s.job.senders.foldl (fun s x =>
    let w := x.cfg.toNat
    ret s (bits w 27 8) (bits w 35 6) (BitVec.ofNat 8 (bits w 41 8)) x.credit) s

/-- Credit requests in flight after a replay: only those of half-batches that stand are still needed. -/
def replayAsk (was now : Ladle) (a : Ask) : Ask :=
  match a.who with
  | .disp d _ ep =>
    if (keptHalves (nth {} was.disps d) (nth {} now.disps d)).any fun h => h.epoch == ep then a else { a with who := .gone }
  | _ => { a with who := .gone }

/-- R403: every unit of the grid takes its checkpoint state, with the records it held when its beat began (R154): a descriptor that
a committed cell has changed since returns to its old record. -/
def restoreCkpt (s : State) (k : Ckpt) : State :=
  let keys := (k.grid.cells.map Prod.fst) ++ ((s.job.grid.cells.map Prod.fst).filter fun c => !(k.grid.cells.any fun p => p.1 == c))
  let cells := keys.foldl (fun t c =>
    Tbl.set {} t c (restoreCell (Tbl.get {} k.grid.cells c) (Tbl.get {} s.job.grid.cells c))) []
  let timers := List.zipWith (restoreTimer s.now) k.grid.timers s.job.grid.timers
  let ds := ((k.streams ++ s.job.streams).map Prod.fst).eraseDups
  let wave := restoreWave k.wave s.job.churn.wave
  let swapped := fun d => wave.active && Tbl.get [] k.tables.streams d != Tbl.get [] s.job.churn.tables.streams d
  let streams := ds.foldl (fun t d =>
    let was := Tbl.get {} k.streams d
    Tbl.set {} t d (if swapped d then { was with shadow := none } else restoreStream was (Tbl.get {} s.job.streams d))) []
  let now := s.job.lad
  let s := replayReturns s k.lad
  { s with job := { s.job with
      grid := { s.job.grid with cells := cells, timers := timers, recs := if wave.active then k.grid.recs else s.job.grid.recs }
      streams := streams
      churn := { s.job.churn with
        wave := wave, committed := if wave.active then wave.committed.length else s.job.churn.committed
        tables := if wave.active then k.tables else s.job.churn.tables }
      lad := { now with disps := List.zipWith (restoreDisp s.now) k.lad.disps now.disps, colls := List.zipWith restoreColl k.lad.colls now.colls }
      senders := List.zipWith restoreSender k.senders s.job.senders
      asks := s.job.asks.map (replayAsk k.lad now)
      banksRead := []
      hazard := if k.partialTile then 2 else 0
      ckpt := some k } }

/-- R403: the shift of a die's pairs onto its held spare. -/
def shiftPair (s : State) (cell : Nat) (code : Status) : State :=
  let d := dieOf cell
  let q := physPair s cell
  { s with
    dies := s.dies.set d { nth {} s.dies d with oos := q, reason := 2, held := false }
    remapLog := s.remapLog ++ [(d, q, code, poweredHours s)] }

/-- R21, R405: the failed pair of a die without a healthy spare; NET and PORT of its record are 0 (log entry 85). -/
def failPair (s : State) (cell : Nat) (punit : Nat) : State :=
  let d := dieOf cell
  let x := nth {} s.dies d
  let q := physPair s cell
  let s' := { s with dies := s.dies.set d { x with failed := if x.failed.contains q then x.failed else x.failed ++ [q] } }
  noteGrid s' Code.pairFailedNoSpare cell punit 0 0

/-- R399, R403: the interruption: from the checkpoint, or from detection where none exists, to the end of the remap. The time
that the remap itself takes is bounded and not fixed by Table 18.4: a free value up to the bound (log entry 3). -/
def faultLost (s : State) (shift : Bool) : Nat × State :=
  let n := choose s (if shift then 4801 else 1281)
  ((match s.job.ckpt with
    | some k => s.now - k.time
    | none => 0) + n.1, n.2)

/-- R402, R405: the REPLAY reason: 6 where the die holds no healthy spare, 1 where no checkpoint exists, else the first hazard. -/
def replayReason (s : State) (held : Bool) : Nat :=
  if !held then 6 else if s.job.ckpt.isNone then 1 else s.job.hazard

/-- R403 to R406, R419: a unit fault at a cell; `detail` is what its rule names beyond cell and unit. -/
def unitFaultNow (s : State) (cell : Nat) (code : Status) (inMu injected : Bool) (detail : List Nat := []) : State :=
  let pu := punit s cell inMu
  let held := (nth {} s.dies (dieOf cell)).held
  let why := replayReason s held
  let runs := s.jobc.st == 1 || s.jobc.st == 3
  let lost := faultLost s held
  let s := lost.2
  let s := { s with counts := { s.counts with
    unitFaults := s.counts.unitFaults + 1, worst := max s.counts.worst lost.1 } }
  let s := if injected then s else if held then shiftPair s cell code else failPair s cell pu
  let s := noteUnit s code cell pu why injected (held && !injected) (lost.1 % 2 ^ 32) detail
  if !runs then s
  else if why != 0 then raiseJobFault s code
  else match s.job.ckpt with
    | none => s
    | some k => chargeInterruption { restoreCkpt s k with counts := { s.counts with replays := s.counts.replays + 1 } }

/-- R420: a unit fault on a die whose held spare is under test waits for the test to finish. -/
def unitFault (s : State) (cell : Nat) (code : Status) (inMu injected : Bool) (detail : List Nat := []) : State :=
  if s.ras.testing && (nth {} s.dies (dieOf cell)).held then
    { s with ras := { s.ras with heldFaults := s.ras.heldFaults ++ [(cell, code, inMu, injected, detail)] } }
  else unitFaultNow s cell code inMu injected detail

end Sys2Proof.Machine
end

