-- ==== Sys2Proof/Machine/Switch.lean ====
section
/-! DEFINITION. The switches, the steering units and the beat timers (files 02 and 06). -/

namespace Sys2Proof.Machine

def netNo : Net → Nat
  | .vector => 0
  | .scalar => 1
  | .control => 2

def sideNo : Side → Nat
  | .north => 0
  | .east => 1
  | .south => 2
  | .west => 3

/-- R24: the select of output `o` on network `n` of a switch record. -/
def swSelect (sw : List Byte) (n o : Nat) : Nat :=
  bits (leAt sw 0 16) ((if n = 0 then 0 else if n = 1 then 28 else 52) + 4 * o) 4

/-- Table 2.1: outputs of a network. -/
def swOuts (n : Nat) : Nat := if n = 0 then 7 else 6

/-- R24: ACTIVE of a switch record. -/
def swActive (sw : List Byte) : Bool := bit (leAt sw 0 16) 76

/-- A steering entry, R128. -/
structure SuRec where
  op : Nat
  dnet : Nat
  grain : Nat
  keepLast : Bool
  d0 : Nat
  d1 : Nat
  t : Nat
  dcount : Nat
  dest : List Nat
  cmode : Nat
  shift : Nat
  invert : Bool
  prio : Bool
  zemit : Bool
  fval : Nat
  mval : Nat
  lval : Nat
  zval : Nat
  glen : Nat
  initN : Nat
  initVal : Nat

def suRec (bs : List Byte) (n : Nat) : SuRec :=
  let w := leAt bs (16 * n) 16
  { op := bits w 0 4, dnet := bits w 4 2, grain := bits w 6 2, keepLast := bit w 8, d0 := bits w 9 4,
    d1 := bits w 13 4, t := bits w 17 4, dcount := bits w 21 2,
    dest := [bits w 23 4, bits w 27 4, bits w 31 4, bits w 35 4], cmode := bits w 39 2, shift := bits w 41 4,
    invert := bit w 45, prio := bit w 46, zemit := bit w 47, fval := bits w 48 8, mval := bits w 56 8,
    lval := bits w 64 8, zval := bits w 72 8, glen := bits w 80 11, initN := bits w 91 4, initVal := bits w 95 8 }

/-- R116: the network of a unit's output. -/
def suOutNet (u : SuRec) : Nat := if u.op = 6 ∨ u.op = 7 then 2 else u.dnet

/-- A unit's input: 0 D0, 1 D1, 2 T. -/
def suSrc (u : SuRec) : Nat → Nat
  | 0 => u.d0
  | 1 => u.d1
  | _ => u.t

/-- R116, R121: whether the unit uses the input on network `n`. -/
def suUses (u : SuRec) (n i : Nat) : Bool :=
  match i with
  | 0 => u.dnet == n && (u.op != 0 && u.op != 7)
  | 1 => u.dnet == n && (u.op == 2 || u.op == 3)
  | _ => n == 2 && (u.op != 0 && u.op != 6)

/-- What a source feeds (R28, R117): a switch output, or input `i` of a steering unit. -/
inductive Feed where
  | out (o : Nat)
  | su (n i : Nat)
  deriving DecidableEq, Repr

/-- R25, R28, R117: everything that source `src` of network `n` feeds in a cell. -/
def feeds (r : CellRec) (n src : Nat) : List Feed :=
  (((List.range (swOuts n)).filter fun o => swSelect r.sw n o == src).map .out) ++
  ((List.range 4).flatMap fun k =>
    let u := suRec r.su k
    ((List.range 3).filter fun i => suUses u n i && suSrc u i == src).map (.su k))

/-- R22: the neighbour that an output faces, and the input it enters there; the grid has 32 pairs of 16 rows. -/
def neighbour (c o : Nat) : Option (Nat × Nat) :=
  match o with
  | 0 => if c % 16 = 0 then none else some (c - 1, 2)
  | 1 => if c / 16 = 31 then none else some (c + 16, 3)
  | 2 => if c % 16 = 15 then none else some (c + 1, 0)
  | 3 => if c / 16 = 0 then none else some (c - 16, 1)
  | _ => none

/-- R19: the depth of an input queue; the bridge's receive queues, between P15 and P16, hold 32. -/
def qDepth (c n i : Nat) : Nat :=
  if (c / 16 = 15 ∧ i = 1) ∨ (c / 16 = 16 ∧ i = 3) then 32 else if n = 2 then 8 else 4

def inKey (n i : Nat) : Nat := 8 * n + i
def locKey (n o : Nat) : Nat := 32 + 8 * n + o

def getQ (x : CellSt) (k : Nat) : List Entry := Tbl.get [] x.q k
def setQ (x : CellSt) (k : Nat) (l : List Entry) : CellSt := { x with q := Tbl.set [] x.q k l }
def getWire (x : CellSt) (k : Nat) : List Entry := Tbl.get [] x.wire k
def setWire (x : CellSt) (k : Nat) (l : List Entry) : CellSt := { x with wire := Tbl.set [] x.wire k l }

/-- R27: the entries that occupy, or travel to, the queue an output feeds. -/
def outUsed (s : State) (c n o : Nat) : Nat :=
  match neighbour c o with
  | some (d, i) => (getWire (getCell s d) (inKey n i)).length + (getQ (getCell s d) (inKey n i)).length
  | none => if o < 4 then 0 else (getQ (getCell s c) (locKey n o)).length

/-- R27: the depth of the queue an output feeds. -/
def outDepth (c n o : Nat) : Nat :=
  match neighbour c o with
  | some (d, i) => qDepth d n i
  | none => if o < 4 then 0 else if n = 2 then 8 else 4

/-- R27: the credits that an output holds. -/
def outCredit (s : State) (c n o : Nat) : Nat := outDepth c n o - outUsed s c n o

/-- R27, R118: whether a consumer can take an entry. -/
def feedRoom (s : State) (c n : Nat) : Feed → Bool
  | .out o => decide (0 < outCredit s c n o)
  | .su k i =>
    let u := nth {} (getCell s c).su k
    match i with
    | 0 => decide (u.d0.length < 4)
    | 1 => decide (u.d1.length < 4)
    | _ => decide (u.t.length < 8)

/-- R33: the beat timers see an entry leave an output. -/
def timerSee (c n o : Nat) (last : Bool) (t : Timer) : Timer :=
  let sink := fun (w : Nat) => bits w 1 2 == n && bits w 16 9 == c && bits w 25 3 == o && last
  let t := { t with old := t.old.map fun b => if sink b.cfg.toNat then { b with sinkLast := true } else b }
  let w := t.cfg.toNat
  if !t.armed || bits w 1 2 != n then t
  else
    let t := if bits w 3 9 == c && bits w 12 3 == o && !t.running then { t with srcSent := true } else t
    if sink w && (t.running || t.srcSent) then { t with sinkLast := true } else t

/-- An entry leaves for one consumer, R28. -/
def feedPut (s : State) (c n : Nat) (e : Entry) : Feed → State
  | .out o =>
    let s := setGrid s { s.job.grid with timers := s.job.grid.timers.map (timerSee c n o e.last) }
    match neighbour c o with
    | some (d, i) =>
      let x := getCell s d
      setCell s d (setWire x (inKey n i) (getWire x (inKey n i) ++ [e]))
    | none =>
      let x := getCell s c
      if o < 4 then s else setCell s c (setQ x (locKey n o) (getQ x (locKey n o) ++ [e]))
  | .su k i =>
    let x := getCell s c
    let u := nth {} x.su k
    let u := match i with
      | 0 => { u with d0 := u.d0 ++ [e] }
      | 1 => { u with d1 := u.d1 ++ [e] }
      | _ => { u with t := u.t ++ [e.data.setWidth 8] }
    setCell s c { x with su := x.su.set k u }

/-- R28: an entry goes to all its consumers. -/
def feedAll (s : State) (c n : Nat) (fs : List Feed) (e : Entry) : State := fs.foldl (fun s f => feedPut s c n e f) s

/-- When the head of a switch input queue began to wait (R35): the key is set when a new entry comes to the head. -/
def sinceHead (now : Nat) (x : CellSt) (k : Nat) : CellSt := { x with since := Tbl.insert x.since k now }

/-- A local unit sends an entry to its switch input `i` (4 CU, 5 MU); it waits there for the link. -/
def unitSend (s : State) (c n i : Nat) (es : List Entry) : State :=
  let x := getCell s c
  setCell s c (setWire x (inKey n i) (getWire x (inKey n i) ++ es))

/-- R27: a unit's output on network `n` through switch input `i` has room for `k` entries. -/
def unitRoom (x : CellSt) (c n i k : Nat) : Bool :=
  decide ((getWire x (inKey n i)).length + (getQ x (inKey n i)).length + k ≤ qDepth c n i)

/-! ### Old and new entries at the wave, R147, R150 -/

/-- Whether a cell that has not committed awaits the token from side `port`, and that token has been sent. -/
def splits (s : State) (c port : Nat) : Bool :=
  let w := s.job.churn.wave
  w.active && decide (port < 4) && !w.committed.contains c && (getRec s c).wait.getLsbD port &&
  ((Tbl.get 0 w.tokens c).getLsbD port || (Tbl.get 0 w.travel c).getLsbD port)

/-- The entries left on an input that arrived, or will arrive, before the token. -/
def oldLeft (s : State) (c net port : Nat) : Nat := Tbl.get 0 s.job.churn.wave.old (24 * c + inKey net port)

def setOld (s : State) (c net port n : Nat) : State :=
  let w := s.job.churn.wave
  setChurn s { s.job.churn with wave := { w with old := Tbl.set 0 w.old (24 * c + inKey net port) n } }

/-- R147: an entry behind a token that still travels. -/
def behindToken (s : State) (c net port : Nat) : Bool :=
  splits s c port && !(Tbl.get 0 s.job.churn.wave.tokens c).getLsbD port &&
  decide (oldLeft s c net port ≤ (getQ (getCell s c) (inKey net port)).length)

/-! ### LINK_ENTRY_RECEIVE, CREDIT_RETURN -/

/-- The record that the wave brings to a cell. -/
def newRec (s : State) (c : Nat) : CellRec := Tbl.get {} s.job.churn.shadow.recs c

/-- R29, R150: the record under which the entry now at the head of a link is judged: an entry behind the token belongs to the
new records. -/
def recvRec (s : State) (c net port : Nat) : CellRec :=
  if splits s c port && decide (oldLeft s c net port ≤ (getQ (getCell s c) (inKey net port)).length) then newRec s c else getRec s c

/-- R29: an entry that feeds nothing. -/
def unrouted (s : State) (c net port : Nat) : State :=
  raiseJobFault (noteGrid s Code.unroutedEntry c (punit s c false) net port) Code.unroutedEntry

/-- R29, R30: the entry at the head of the link into input `port` is received, checked and queued. -/
def linkReceive (s : State) (c : Nat) (net port : Nat) (check : Check) : State :=
  let x := getCell s c
  let k := inKey net port
  match getWire x k with
  | [] => s
  | e :: rest =>
    if !jobRuns s || decide (qDepth c net port ≤ (getQ x k).length) || behindToken s c net port then s
    else if check = .uncorrectable then
      let code := if net = 2 then Code.tokenParity else Code.linkUncorrectable
      unitFault (noteGrid s code c (punit s c false) net port) c code false false
    else
      let y := setQ (setWire x k rest) k (getQ x k ++ [e])
      let y := if (getQ x k).isEmpty then sinceHead s.now y k else y
      let r := recvRec s c net port
      let s := setCell s c y
      let s := if check = .corrected ∧ net ≠ 2 then
        { s with counts := { s.counts with linkCorr := s.counts.linkCorr + 1 } } else s
      if (feeds r net port).isEmpty then unrouted s c net port else s

def execLinkEntryReceive (c : Cell) (net : Net) (port : Fin 6) (check : Check) (s : State) :
    Host.Outcome State Fault Refusal :=
  .next (linkReceive s c (netNo net) port check)

/-- R27, R28: a switch input queue releases its head to every consumer at once, and its credit returns. -/
def queueRelease (s : State) (c net port : Nat) : State :=
  let x := getCell s c
  let k := inKey net port
  let fs := feeds (getRec s c) net port
  match getQ x k with
  | [] => s
  | e :: rest =>
    if !jobRuns s || fs.isEmpty || !(fs.all (feedRoom s c net)) || (splits s c port && oldLeft s c net port == 0) then s
    else
      let s := if splits s c port then setOld s c net port (oldLeft s c net port - 1) else s
      let y := setQ x k rest
      let y := if rest.isEmpty then { y with since := Tbl.erase y.since k } else sinceHead s.now y k
      let s := feedAll (setCell s c y) c net fs e
      if net = 2 ∧ port = 5 then setCell s c (giveTokens 8 (getCell s c)) else s

/-- R54: COMBINE takes an entry from each input together. -/
def combineTake (x : CellSt) : CellSt :=
  match getQ x (locKey 0 4), getQ x (locKey 0 5) with
  | a :: as, b :: bs =>
    { setQ (setQ x (locKey 0 4) as) (locKey 0 5) bs with takenA := x.takenA ++ [a.data], takenB := x.takenB ++ [b.data] }
  | _, _ => x

/-- R45: whether the next entry on an input is one of operand A: under B_HOLD with the panel held, A comes alternately on CUA
and CUB; else on CUA, and under B_HOLD not before the panel. -/
def takesA (x : CellSt) (r : MatRec) (b : Bool) : Bool :=
  if r.bHold then x.panel.isSome && x.side == b else !b

/-- Whether the matrix engine can take the entry at the head of CUA, or of CUB: its operand is not complete for the tile that
accumulates. Two accumulator sets: with two finished tiles the array stalls. -/
def canTake (x : CellSt) (r : MatRec) (b : Bool) : Bool :=
  r.enable && decide (x.done.length < 2) && !(getQ x (locKey 0 (if b then 5 else 4))).isEmpty &&
  (if r.op = 1 then !(getQ x (locKey 0 (if b then 4 else 5))).isEmpty && decide (x.takenA.length < matNeedA r)
   else if takesA x r b then decide (x.takenA.length < matNeedA r)
   else b && (!r.bHold || x.panel.isNone) && decide (x.takenB.length < matNeedB r))

/-- R27, R45, R54: the matrix engine takes an entry of operand A or B. A pass begins with the first entry taken after the one
before has its tiles (log entry 14). -/
def operandTake (s : State) (c : Nat) (b : Bool) : State :=
  let x := getCell s c
  let r := matRec (getRec s c).mat
  let k := locKey 0 (if b then 5 else 4)
  if !jobRuns s || !canTake x r b then s
  else if r.op = 1 then setCell s c (combineTake x)
  else match getQ x k with
  | [] => s
  | e :: rest =>
    let y := setQ x k rest
    setCell s c (if takesA x r b then { y with takenA := y.takenA ++ [e.data], side := r.bHold && !y.side }
      else { y with takenB := y.takenB ++ [e.data] })

def execCreditReturn (c : Cell) (queue : QueueAt) (s : State) : Host.Outcome State Fault Refusal :=
  .next (match queue with
    | .switchInput net port => queueRelease s c (netNo net) port
    | .operandA => operandTake s c false
    | .operandB => operandTake s c true)

/-! ### Beat timers, R33 to R36 -/

def getTimer (s : State) (t : Nat) : Timer := nth {} s.job.grid.timers t
def setTimer (s : State) (t : Nat) (v : Timer) : State :=
  setGrid s { s.job.grid with timers := s.job.grid.timers.set t v }

/-- R33: the compiled length. -/
def timerLength (t : Timer) : Nat := bits t.cfg.toNat 32 15

/-- R127: the firing counts of all steering units restart when a pass begins (log entry 83). -/
def passBegins (g : Grid) : Grid :=
  if g.timers.any fun t => t.running || !t.old.isEmpty then g
  else { g with cells := g.cells.map fun c => (c.1, { c.2 with su := c.2.su.map fun u => { u with fires := 0 } }) }

/-- R33: a beat begins. It is a replay while it is one that had begun before a fault (R36). -/
def beatBegin (s : State) (t : Nat) : State :=
  let x := getTimer s t
  if jobRuns s && x.armed && !x.running && x.srcSent then
    setTimer (setGrid s (passBegins s.job.grid)) t
      { x with running := true, start := s.now, overrun := false, replay := decide (x.begun < x.top), srcSent := false,
               begun := x.begun + 1, top := max x.top (x.begun + 1) }
  else s

/-- R34: BEAT_OVERRUN, once for a beat; the beats of an old configuration have theirs too. -/
def beatOverrun (s : State) (t : Nat) : State :=
  let x := getTimer s t
  let isLate := fun (b : OldBeat) => !b.overrun && decide (bits b.cfg.toNat 32 15 < s.now - b.start)
  let n := (x.old.filter isLate).length
  let x := { x with old := x.old.map (fun b => if isLate b then { b with overrun := true } else b), overruns := x.overruns + n }
  if !jobRuns s then s
  else if x.running && !x.overrun && decide (timerLength x < s.now - x.start) then
    setTimer s t { x with overrun := true, overruns := x.overruns + 1 }
  else if n = 0 then s
  else setTimer s t x

/-- The end of a beat that took `d` planning periods. -/
def beatDone (x : Timer) (d : Nat) : Timer := { x with last := d, max := max x.max d, beats := x.beats + 1 }

/-- R33, R36: the sink has sent LAST: the beat ends, the oldest one first; a timer that the wave has disarmed stays so. -/
def beatEnd (s : State) (t : Nat) : State :=
  let s := beatOverrun s t
  let x := getTimer s t
  if !jobRuns s then s
  else match x.old.find? fun b => b.sinkLast with
  | some b => setTimer s t { beatDone x (s.now - b.start) with old := x.old.erase b }
  | none =>
    if x.running && x.sinkLast then
      setTimer s t { beatDone x (s.now - x.start) with
        running := false, overrun := false, replay := false, sinkLast := false, disarm := false,
        armed := x.armed && !x.disarm, cfg := if x.disarm then 0 else x.cfg }
    else s

/-- R35: the heads of the switch input queues, with when each began to wait: cell, network, port, since. -/
def waitingHeads (s : State) : List (Nat × Nat × Nat) :=
  s.job.grid.cells.flatMap fun p => (p.2.since.filter fun q => decide (q.1 < 24)).map fun q => (p.1, q.1, q.2)

/-- R35: the stall root: the longest wait; then the lowest cell, network and port. -/
def stallRoot (s : State) : Option (Nat × Nat × Nat) :=
  (waitingHeads s).foldl (fun best h => match best with
    | none => some h
    | some b => if h.2.2 < b.2.2 then some h else best) none

/-- R35: the beat's elapsed time has reached HANG_LIMIT, and its sink has not sent LAST: a beat of the timer's entry, or of an old
configuration. -/
def beatHangs (s : State) (x : Timer) : Bool :=
  let late := fun (start : Nat) => decide (s.limits.hangUs * us ≤ s.now - start)
  (x.running && !x.sinkLast && late x.start) || x.old.any fun b => !b.sinkLast && late b.start

/-- R35: GRID_HANG when the beat reaches HANG_LIMIT, handled as a unit fault at the stall root. Where no switch input queue has a
waiting head, the root is the beat's source: its cell, its network, port 0 (log entry 15). -/
def gridHang (s : State) (t : Nat) : State :=
  let x := getTimer s t
  if jobRuns s && beatHangs s x then
    let w := x.cfg.toNat
    let h := (stallRoot s).getD (bits w 3 9, 8 * bits w 1 2, 0)
    let s := noteGrid s Code.gridHang h.1 (punit s h.1 false) (h.2.1 / 8) (h.2.1 % 8)
    unitFault s h.1 Code.gridHang false false
  else s

/-! ### Steering units, R121 to R127 -/

/-- The consumers of a unit's output; for ROUTE the destination that token `v` names (R126). Where nothing takes the output the
list is empty: the entry leaves and reaches nothing (log entry 86). -/
def suFeeds (r : CellRec) (u : SuRec) (k v : Nat) : List Feed :=
  if u.op = 1 then
    let d := nth 15 u.dest v
    if d < 8 then [.out d]
    else ((List.range 3).filter fun i => suUses (suRec r.su (d - 8)) u.dnet i && suSrc (suRec r.su (d - 8)) i == 8 + k).map
      (Feed.su (d - 8))
  else feeds r (suOutNet u) (8 + k)

/-- The zero source, R125: the entry at position `z`. -/
def zeroEntry (u : SuRec) (z : Nat) : Entry := ⟨0, u.grain == 1 && decide ((z + 1) % u.glen = 0)⟩

/-- The head of D1, which may be the zero source. -/
def suD1 (u : SuRec) (x : SuSt) : Option Entry := if u.d1 = 14 then some (zeroEntry u x.zpos) else x.d1.head?

def suPop0 (x : SuSt) : SuSt := { x with d0 := x.d0.drop 1 }
def suPop1 (u : SuRec) (x : SuSt) : SuSt :=
  if u.d1 = 14 then { x with zpos := (x.zpos + 1) % u.glen } else { x with d1 := x.d1.drop 1 }

/-- R120: whether the entry that brings an item to `n` entries ends it. -/
def itemEnds (u : SuRec) (e : Entry) (n : Nat) : Bool :=
  match u.grain with
  | 0 => true
  | 1 => e.last
  | _ => decide (u.glen ≤ n)

/-- A firing that puts unit state `x` and sends `e` to `fs`. -/
def suSend (s : State) (c k n : Nat) (x : SuSt) (fs : List Feed) (e : Option Entry) : State :=
  let cell := getCell s c
  let s := setCell s c { cell with su := cell.su.set k x }
  match e with
  | none => s
  | some e => feedAll s c n fs e

/-- R127, R123: a precise steering fault, which holds the unit's state; its record has NET 2, the network of the token, and PORT 0
(log entry 85), and names the unit, the token value, and the firing count of the pass. -/
def suFault (s : State) (c k : Nat) (code : Status) (v : Nat) : State :=
  raiseJobFault (noteGrid s code c (punit s c false) 2 0 [k, v, (nth {} (getCell s c).su k).fires]) code

/-- R121: ROUTE, SELECT, MERGE and GATE: one entry of the item that token `v` governs, with the progress made. -/
def suItem (s : State) (c k : Nat) (r : CellRec) (u : SuRec) (x : SuSt) (v k0 k1 : Nat) (end0 end1 : Bool) : State :=
  let fs := suFeeds r u k v
  let x := { x with fires := x.fires + 1 }
  let room := fs.all (feedRoom s c u.dnet)
  let fin := fun (y : SuSt) (k0 k1 : Nat) (e0 e1 : Bool) =>
    { y with busy := if e0 && e1 then .idle else .group v k0 k1 e0 e1 }
  match u.op with
  | 2 =>
    let d1 := suD1 u x
    let take0 := !end0 && !x.d0.isEmpty
    let take1 := !end1 && d1.isSome
    let sends := (v == 0 && take0) || (v == 1 && take1)
    if (!take0 && !take1) || (sends && !room) then s
    else
      let e0 := (x.d0.head?.getD {})
      let e1 := d1.getD {}
      let y := if take0 then suPop0 x else x
      let y := if take1 then suPop1 u y else y
      let n0 := if take0 then k0 + 1 else k0
      let n1 := if take1 then k1 + 1 else k1
      let y := fin y n0 n1 (end0 || (take0 && itemEnds u e0 n0)) (end1 || (take1 && itemEnds u e1 n1))
      let out := if v = 0 ∧ take0 then some e0 else if v = 1 ∧ take1 then some e1 else none
      suSend s c k u.dnet y fs out
  | 3 =>
    match (if v = 0 then x.d0.head? else suD1 u x) with
    | none => s
    | some e =>
      if !room then s
      else
        let y := if v = 0 then suPop0 x else suPop1 u x
        let done := itemEnds u e (k0 + 1)
        suSend s c k u.dnet (fin y (k0 + 1) k1 done done) fs (some e)
  | 4 =>
    match x.d0.head? with
    | none => s
    | some e =>
      let pass := (v != 0) != u.invert
      let done := itemEnds u e (k0 + 1)
      let ghost := done && e.last && u.keepLast
      if (pass || ghost) && !room then s
      else suSend s c k u.dnet (fin (suPop0 x) (k0 + 1) k1 done done) fs
        (if pass then some e else if ghost then some ⟨0, true⟩ else none)
  | _ =>
    match x.d0.head? with
    | none => s
    | some e =>
      if !room then s
      else
        let done := itemEnds u e (k0 + 1)
        suSend s c k u.dnet (fin (suPop0 x) (k0 + 1) k1 done done) fs (some e)

/-- R124: token `i` of a SEQ run of `n`. -/
def seqVal (u : SuRec) (n i : Nat) : Nat :=
  if n = 1 then (if u.prio then u.lval else u.fval)
  else if i = 0 then u.fval else if i = n - 1 then u.lval else u.mval

/-- A control entry that carries a token. -/
def tokenEntry (v : Nat) : Entry := ⟨BitVec.ofNat 512 (v % 256), false⟩

/-- R123: COUNT takes one entry of D0. -/
def suCount (s : State) (c k : Nat) (u : SuRec) (x : SuSt) (fs : List Feed) : State :=
  let room := fs.all (feedRoom s c 2)
  match x.d0 with
  | [] => s
  | e :: _ =>
    let y := suPop0 { x with fires := x.fires + 1 }
    match u.cmode with
    | 0 =>
      if !e.last then suSend s c k 2 { y with tally := x.tally + 1 } fs none
      else
        let v := (x.tally + 1 + 2 ^ u.shift - 1) / 2 ^ u.shift
        if 255 < v then suFault (suSend s c k 2 { y with tally := 0 } fs none) c k Code.steerCountOverflow v
        else if !room then s
        else suSend s c k 2 { y with tally := 0 } fs (some (tokenEntry v))
    | 1 =>
      let v := e.data.toNat % 2 ^ 32 / 2 ^ u.shift
      if 255 < v then suFault (suSend s c k 2 y fs none) c k Code.steerCountOverflow v
      else if !room then s
      else suSend s c k 2 y fs (some (tokenEntry v))
    | _ =>
      if !room then s
      else suSend s c k 2 y fs (some (tokenEntry (if (e.data != 0) != u.invert then 1 else 0)))

/-- R121, R131: one firing of steering unit `k` of a cell. A token out of range faults where the unit would take its item: MERGE,
whose token names no input, at once, ROUTE and SELECT once their items are there (log entry 87). -/
def steerFire (s : State) (c k : Nat) : State :=
  let cell := getCell s c
  let r := getRec s c
  let u := suRec r.su k
  let x := nth {} cell.su k
  let fs := suFeeds r u k 0
  let room := fs.all (feedRoom s c (suOutNet u))
  if !jobRuns s then s
  else match x.busy with
  | .group v k0 k1 e0 e1 => suItem s c k r u x v k0 k1 e0 e1
  | .copies e left =>
    if !room then s
    else suSend s c k u.dnet { x with fires := x.fires + 1, busy := if left ≤ 1 then .idle else .copies e (left - 1) } fs
      (some ⟨e.data, e.last && decide (left ≤ 1)⟩)
  | .run n i =>
    if !room then s
    else suSend s c k 2 { x with fires := x.fires + 1, busy := if n ≤ i + 1 then .idle else .run n (i + 1) } fs
      (some (tokenEntry (seqVal u n i)))
  | .idle =>
    if u.op = 6 then suCount s c k u x fs
    else match x.t with
    | [] => s
    | tok :: rest =>
      let v := tok.toNat
      let z := { x with t := rest }
      let y := { z with fires := x.fires + 1 }
      match u.op with
      | 1 =>
        if x.d0.isEmpty then s
        else if u.dcount < v then suFault s c k Code.steerTokenRange v
        else suItem s c k r u z v 0 0 false false
      | 2 =>
        if x.d0.isEmpty || (suD1 u x).isNone then s
        else if 1 < v then suFault s c k Code.steerTokenRange v
        else suItem s c k r u z v 0 0 false false
      | 3 =>
        if 1 < v then suFault s c k Code.steerTokenRange v
        else suItem s c k r u z v 0 0 false false
      | 4 => suItem s c k r u z v 0 0 false false
      | 5 =>
        match x.d0 with
        | [] => s
        | e :: _ =>
          let y := suPop0 y
          if v = 0 then
            let ghost := e.last && u.keepLast
            if ghost && !room then s else suSend s c k u.dnet y fs (if ghost then some ⟨0, true⟩ else none)
          else if !room then s
          else suSend s c k u.dnet { y with busy := if v ≤ 1 then .idle else .copies e (v - 1) } fs
            (some ⟨e.data, e.last && decide (v ≤ 1)⟩)
      | 7 =>
        if v = 0 then
          (if u.zemit then (if !room then s else suSend s c k 2 y fs (some (tokenEntry u.zval))) else suSend s c k 2 y fs none)
        else if !room then s
        else suSend s c k 2 { y with busy := if v ≤ 1 then .idle else .run v 1 } fs (some (tokenEntry (seqVal u v 0)))
      | _ => s

def execSteerFire (c : Cell) (su : Fin 4) (s : State) : Host.Outcome State Fault Refusal := .next (steerFire s c su)

end Sys2Proof.Machine
end

