-- ==== Sys2Proof/Machine/Mu.lean ====
section
/-! DEFINITION. The memory units (file 05): regions, banks, the coalescing buffer, the generators, flips, zeroing, bank power,
and the receiving side of windows. -/

namespace Sys2Proof.Machine

/-- A region entry, Table 5.1. -/
structure Region where
  first : Nat
  banks : Nat
  double : Bool
  kind : Nat
  windowOk : Bool
  valid : Bool
  token : Nat
  ack : Bool

def region (mu : List Byte) (r : Nat) : Region :=
  let w := leAt mu (4 * r) 4
  { first := bits w 0 5, banks := bits w 5 6, double := bit w 11, kind := bits w 12 2, windowOk := bit w 14,
    valid := bit w 15, token := bits w 16 8, ack := bit w 24 }

/-- A generator descriptor, Table 5.2; a count of 0 means 65,536. -/
structure GenRec where
  enable : Bool
  net : Nat
  mode : Nat
  region : Nat
  width : Nat
  lastEach : Bool
  base : Nat
  counts : List Nat
  strides : List Int
  nests : Nat

def genRec (mu : List Byte) (off : Nat) : GenRec :=
  let w := leAt mu off 32
  let cnt := fun lo => if bits w lo 16 = 0 then 65536 else bits w lo 16
  { enable := bit w 0, net := bits w 1 1, mode := bits w 2 2, region := bits w 4 3, width := bits w 7 3,
    lastEach := bit w 10, base := bits w 12 20, counts := [cnt 32, cnt 48, cnt 64, cnt 80],
    strides := [sgn 20 (bits w 96 20), sgn 20 (bits w 116 20), sgn 20 (bits w 136 20), sgn 20 (bits w 156 20)],
    nests := bits w 176 16 }

def rdGen (mu : List Byte) : GenRec := genRec mu 32
def wrGen (mu : List Byte) : GenRec := genRec mu 64

/-- WIDTH in bytes. -/
def genWidth (g : GenRec) : Nat := 64 / 2 ^ g.width

/-- Bytes in a bank, R89. -/
def bankBytes : Nat := 49152

/-- R92: the bytes of a region, or of one half. -/
def regionSize (r : Region) : Nat := (if r.double then r.banks / 2 else r.banks) * bankBytes

/-- R92, R99: the MU byte address of byte 0 of a region's half `h`. -/
def regionBase (r : Region) (h : Bool) : Nat :=
  (r.first + (if r.double && h then r.banks / 2 else 0)) * bankBytes

/-- R99: the fill half of region `i`. -/
def fillHalf (m : MuSt) (i : Nat) : Bool := m.fillHalf.getLsbD i

/-- R113, R404: the flips of region `i` that stand and that a replay has yet to meet. -/
def flipsOwed (m : MuSt) (i : Nat) : Nat := nth 0 m.redo i

/-- R99, R404: the fill half of region `i` as the beat that runs sees it: in a replay, before the flips that stand are met again, it is
the one that it was when the beat ran before. -/
def beatHalf (m : MuSt) (i : Nat) : Bool := fillHalf m i ^^ (flipsOwed m i % 2 == 1)

/-! ### Banks and the coalescing buffer, R89, R97 -/

/-- Bytes written into a bank word; a word wholly written is no longer poisoned (R398). -/
def bankPut (m : MuSt) (word : Nat) (bs : List (Option Byte)) : MuSt :=
  let mem := (bs.zipIdx).foldl (fun t p => match p.1 with
    | none => t
    | some b => Mem.write t (64 * word + p.2) b) m.mem
  { m with mem := mem, dirty := m.dirty ||| (1#32 <<< (word / 768)),
           poison := if bs.all Option.isSome ∧ bs.length = 64 then m.poison.filter (· != word) else m.poison }

/-- R97: the line of a word leaves the buffer. -/
def coalEvict (m : MuSt) (word : Nat) : MuSt :=
  match m.coal.find? fun l => l.word == word with
  | none => m
  | some l => bankPut { m with coal := m.coal.filter fun k => k.word != word } word l.bytes

/-- R97: a flush of every line that `p` names. -/
def coalFlush (m : MuSt) (p : Nat → Bool) : MuSt :=
  (m.coal.map CoalLine.word).foldl (fun m w => if p w then coalEvict m w else m) m

/-- R97: a write laid over the word. -/
def lineMerge {α : Type} (old : List α) (off : Nat) (data : List α) : List α :=
  old.take off ++ data ++ old.drop (off + data.length)

/-- R97: the line of a word with a write merged into it; `gen`: the write is a generator's or a stream's. -/
def linePut (l : CoalLine) (off : Nat) (data : List Byte) (gen : Bool) : CoalLine :=
  { l with bytes := lineMerge l.bytes off (data.map some), fresh := lineMerge l.fresh off (data.map fun _ => gen) }

/-- A line of which no byte is valid. -/
def noLine (word : Nat) : CoalLine := { word := word, bytes := List.replicate 64 none }

/-- R97: a write to one word: merged into its line, written at once where it covers the word, else in a new line. -/
def wordWrite (m : MuSt) (word off : Nat) (data : List Byte) (gen : Bool) : MuSt :=
  match m.coal.find? fun l => l.word == word with
  | some l =>
    let b := linePut l off data gen
    if b.bytes.all Option.isSome then bankPut { m with coal := m.coal.filter fun k => k.word != word } word b.bytes
    else { m with coal := m.coal.map fun k => if k.word == word then b else k }
  | none =>
    if data.length = 64 then bankPut m word (data.map some)
    else
      let m := if m.coal.length < 16 then m else match m.coal with
        | [] => m
        | l :: _ => coalEvict m l.word
      { m with coal := m.coal ++ [linePut (noLine word) off data gen] }

/-- A write of bytes at an MU address, word by word; `n` bounds the words it may touch. -/
def muWrite (n : Nat) (m : MuSt) (a : Nat) (data : List Byte) (gen : Bool := false) : MuSt :=
  match n with
  | 0 => m
  | n + 1 =>
    if data.isEmpty then m
    else
      let k := 64 - a % 64
      muWrite n (wordWrite m (a / 64) (a % 64) (data.take k) gen) (a + k) (data.drop k) gen

/-- R97, R98: a read of bytes: the lines of its words are written first. -/
def muRead (m : MuSt) (a n : Nat) : List Byte × MuSt :=
  let m := coalFlush m fun w => decide (a / 64 ≤ w) && decide (w ≤ (a + n - 1) / 64)
  (Mem.readN m.mem a n, m)

/-- R402, condition 3: the banks that the job reads. -/
def noteRead (s : State) (c a n : Nat) : State :=
  let b := a / bankBytes
  let e := (a + n - 1) / bankBytes
  let old := Tbl.get 0 s.job.banksRead c
  let new := (List.range (e + 1 - b)).foldl (fun m i => m ||| (1#32 <<< (b + i))) old
  { s with job := { s.job with banksRead := Tbl.set 0 s.job.banksRead c new } }

/-- R402, condition 3: a write lands in a bank that has been read since the checkpoint. -/
def noteWrite (s : State) (c a n : Nat) : State :=
  let b := a / bankBytes
  let e := (a + n - 1) / bankBytes
  let old := Tbl.get 0 s.job.banksRead c
  if (List.range (e + 1 - b)).any fun i => old.getLsbD (b + i) then hazard s 3 else s

/-- R109, R110: whether the bank of an address can be accessed. -/
def bankReady (m : MuSt) (a : Nat) : Bool :=
  m.powered.getLsbD (a / bankBytes) && !m.zeroing.getLsbD (a / bankBytes)

/-- The banks wholly within a byte range of an MU. -/
def banksIn (a n : Nat) : List Nat :=
  (List.range 32).filter fun b => decide (a ≤ b * bankBytes) && decide ((b + 1) * bankBytes ≤ a + n)

/-- The banks that a byte range of an MU meets. -/
def banksOver (a n : Nat) : List Nat :=
  (List.range 32).filter fun b => decide (a < (b + 1) * bankBytes) && decide (b * bankBytes < a + n)

/-- Bytes of an MU zeroed: data, tags, lines and poison (R108). -/
def muZero (m : MuSt) (a n : Nat) : MuSt :=
  let w0 := a / 64
  let w1 := (a + n) / 64
  let out := fun w => decide (w < w0) || decide (w1 ≤ w)
  { m with mem := Mem.zero m.mem a n, tags := m.tags.filter fun p => out p.1, coal := m.coal.filter fun l => out l.word,
           poison := m.poison.filter out, dirty := (banksIn a n).foldl (fun d b => d &&& ~~~(1#32 <<< b)) m.dirty }

/-- The banks that the valid regions of an MU record cover. -/
def recBanks (mu : List Byte) : BitVec 32 :=
  (List.range 8).foldl (fun m i =>
    let r := region mu i
    if r.valid then (List.range r.banks).foldl (fun m b => m ||| (1#32 <<< (r.first + b))) m else m) 0

/-- R109: a bank's zeroing ends; a bank of the free pool then powers down (R110). -/
def bankZeroDone (s : State) (c b : Nat) : State :=
  let m := (getCell s c).mu
  if !m.zeroing.getLsbD b then s
  else
    let m' := muZero m (b * bankBytes) bankBytes
    let one := 1#32 <<< b
    let used := recBanks (getRec s c).mu ||| recBanks (Tbl.get {} s.job.churn.shadow.recs c).mu
    let m' := { m' with zeroing := m'.zeroing &&& ~~~one, powered := if used.getLsbD b then m'.powered else m'.powered &&& ~~~one }
    { setMu s c m' with counts := { s.counts with zeroings := s.counts.zeroings + 1 } }

def execBankZeroDone (c : Cell) (b : Fin 32) (s : State) : Host.Outcome State Fault Refusal := .next (bankZeroDone s c b)

/-- R109: an access to a zeroing bank takes place after the end of the zeroing, which comes with it (log entry 92). -/
def bankSettle (s : State) (c a n : Nat) : State := (banksOver a n).foldl (fun s b => bankZeroDone s c b) s

/-- R93: a precise mapping fault of the MU. -/
def muFault (s : State) (c : Nat) (code : Status) (a : Nat) : State :=
  raiseJobFault (noteMu s code c (a / bankBytes % 32) (a % 2 ^ 21) 0) code

/-- R90, R398: an uncorrectable word stops the read: a unit fault, or DATA_LOST where a replay reads a poisoned word. -/
def muBadWord (s : State) (c a : Nat) (poisoned : Bool) : State :=
  if poisoned && s.job.grid.timers.any (·.replay) then muFault s c Code.dataLost a
  else
    let s := noteMu s Code.muUncorrectable c (a / bankBytes) a 0
    let s := unitFault s c Code.muUncorrectable true false
    let m := (getCell s c).mu
    setMu s c { m with poison := if m.poison.contains (a / 64) then m.poison else m.poison ++ [a / 64] }

/-- R90, R97: a line that left the buffer by read-modify-write, with the word it read known to be uncorrectable. -/
def rmwBad (old new : MuSt) : Option Nat :=
  (old.coal.find? fun l => !(l.bytes.all Option.isSome) && new.poison.contains l.word &&
    !(new.coal.any fun k => k.word == l.word)).map CoalLine.word

/-- The MU of a cell after an access that may have written lines to its banks. -/
def muSet (s : State) (c : Nat) (m : MuSt) : State :=
  match rmwBad (getCell s c).mu m with
  | none => setMu s c m
  | some w => muBadWord (setMu s c m) c (64 * w) true

/-- A write into an MU, with its hazard; `gen`: by a generator or a stream. -/
def muPut (s : State) (c a : Nat) (data : List Byte) (gen : Bool := false) : State :=
  let s := noteWrite (bankSettle s c a data.length) c a data.length
  muSet s c (muWrite data.length (getCell s c).mu a data gen)

/-- A read by a unit of the job out of an MU. -/
def muGet (s : State) (c a n : Nat) : List Byte × State :=
  let r := muRead (getCell s c).mu a n
  (r.1, noteRead (muSet s c r.2) c a n)

/-- R90: the first uncorrectable word of a range, where a read stops. -/
def muBad (s : State) (c a n : Nat) : Option Nat :=
  ((List.range ((a + n - 1) / 64 + 1 - a / 64)).map (a / 64 + ·)).find? fun w => (getCell s c).mu.poison.contains w

/-- R90, R109: a read out of an MU; at an uncorrectable word it returns nothing. -/
def muTry (s : State) (c a n : Nat) : Option (List Byte) × State :=
  let s := bankSettle s c a n
  match muBad s c a n with
  | some w => (none, muBadWord s c (64 * w) true)
  | none => let r := muGet s c a n; (some r.1, r.2)

/-- R90, R109: a read out of an MU and what follows from the bytes; at an uncorrectable word nothing does. -/
def muThen (s : State) (c a n : Nat) (k : List Byte → State → State) : State :=
  match muTry s c a n with
  | (none, s) => s
  | (some bs, s) => k bs s

/-! ### Generators, R93 to R96, R99 -/

/-- R93: the loop indices of element `k` of a nest. -/
def nestIndex (counts : List Nat) (k : Nat) : List Nat :=
  match counts with
  | [] => []
  | c :: cs => k % c :: nestIndex cs (k / c)

/-- R93: the element number that the generator visits. -/
def genElem (g : GenRec) (k : Nat) : Int :=
  g.base + ((nestIndex g.counts k).zip g.strides).foldl (fun t p => t + (p.1 : Int) * p.2) 0

/-- Elements in a nest. -/
def nestLen (g : GenRec) : Nat := if g.mode = 2 then nth 1 g.counts 0 else g.counts.foldl (· * ·) 1

/-- R93: the pass of NESTS nests has ended. -/
def genDone (g : GenRec) (p : GenPos) : Bool := g.nests != 0 && decide (g.nests ≤ p.nest)

/-- R99: the position after one more element; on a DOUBLE region a finished nest waits for the flip. -/
def genStep (g : GenRec) (double : Bool) (p : GenPos) : GenPos :=
  if nestLen g ≤ p.elem + 1 then { nest := p.nest + 1, elem := 0, waits := double } else { p with elem := p.elem + 1 }

/-- R95: entries that a FIFO region holds. -/
def fifoCap (g : GenRec) (r : Region) : Nat := r.banks * (if g.net = 0 then 768 else 12288)

/-- The record and the state of a cell whose wait is met and whose MU record changes (R150): it starts no new nest. -/
def leaving (s : State) (c : Nat) : Bool := s.job.churn.wave.active && s.job.churn.wave.met.contains c &&
  (Tbl.get {} s.job.churn.shadow.recs c).mu != (getRec s c).mu

/-- R95: LAST of a FIFO entry goes to its tag bit. -/
def tagPut (m : MuSt) (word i : Nat) (last : Bool) : MuSt :=
  let t := Tbl.get 0 m.tags word
  let b := 1#16 <<< i
  { m with tags := Tbl.set 0 m.tags word (if last then t ||| b else t &&& ~~~b) }

/-- R94, R95: the write generator takes an entry and writes it. -/
def genWrite (s : State) (c : Nat) : State :=
  let rec' := (getRec s c).mu
  let g := wrGen rec'
  let r := region rec' g.region
  let x := getCell s c
  let key := if g.net = 0 then locKey 0 6 else locKey 1 5
  match getQ x key with
  | [] => s
  | e :: rest =>
    let taken := setCell s c (setQ x key rest)
    if !jobRuns s || !g.enable then s
    else if g.mode = 1 then
      let w := Tbl.get 0 x.mu.fifoWr g.region
      let rd := Tbl.get 0 x.mu.fifoRd g.region
      let cap := fifoCap g r
      let size := if g.net = 0 then 64 else 4
      let a := regionBase r false + (w % cap) * size
      if cap ≤ w - rd ∨ bankReady x.mu a = false then s
      else
        let m := muWrite size (getCell taken c).mu a (leBytes size e.data.toNat) true
        let m := tagPut m (a / 64) (if g.net = 0 then 0 else a % 64 / 4) e.last
        let t := muSet taken c { m with fifoWr := Tbl.insert m.fifoWr g.region (w + 1) }
        match s.job.ckpt with
        | none => t
        | some k =>
          if Tbl.get 0 (Tbl.get {} k.grid.cells c).mu.fifoRd g.region + cap ≤ w then hazard t 4 else t
    else
      let p := x.mu.wr
      let el := genElem g p.elem
      let size := genWidth g
      let a := regionBase r (beatHalf x.mu g.region) + el.toNat * size
      if p.waits || genDone g p || (p.elem == 0 && leaving s c) then s
      else if el < 0 ∨ regionSize r < (el.toNat + 1) * size then muFault taken c Code.addrOutOfRegion a
      else if bankReady x.mu a = false then s
      else
        let t := muPut taken c a (leBytes size e.data.toNat) true
        let m := (getCell t c).mu
        let q := genStep g r.double p
        let m := if genDone g q then coalFlush m (fun _ => true) else m
        muSet t c { m with wr := q }

/-- R95, R93: LAST of a read entry. -/
def genLast (g : GenRec) (p q : GenPos) : Bool :=
  q.elem == 0 && q.nest != p.nest && (g.lastEach || genDone g q)

/-- The entry read at an address leaves on MUR or the scalar MU input of the switch; `step` is the state with the generator
advanced. -/
def genSend (s : State) (c : Nat) (g : GenRec) (a : Nat) (last : Bool) (check : Check) (step : MuSt → MuSt) : State :=
  let size := if g.net = 0 then 64 else 4
  let m := (getCell s c).mu
  if m.poison.contains (a / 64) then muBadWord s c a true
  else if check = .uncorrectable then muBadWord s c a false
  else
    let s := if check = .corrected then { s with counts := { s.counts with muCorr := s.counts.muCorr + 1 } } else s
    let v := muRead m a size
    let s := if g.mode = 1 then s else noteRead s c a size
    unitSend (muSet s c (step v.2)) c g.net 5 [⟨BitVec.ofNat 512 (leNat v.1), last⟩]

/-- R93, R95: the read generator reads one element and sends it. -/
def genRead (s : State) (c : Nat) (check : Check) : State :=
  let rec' := (getRec s c).mu
  let g := rdGen rec'
  let r := region rec' g.region
  let x := getCell s c
  let key := inKey g.net 5
  if !jobRuns s || !g.enable || decide (qDepth c g.net 5 ≤ (getWire x key).length + (getQ x key).length) then s
  else if g.mode = 1 then
    let w := Tbl.get 0 x.mu.fifoWr g.region
    let rd := Tbl.get 0 x.mu.fifoRd g.region
    let size := if g.net = 0 then 64 else 4
    let a := regionBase r false + (rd % fifoCap g r) * size
    let last := (Tbl.get 0 x.mu.tags (a / 64)).getLsbD (if g.net = 0 then 0 else a % 64 / 4)
    if w = rd ∨ bankReady x.mu a = false then s
    else genSend s c g a last check fun m => { m with fifoRd := Tbl.insert m.fifoRd g.region (rd + 1) }
  else
    let p := x.mu.rd
    let q := genStep g r.double p
    let idx := getQ x (locKey 1 5)
    let size := if g.net = 0 then 64 else 4
    if p.waits || genDone g p || (p.elem == 0 && leaving s c) || (g.mode == 2 && idx.isEmpty) then s
    else
      let el : Int := if g.mode = 2 then
        g.base + ((idx.headD {}).data.toNat % 2 ^ 32 : Int) * nth 0 g.strides 0
        else genElem g p.elem
      let s := if g.mode = 2 then setCell s c (setQ x (locKey 1 5) (idx.drop 1)) else s
      let a := regionBase r (if r.double then !beatHalf x.mu g.region else false) + el.toNat * size
      if el < 0 ∨ regionSize r < (el.toNat + 1) * size then muFault s c Code.addrOutOfRegion a
      else if bankReady x.mu a = false then setCell s c x
      else genSend s c g a (genLast g p q) check fun m => { m with rd := q }

def execMuGeneratorAccess (c : Cell) (write : Bool) (check : Check) (s : State) : Host.Outcome State Fault Refusal :=
  .next (if write then genWrite s c else genRead s c check)

/-! ### Flips, R100, R101 -/

/-- R100: the valid DOUBLE regions whose FLIP_TOKEN is `v`. -/
def flipMask (mu : List Byte) (v : Nat) : BitVec 8 :=
  (List.range 8).foldl (fun m i =>
    let r := region mu i
    if r.valid && r.double && r.token == v then m ||| (1#8 <<< i) else m) 0

/-- R100: a flip that an operation or the Ladle requests arrives behind the control tokens that wait. -/
def flipAsk (s : State) (c : Nat) (m : BitVec 8) (repeats : Bool := false) : State :=
  let x := getCell s c
  setMu s c { x.mu with flipQ := x.mu.flipQ ++ [⟨m, (getQ x (locKey 2 5)).length, repeats⟩] }

/-- R100: the request of an operation, from the front of their queue. -/
def flipFromOp (s : State) (c : Nat) : State :=
  let x := getCell s c
  match x.mu.flipQ with
  | [] => s
  | p :: rest => setMu s c { x.mu with flip := p.regions, flipTok := p.repeats, flipQ := rest }

/-- R100: the request of the control token at the head of the MU's control input. -/
def flipFromToken (s : State) (c : Nat) : State :=
  let x := getCell s c
  match getQ x (locKey 2 5) with
  | [] => s
  | e :: rest =>
    let m := flipMask (getRec s c).mu (e.data.toNat % 256)
    let q := x.mu.flipQ.map fun p => { p with behind := p.behind - 1 }
    let s := setCell s c (setQ { x with mu := { x.mu with flip := m, flipTok := true, flipQ := q } } (locKey 2 5) rest)
    if m = 0 then muFault s c Code.flipInvalid 0 else s

/-- R100: the next flip request of an MU in arrival order: a FLIP operation that no waiting token precedes, or a token. -/
def flipRequest (s : State) (c : Nat) : State :=
  let x := getCell s c
  if !jobRuns s || x.mu.flip != 0 then s
  else if (getQ x (locKey 2 5)).isEmpty || x.mu.flipQ.head?.any fun p => p.behind == 0 then flipFromOp s c
  else flipFromToken s c

def execFlipRequest (c : Cell) (s : State) : Host.Outcome State Fault Refusal := .next (flipRequest s c)

/-- The job of a window is the one that the units hold (R102, R107). -/
def winHere (s : State) (v : Window) : Bool := s.jobc.st != 0 && v.job == s.jobc.id

/-- The open windows of the running job on a region of a cell, as its entry in force gives it: a window whose entry a swap has
replaced is on it no longer. -/
def winsOn (s : State) (c r : Nat) : List Nat :=
  (List.range 64).filter fun w =>
    let v := getWin s w
    v.opened && winHere s v && v.cell == c && v.region == r && v.half.isNone

/-- R103: a window whose region a pending flip names grants no credit. A flip that a replay only repeats exchanges no halves. -/
def flipPending (s : State) (c r : Nat) : Bool :=
  let m := (getCell s c).mu
  m.flip.getLsbD r && flipsOwed m r == 0

/-- R99, R101: a generator does not keep region `i` from flipping: it is not enabled, does not use the region, has completed the nest
of its half, has ended its pass, or starts no new nest (R150). -/
def genFree (g : GenRec) (p : GenPos) (i : Nat) (stops : Bool) : Bool :=
  !(g.enable && g.region == i) || p.waits || genDone g p || (p.elem == 0 && stops)

/-- R101: the conditions of region `i`, but for the stream engines'; the credits are against the fill half of the units. -/
def flipReady (s : State) (c i : Nat) : Bool :=
  let mu := (getRec s c).mu
  let m := (getCell s c).mu
  genFree (wrGen mu) m.wr i (leaving s c) && genFree (rdGen mu) m.rd i (leaving s c) &&
  (flipsOwed m i != 0 || (winsOn s c i).all fun v => (getWin s v).outstanding == 0)

/-- R97: the words of a region. -/
def inRegion (r : Region) (word : Nat) : Bool :=
  decide (r.first * 768 ≤ word) && decide (word < (r.first + r.banks) * 768)

/-- R274, R277: the region holds the answers of a dispatch: what a replay sends again lands in its other half, under a new epoch. -/
def homeAnswers (s : State) (c i : Nat) : Bool :=
  let sec := s.job.churn.tables.ladle
  (List.range (ladDisps sec)).any fun d => (ladDisp sec d).ans == c && (ladDisp sec d).ansReg == i

/-- R101, R103: the halves of a region exchange their roles, and its windows' units are free again. -/
def halvesSwap (s : State) (c i : Nat) : State :=
  let m := (getCell s c).mu
  let s := setMu s c { m with
    fillHalf := m.fillHalf ^^^ (1#8 <<< i), real := if homeAnswers s c i then m.real else upd m.real i (· + 1) }
  (winsOn s c i).foldl (fun s w =>
    let v := getWin s w
    setWin s w { v with free := if v.flip then v.units else v.free, held := if v.flip then 0 else v.held, spent := [],
                        wd := { v.wd with markers := [], landed := [], sent := false } }) s

/-- R113: a flip that stands is met again: nothing is exchanged. -/
def flipAgain (s : State) (c i : Nat) : State :=
  let m := (getCell s c).mu
  setMu s c { m with redo := upd m.redo i (· - 1) }

/-- R101, R103: the flip takes effect in one region. -/
def flipRegion (s : State) (c i : Nat) : State :=
  let mu := (getRec s c).mu
  let r := region mu i
  let m := coalFlush (getCell s c).mu (inRegion r)
  let s := muSet s c { m with
    wr := if (wrGen mu).region = i then { m.wr with waits := false } else m.wr
    rd := if (rdGen mu).region = i then { m.rd with waits := false } else m.rd }
  let s := if flipsOwed (getCell s c).mu i = 0 then halvesSwap s c i else flipAgain s c i
  if r.ack then unitSend s c 2 5 [tokenEntry r.token] else s

/-- The regions that a mask names. -/
def maskRegions (m : BitVec 8) : List Nat := (List.range 8).filter fun i => m.getLsbD i

/-- R101: a pending flip whose conditions hold takes effect, and its FLIP_ACK tokens have room (R27). `ready` adds the conditions of the
stream engines, the Ladle and the ring senders. -/
def flipTake (s : State) (c : Nat) (ready : Nat → Bool) : List Nat × State :=
  let m := (getCell s c).mu
  let rs := maskRegions m.flip
  let acks := (rs.filter fun i => (region (getRec s c).mu i).ack).length
  if jobRuns s && !rs.isEmpty && (acks == 0 || (m.tokens.isEmpty && unitRoom (getCell s c) c 2 5 acks)) && rs.all fun i => flipReady s c i && ready i then
    let kept := m.flipTok || rs.all fun i => homeAnswers s c i
    let m' := { m with flip := 0, flipTok := false, opTook := if kept then m.opTook else m.opTook ++ [m.flip] }
    (rs, rs.foldl (fun s i => flipRegion s c i) (setMu s c m'))
  else ([], s)

/-! ### Windows, R102 to R107 -/

/-- R103: the refusal of a frame that names a window. -/
def winRefusal (s : State) (w : Nat) (gen part : Byte) : Option Status :=
  let v := getWin s w
  if !v.opened || gen != v.gen then some Code.windowClosed
  else if part != v.part then some Code.windowPartition
  else if v.suspended then some Code.windowSuspended
  else none

/-- R103, R104: a refusal or a drop is counted in WIN_STAT. -/
def winCount (s : State) (w : Nat) (code : Status) (src : BitVec 16) : State :=
  let v := getWin s w
  if v.opened then setWin s w { v with refused := v.refused + 1, lastCode := code, lastSrc := src } else s

/-- R104: a fault of the job that owns the window; the record names the window, and beside its fields GEN and the sending module. -/
def winFault (s : State) (w : Nat) (code : Status) (src : BitVec 16) (off : Nat) : State :=
  let v := getWin s w
  let s := winCount s w code src
  ownerFault (noteMu s code v.cell 0 (off % 2 ^ 21) w [v.gen.toNat, src.toNat]) v.job code

/-- R103, R113: a flip of the window's region is pending. -/
def winFlips (s : State) (w : Nat) : Bool :=
  let v := getWin s w
  winHere s v && v.half.isNone && flipPending s v.cell v.region

/-- R103: the credits granted to a request of `n`. -/
def winGrant (s : State) (w n : Nat) : Nat :=
  let v := getWin s w
  if v.closing || winFlips s w then 0 else min n v.free

/-- R102, R110: the MU address of byte `off` of a window: in the fill half of a DOUBLE region, which for a window whose region a swap has
replaced is the half that was the fill half then. -/
def winAddr (s : State) (w off : Nat) : Nat :=
  let v := getWin s w
  (if v.half.getD (fillHalf (getCell s v.cell).mu v.region) then v.at1 else v.at0) + off

/-- R103: the checks of a credited write: no credit, then the range. -/
def winWriteFault (s : State) (w off n : Nat) : Option Status :=
  let v := getWin s w
  if v.outstanding = 0 then some Code.windowNoCredit
  else if n = 0 ∨ 512 < n ∨ 512 * v.units < off + n ∨ off / 512 ≠ (off + n - 1) / 512 then some Code.windowRange
  else none

/-- R103: a write that passes lands; its unit is freed, or held under FLIP. -/
def winLand (s : State) (w off : Nat) (data : List Byte) : State :=
  let v := getWin s w
  let s := muPut s v.cell (winAddr s w off) data
  setWin s w { v with outstanding := v.outstanding - 1, writes := v.writes + 1,
                      free := if v.flip then v.free else v.free + 1, held := if v.flip then v.held + 1 else v.held }

/-- R103: the return of `n` unused credits. -/
def winReturn (s : State) (w n : Nat) (src : BitVec 16) : State :=
  let v := getWin s w
  if v.outstanding < n then winFault s w Code.creditReturnOverflow src 0
  else setWin s w { v with outstanding := v.outstanding - n, free := v.free + n }

/-- R105: the window's bytes are zeroed, in both halves of a DOUBLE region. The bytes of a saved job's window are not in the
units (R355). -/
def winZero (s : State) (w : Nat) : State :=
  let v := getWin s w
  if !winHere s v then s else
  let n := 512 * v.units
  let halves := if v.at0 = v.at1 then [v.at0] else [v.at0, v.at1]
  let within := fun word => halves.any fun a => decide (a ≤ 64 * word) && decide (64 * word < a + n)
  let s := muSet s v.cell (coalFlush (getCell s v.cell).mu within)
  let m := (getCell s v.cell).mu
  let banks := (halves.flatMap fun a => banksIn a n).filter fun b => m.dirty.getLsbD b
  { setMu s v.cell (halves.foldl (fun m a => muZero m a n) m) with
    counts := { s.counts with zeroings := s.counts.zeroings + banks.length } }

/-- R106: the banks that a window covers, in both halves of a DOUBLE region. -/
def winBanks (v : Window) : List Nat :=
  banksOver v.at0 (512 * v.units) ++ if v.at0 = v.at1 then [] else banksOver v.at1 (512 * v.units)

/-- Bank numbers as a mask. -/
def bankMask (bs : List Nat) : BitVec 32 := bs.foldl (fun m b => m ||| (1#32 <<< b)) 0

/-- R110: the banks of a cell that open windows of the running job cover. -/
def windowBanks (s : State) (c : Nat) : BitVec 32 :=
  bankMask ((s.wins.filter fun v => v.opened && winHere s v && v.cell == c).flatMap winBanks)

/-- R110: the banks of a cell that neither the configuration in force nor the shadow nor an open window uses are zeroed, then powered
down; their lines are flushed as the zeroing begins (R97). -/
def freeBanks (s : State) (c : Nat) : State :=
  let used := recBanks (getRec s c).mu ||| windowBanks s c |||
    (if s.job.churn.shadow.st = 0 then 0 else recBanks (Tbl.get {} s.job.churn.shadow.recs c).mu)
  let idle := (getCell s c).mu.powered &&& ~~~used
  if idle = 0 then s
  else
    let s := muSet s c (coalFlush (getCell s c).mu fun w => idle.getLsbD (w / 768))
    let m := (getCell s c).mu
    setMu s c { m with zeroing := m.zeroing ||| (idle &&& m.dirty), powered := m.powered &&& ~~~(idle &&& ~~~m.dirty) }

/-- R106: whether a closing window of a cell holds the switch token: the new configuration changes its region and places a
region on one of its banks. -/
def cellHeld (s : State) (c : Nat) : Bool :=
  let new := (Tbl.get {} s.job.churn.shadow.recs c).mu
  (List.range 64).any fun w =>
    let v := getWin s w
    v.opened && v.closing && winHere s v && v.cell == c && (new.drop (4 * v.region)).take 4 != ((getRec s c).mu.drop (4 * v.region)).take 4 &&
    (winBanks v).any fun b => (recBanks new).getLsbD b

/-- R152: the time for which an MU has held the token, kept when it begins and ends. -/
def heldUpdate (s : State) : State :=
  let w := s.job.churn.wave
  let any := w.active && w.met.any fun c => !w.committed.contains c && cellHeld s c
  match w.heldSince, any with
  | none, true => setChurn s { s.job.churn with wave := { w with heldSince := some s.now } }
  | some t, false => setChurn s { s.job.churn with wave := { w with heldSince := none, heldTime := w.heldTime + (s.now - t) } }
  | _, _ => s

/-- R108, R110: the banks that a closed window leaves, where no region in force and no open window uses them, are zeroed, also where the
shadow waits for them. -/
def windowLeaves (s : State) (v : Window) : State :=
  let s := freeBanks s v.cell
  let left := bankMask (winBanks v) &&& ~~~(recBanks (getRec s v.cell).mu ||| windowBanks s v.cell)
  let s := muSet s v.cell (coalFlush (getCell s v.cell).mu fun w => left.getLsbD (w / 768))
  let m := (getCell s v.cell).mu
  setMu s v.cell { m with zeroing := m.zeroing ||| (left &&& m.powered &&& m.dirty) }

/-- R105: the slot is freed, its GEN kept; every WCLOSE of it completes with `code`. Banks that only the window kept leave use. -/
def winFree (s : State) (w : Nat) (code : Status) : State :=
  let v := getWin s w
  let s := setWin (winZero s w) w { gen := v.gen, wd := { enable := v.wd.enable, senders := v.wd.senders, token := v.wd.token } }
  let s := if winHere s v then windowLeaves s v else s
  heldUpdate (v.closeFor.foldl (fun s o => opDone s o code) s)

/-- R105: a close begins, and every module of the window's partition is sent a close notice (R299). -/
def winClose (s : State) (w : Nat) : State :=
  let v := getWin s w
  if v.opened && !v.closing then
    notifyAll (setWin s w { v with closing := true, closeAt := s.now }) v.part.toNat (.close (BitVec.ofNat 6 w).toFin v.gen)
  else s

/-- The units of a FAULTED or ending job no longer run: no pending flip of it takes effect. -/
def unitsStopped (s : State) : Bool := s.jobc.st == 2 || s.jobc.st == 5

/-- R105, R113: a close completes when no credit is outstanding and no flip that can still take effect is pending. -/
def windowCloseComplete (s : State) (w : Nat) : State :=
  let v := getWin s w
  if v.opened && v.closing && v.outstanding == 0 && (unitsStopped s || !winFlips s w) then winFree s w Code.ok else s

def execWindowCloseComplete (w : Win) (s : State) : Host.Outcome State Fault Refusal := .next (windowCloseComplete s w)

/-- R105: CLOSE_TIMEOUT: the remaining credits are written off. -/
def closeTimeout (s : State) (w : Nat) : State :=
  let v := getWin s w
  if v.opened && v.closing && decide (0 < v.outstanding) && decide (v.closeAt + s.limits.closeUs * us ≤ s.now) then
    winFree (noteMu s Code.closeTimeout v.cell 0 0 w) w Code.closeTimeout
  else s

def execCloseTimeout (w : Win) (s : State) : Host.Outcome State Fault Refusal := .next (closeTimeout s w)

/-! ### Zeroing and power, R108 to R110 -/

/-- R110: a bank that the shadow needs is woken, and its zeroing begins; its lines are flushed first (R97). -/
def bankWake (s : State) (c b : Nat) : State :=
  let one := 1#32 <<< b
  if (getCell s c).mu.waking.getLsbD b then
    let s := muSet s c (coalFlush (getCell s c).mu fun w => w / 768 == b)
    let m := (getCell s c).mu
    setMu s c { m with waking := m.waking &&& ~~~one, powered := m.powered ||| one, zeroing := m.zeroing ||| one }
  else s

def execBankWake (c : Cell) (b : Fin 32) (s : State) : Host.Outcome State Fault Refusal := .next (bankWake s c b)

/-- R115, R97, R109: a read of MU_PEEK of slot `n` waits for a zeroing bank and passes through the coalescing buffer: the bytes, and
what it writes first. An uncorrectable word is not returned (R90), and DATA reads zero (log entry 93). -/
def peekThrough (s : State) (n : Nat) : List Byte × State :=
  let sel := (getHost s n).muSel
  let c := bits sel 0 9
  let a := bits sel 12 21 / 8 * 8
  let s := bankSettle s c a 8
  match muBad s c a 8 with
  | some w => (List.replicate 8 0, muBadWord s c (64 * w) true)
  | none =>
    let r := muRead (getCell s c).mu a 8
    (r.1, if (getCell s c).mu = r.2 then s else muSet s c r.2)

/-- R115, R344: MU_PEEK of a slot: the 64-bit word at ADDR; zero for any slot but the owner. -/
def muPeek (s : State) (n : Nat) : State :=
  let h := getHost s n
  if !h.present then s
  else if !isReady s || !(s.own.owned && s.own.slot == n) then setHost s n { h with resp := List.replicate 8 0 }
  else setHost (peekThrough s n).2 n { h with resp := (peekThrough s n).1 }

def execMuPeek (slot : Slot) (s : State) : Host.Outcome State Fault Refusal := .next (muPeek s slot)

end Sys2Proof.Machine
end

