-- ==== Sys2Proof/Machine/Cu.lean ====
section
/-! DEFINITION. The compute units: the matrix engine's tiles, the finished-tile queue and the vector pipeline (files 03, 04). -/

namespace Sys2Proof.Machine

/-- The operand entries of the tile that accumulates, as numbers: A, and B or the held panel. -/
def tileOperands (x : CellSt) (r : MatRec) : List Nat × List Nat :=
  (x.takenA.map BitVec.toNat, ((if r.bHold then x.panel.getD [] else x.takenB).map BitVec.toNat))

/-- R40, R54: every k-step of the tile has its operands. -/
def tileReady (x : CellSt) (r : MatRec) : Bool :=
  r.enable && x.takenA.length == matNeedA r &&
  (if r.bHold then x.panel.isSome else x.takenB.length == matNeedB r) && decide (x.done.length < 2)

/-- The position of a pass of `n` tiles, 0 for a persistent one, after one more tile: the final tile ends the pass. -/
def tileNext (n i : Nat) : Nat := if n != 0 && i + 1 == n then 0 else i + 1

/-- R40, R45: tile `t` has accumulated. After the final tile of a pass the panel is no longer held. -/
def tileAdd (x : CellSt) (r : MatRec) (t : MTile) : CellSt :=
  let last := r.tileCount != 0 && x.mtile + 1 == r.tileCount
  { x with takenA := [], takenB := [], done := x.done ++ [t], mtile := tileNext r.tileCount x.mtile,
           panel := if last then none else x.panel, side := !last && x.side }

/-- R57 to R63: a tile completes: it is checked, and released for the drain unless it fails. The records name the tile's index in
the pass and the first element that fails, or is saturated (R59, R62). -/
def tileComplete (s : State) (c i : Nat) (d : Int) : State :=
  let x := getCell s c
  let r := matRec (getRec s c).mat
  if !jobRuns s || !tileReady x r then s
  else
    let ops := tileOperands x r
    let t := matUpset (matTile r ops.1 ops.2) i d
    if matResidueBad t d then unitFault s c Code.residueMismatch false false [x.mtile, matFirstBad t i]
    else if matSat t then
      raiseJobFault (noteGrid s Code.exaSaturated c (punit s c false) 0 0 [x.mtile, matFirstSat t]) Code.exaSaturated
    else setCell s c (tileAdd x r t)

def execMatrixTileComplete (c : Cell) (i : Fin 4096) (d : Int) (s : State) : Host.Outcome State Fault Refusal :=
  .next (tileComplete s c i d)

/-- R50, R55, R56, R64: the drain of a finished tile: into a free slot of the finished-tile queue, or on CUO. -/
def tileDrain (s : State) (c : Nat) : State :=
  let x := getCell s c
  let r := matRec (getRec s c).mat
  match x.done with
  | [] => s
  | t :: rest =>
    let y := { x with done := rest, drained := tileNext r.tileCount x.drained }
    if !jobRuns s || !r.enable then s
    else if r.outMode = 0 then
      if 8 ≤ x.vec.ftq.length then s
      else setCell s c { y with vec := { y.vec with ftq := y.vec.ftq ++ [matTileF32 r t] } }
    else if !(getWire x (inKey 0 4)).isEmpty then s
    else
      let es := matEntries r t
      let lastTile := r.tileCount != 0 && x.drained + 1 == r.tileCount
      unitSend (setCell s c y) c 0 4 (es.zipIdx.map fun p =>
        ⟨BitVec.ofNat 512 p.1, lastTile && p.2 + 1 == es.length⟩)

def execTileDrain (c : Cell) (s : State) : Host.Outcome State Fault Refusal := .next (tileDrain s c)

/-- R45: the B panel, once all its entries have come, is held for the whole pass. -/
def bPanelLoad (s : State) (c : Nat) : State :=
  let x := getCell s c
  let r := matRec (getRec s c).mat
  if jobRuns s && r.enable && r.bHold && x.panel.isNone && x.takenB.length == matNeedB r then
    setCell s c { x with panel := some x.takenB, takenB := [], side := false }
  else s

def execBPanelLoad (c : Cell) (s : State) : Host.Outcome State Fault Refusal := .next (bPanelLoad s c)

/-- Entries without LAST. -/
def plainEntries (es : List Nat) : List Entry := es.map fun e => ⟨BitVec.ofNat 512 e, false⟩

/-- Entries of which the final one carries LAST. -/
def lastEntries (es : List Nat) : List Entry :=
  es.zipIdx.map fun p => ⟨BitVec.ofNat 512 p.1, p.2 + 1 == es.length⟩

/-- R72: the next row belongs to the tile that LOAD_TREG takes. -/
def vecLoading (r : VecRec) (v : VecSt) : Bool := decide (r.loadTreg < 8) && !v.loaded

/-- R67: the rows that enter together: in MODE 1 two consecutive rows of one tile, one where the tile has no second. -/
def rowsAtOnce (r : VecRec) (v : VecSt) : Nat := if r.mode1 && decide (v.row + 1 < vecRows r) then 2 else 1

/-- R71, R73, R86: the inputs of the next row, or pair, are present: its rows, its side rows and its tile's scalars. The tile that
LOAD_TREG takes does not pass the stages, and takes neither side rows nor scalars (log entry 90). -/
def rowInputs (x : CellSt) (r : VecRec) : Bool :=
  let v := x.vec
  let load := vecLoading r v
  let n := rowsAtOnce r v * rowEntries r.inFmt
  r.enable && decide (v.row < vecRows r) &&
  (if r.src = 0 then !v.ftq.isEmpty else decide (n ≤ (getQ x (locKey 0 (if r.src = 1 then 4 else 5))).length)) &&
  (load || !vecUsesSide r || decide (n ≤ (getQ x (locKey 0 5)).length)) &&
  (load || v.taken || decide (vecScalars r ≤ (getQ x (locKey 1 4)).length))

/-- R86: the next row, or pair, can enter: its inputs are present, and the sink has sent what the rows before it left. -/
def rowReady (x : CellSt) (r : VecRec) : Bool :=
  rowInputs x r && (vecLoading r x.vec ||
    ((!r.sinkCuo || (getWire x (inKey 0 4)).isEmpty) && (!r.sinkScalar || (getWire x (inKey 1 4)).isEmpty)))

/-- R73: the tile's scalar entries are taken before its first row. -/
def takeScalars (x : CellSt) (r : VecRec) : CellSt :=
  let v := x.vec
  if v.taken then x
  else
    let q := getQ x (locKey 1 4)
    let w := fun i => ((nth {} q i).data.setWidth 32)
    let k := if vecUsesScal r then 1 else 0
    let y := setQ x (locKey 1 4) (q.drop (vecScalars r))
    { y with vec := { v with
        taken := true
        scal := if vecUsesScal r then w 0 else 0
        mask := if vecUsesMask r then (w k).toNat + 2 ^ 32 * (w (k + 1)).toNat else 0 } }

/-- The source's next row, R65, R71, and the cell without it; a queue slot is released after its last row (R64). -/
def takeRow (x : CellSt) (r : VecRec) : List F32 × CellSt :=
  let v := x.vec
  if r.src = 0 then
    let t := v.ftq.headD []
    let y := if v.row + 1 = 64 then { x with vec := { v with ftq := v.ftq.drop 1 } } else x
    ((t.drop (64 * v.row)).take 64, y)
  else
    let k := locKey 0 (if r.src = 1 then 4 else 5)
    let q := getQ x k
    let n := rowEntries r.inFmt
    (rowOf r.inFmt ((q.take n).map fun e => e.data.toNat), setQ x k (q.drop n))

/-- R71: the side row from CUB. -/
def takeSide (x : CellSt) (r : VecRec) : List F32 × CellSt :=
  if vecUsesSide r then
    let q := getQ x (locKey 0 5)
    let n := rowEntries r.inFmt
    (rowOf r.inFmt ((q.take n).map fun e => e.data.toNat), setQ x (locKey 0 5) (q.drop n))
  else (zeroRow, x)

/-- R74: what the sink sends for a row; in the final tile of a pass the latest row waits for LAST. -/
def sinkRow (x : CellSt) (r : VecRec) (idx : Nat) (out : List F32) : CellSt :=
  let v := vecSink r x.vec idx out
  let es := if r.sinkCuo then vecCuo r out else []
  let sc := if r.sinkScalar then [(nth 0 out 0).toNat] else []
  let lastTile := r.vtiles != 0 && v.tile + 1 == r.vtiles
  let sendV := plainEntries (v.heldV ++ if lastTile then [] else es)
  let sendS := plainEntries (v.heldS ++ if lastTile then [] else sc)
  let y := { x with vec := { v with heldV := if lastTile then es else [], heldS := if lastTile then sc else [] } }
  let y := setWire y (inKey 0 4) (getWire y (inKey 0 4) ++ sendV)
  setWire y (inKey 1 4) (getWire y (inKey 1 4) ++ sendS)

/-- R67 to R72: one row enters. -/
def rowEnter (x : CellSt) (r : VecRec) : CellSt :=
  let idx := x.vec.row
  if vecLoading r x.vec then
    let t := takeRow x r
    let v := vecLoad r t.2.vec idx t.1
    { t.2 with vec := if idx + 1 = vecRows r then { v with loaded := true, row := 0 } else { v with row := idx + 1 } }
  else
    let t := takeRow (takeScalars x r) r
    let d := takeSide t.2 r
    let o := vecRow r d.2.vec idx t.1 d.1
    let y := { d.2 with vec := { o.1 with row := idx + 1 } }
    match o.2 with
    | none => y
    | some out => sinkRow y r idx out

/-- R66: the CU's check of what it reads: the record of an uncorrectable word names the slot (0 to 7) or the register (8 + its number),
and the row. -/
def vecCheck (s : State) (c : Nat) (check : VecCheck) : Option State :=
  match check with
  | .clean => none
  | .corrected => none
  | .uncorrectable word => some (unitFault s c Code.vecUncorrectable false false [word.place, word.row])

/-- R66: a corrected error is counted. -/
def countCorr (s : State) (check : VecCheck) : State :=
  if check = .corrected then { s with counts := { s.counts with corr := s.counts.corr + 1 } } else s

/-- R67, R86: a row enters stage 1, or in MODE 1 a pair. -/
def vectorRowEnter (s : State) (c : Nat) (check : VecCheck) : State :=
  let x := getCell s c
  let r := vecRec (getRec s c).vec
  if !jobRuns s || !rowReady x r then s
  else match vecCheck s c check with
  | some t => t
  | none =>
    let y := rowEnter x r
    setCell (countCorr s check) c (if rowsAtOnce r x.vec = 2 then rowEnter y r else y)

def execVectorRowEnter (c : Cell) (check : VecCheck) (s : State) : Host.Outcome State Fault Refusal :=
  .next (vectorRowEnter s c check)

/-- R74, R78, R84, R85: the tile-end commit. A tile that owes a token waits for room for it (R27). -/
def tileEndCommit (s : State) (c : Nat) (check : VecCheck) : State :=
  let x := getCell s c
  let r := vecRec (getRec s c).vec
  let v := x.vec
  if !jobRuns s || !r.enable || vecLoading r v || v.row != vecRows r || (r.tokenOut && !unitRoom x c 2 4 1) then s
  else match vecCheck s c check with
  | some t => t
  | none =>
    let s := countCorr s check
    let lastTile := r.vtiles != 0 && v.tile + 1 == r.vtiles
    let es := if !lastTile then [] else if r.sinkCuo then lastEntries (if v.sent = 0 then [0] else v.heldV) else []
    let sc := if !lastTile then [] else if r.sinkScalar then lastEntries (if v.sent = 0 then [0] else v.heldS) else []
    let w := vecCommit r v
    let w := if lastTile then vecPassEnd w else w
    let s := setCell s c { x with vec := w }
    let s := unitSend s c 0 4 es
    let s := unitSend s c 1 4 sc
    if r.tokenOut then unitSend s c 2 4 [tokenEntry v.sent] else s

def execTileEndCommit (c : Cell) (check : VecCheck) (s : State) : Host.Outcome State Fault Refusal :=
  .next (tileEndCommit s c check)

end Sys2Proof.Machine
end

