-- ==== Sys2Proof/Machine/Tiers.lean ====
section
/-! DEFINITION. The memory tiers (file 08): frames, the page map, device memory, moves, the read caches and the schedule. -/

namespace Sys2Proof.Machine

def pageShift : Nat := 21
def pageBytes : Nat := 2 ^ 21
def stackFrames : Nat := 23040
def nearFrames : Nat := 276480
def vatFrames : Nat := 753664
def nearReservable : Nat := 275968
def maxMapped : Nat := 2097152

/-- R157: the save area is frames 0 to 63 of H0 to H7. -/
def isSaveFrame (f : Nat) : Bool := decide (f / stackFrames < 8) && decide (f % stackFrames < 64)

def getPage (s : State) (p : Nat) : PageEnt := Tbl.get {} s.tiers.pages p
def setPage (s : State) (p : Nat) (e : PageEnt) : State :=
  { s with tiers := { s.tiers with pages := Tbl.set {} s.tiers.pages p e } }

/-- The state of a frame. Until the Vat has been zeroed after a bring-up, its frames are being zeroed but for those done (R385, R393). -/
def frameSt (s : State) (vat : Bool) (f : Nat) : FState :=
  let v := Tbl.get .free (if vat then s.tiers.vatF else s.tiers.nearF) f
  if vat && v == .free && !s.boot.vatZeroed && !s.boot.vatEarly.contains f then .zeroing else v
def setFrame (s : State) (vat : Bool) (f : Nat) (v : FState) : State :=
  if vat then { s with tiers := { s.tiers with vatF := Tbl.set .free s.tiers.vatF f v } }
  else { s with tiers := { s.tiers with nearF := Tbl.set .free s.tiers.nearF f v } }

/-- The `n`-th number from `k` upwards that the rising list does not hold. -/
def nthFree (n : Nat) : Nat → List Nat → Nat
  | k, [] => k + n
  | k, j :: js => if j < k then nthFree n k js else if j ≤ k + n then nthFree (n + 1) k js else k + n

/-- The frames of a range that are not free. -/
def taken (t : List (Nat × FState)) (lo hi : Nat) : List Nat :=
  (t.map Prod.fst).filter fun f => decide (lo ≤ f) && decide (f < hi)

/-- The range of frames of a stack that pages may take. -/
def stackLo (h : Nat) : Nat := h * stackFrames + (if h < 8 then 64 else 0)
def stackHi (h : Nat) : Nat := (h + 1) * stackFrames

/-- Free frames of a stack, and of the Vat. -/
def stackFree (s : State) (h : Nat) : Nat := stackHi h - stackLo h - (taken s.tiers.nearF (stackLo h) (stackHi h)).length
def vatFree (s : State) : Nat :=
  if s.boot.vatZeroed then vatFrames - (taken s.tiers.vatF 0 vatFrames).length
  else (s.boot.vatEarly.filter fun f => Tbl.get .free s.tiers.vatF f == .free).length
def nearFree (s : State) : Nat := (List.range 12).foldl (fun t h => t + stackFree s h) 0

/-- R160: the stack that a page takes: page mod 12, or the next one in ascending order that has a free frame. -/
def stackFor (s : State) (page : Nat) : Option Nat :=
  ((List.range 12).map fun i => (page + i) % 12).find? fun h => decide (0 < stackFree s h)

/-- R160, R447: a zeroed frame for a page: the module's choice among the stack's, or the Vat's. -/
def takeFrame (s : State) (vat : Bool) (page : Nat) : Option (Nat × State) :=
  if vat then
    if vatFree s = 0 then none
    else
      let c := choose s (vatFree s)
      let f := if s.boot.vatZeroed then nthFree c.1 0 (taken s.tiers.vatF 0 vatFrames)
        else nth 0 (s.boot.vatEarly.filter fun f => Tbl.get .free s.tiers.vatF f == .free) c.1
      some (f, setFrame c.2 true f .used)
  else match stackFor s page with
    | none => none
    | some h =>
      let c := choose s (stackFree s h)
      let f := nthFree c.1 (stackLo h) (taken s.tiers.nearF (stackLo h) (stackHi h))
      some (f, setFrame c.2 false f .used)

/-- R163: a frame is freed and zeroed before it is used again. A retired frame stays retired. -/
def freeFrame (s : State) (vat : Bool) (f : Nat) : State :=
  if frameSt s vat f = .retired then s else setFrame s vat f .zeroing

/-! ### Device memory -/

/-- Where a page's reads go: its tier and frame (Table 8.2). -/
def pageFrame : PState → Option (Bool × Nat)
  | .near f => some (false, f)
  | .vat f => some (true, f)
  | .moving v f _ _ => some (v, f)
  | _ => none

/-- The tier and byte key of a device address. -/
def devLoc (s : State) (a : Nat) : Option (Bool × Nat) :=
  (pageFrame (getPage s (a / pageBytes)).st).map fun l => (l.1, l.2 * pageBytes + a % pageBytes)

/-- R398, R409: whether the word or granule of a byte key is poisoned. -/
def tierBad (s : State) (vat : Bool) (k : Nat) : Bool :=
  if vat then
    let g := k / 256
    s.tiers.badVat.contains g || (s.tiers.lostSlots.contains (g % 92) && !s.tiers.cured.contains g)
  else s.tiers.badNear.contains (k / 64) || s.ras.failedStacks.getLsbD (k / pageBytes / stackFrames)

/-- Bytes of device memory from `a`, all within one page; an address that holds nothing reads zero. -/
def devRead (s : State) (a n : Nat) : List Byte :=
  match devLoc s a with
  | none => List.replicate n 0
  | some l => Mem.readN (if l.1 then s.tiers.vat else s.tiers.near) l.2 n

/-- Bytes of device memory across pages, in 64-byte pieces from a 64-byte boundary. -/
def devReadAll (s : State) : Nat → Nat → List Byte
  | _, 0 => []
  | a, n + 1 => devRead s a 64 ++ devReadAll s (a + 64) n

/-- `n` bytes of device memory from any address, byte by byte. -/
def devBytes (s : State) (a n : Nat) : List Byte := (List.range n).flatMap fun i => devRead s (a + i) 1

/-- R167: the lines that hold a device address leave both caches. -/
def cacheInval (s : State) (a n : Nat) : State :=
  let l0 := a / 256
  let l1 := (a + n - 1) / 256
  let drop := fun (t : List (Nat × List CacheLine)) =>
    (List.range (l1 + 1 - l0)).foldl (fun t i =>
      Tbl.set [] t ((l0 + i) % 12288) ((Tbl.get [] t ((l0 + i) % 12288)).filter fun c => c.line != l0 + i)) t
  { s with tiers := { s.tiers with cache := s.tiers.cache.map drop } }

/-- R167: a page's lines leave both caches. -/
def cacheDrop (s : State) (p : Nat) : State :=
  let drop := fun (t : List (Nat × List CacheLine)) =>
    (t.map fun x => (x.1, x.2.filter fun c => c.line / 8192 != p)).filter fun x => !x.2.isEmpty
  { s with tiers := { s.tiers with cache := s.tiers.cache.map drop } }

/-- R398: a write that wholly covers a poisoned word clears it. -/
def cure (t : Tiers) (vat : Bool) (k n : Nat) : Tiers :=
  if vat then
    let full := fun g => decide (k ≤ g * 256) && decide ((g + 1) * 256 ≤ k + n)
    let gs := (List.range (n / 256)).map fun i => (k + 255) / 256 + i
    { t with badVat := t.badVat.filter fun g => !full g
             cured := t.cured ++ gs.filter fun g => full g && t.lostSlots.contains (g % 92) && !t.cured.contains g }
  else { t with badNear := t.badNear.filter fun w => !(decide (k ≤ w * 64) && decide ((w + 1) * 64 ≤ k + n)) }

/-- R161, R167: a write of bytes within one page; the caches are invalidated first. A write to an address that holds nothing is
not made. During a move the write goes to the source, from which the destination is completed. -/
def devWrite (s : State) (a : Nat) (data : List Byte) : State :=
  match devLoc s a with
  | none => s
  | some l =>
    let s := cacheInval s a data.length
    let t := cure s.tiers l.1 l.2 data.length
    if l.1 then { s with tiers := { t with vat := Mem.writeN t.vat l.2 data } }
    else { s with tiers := { t with near := Mem.writeN t.near l.2 data } }

/-- A write of bytes in 64-byte pieces from a 64-byte boundary. -/
def devWriteAll (s : State) : Nat → Nat → List Byte → State
  | _, 0, _ => s
  | a, n + 1, data => devWriteAll (devWrite s a (data.take 64)) (a + 64) n (data.drop 64)

/-- The state of the page at a device address. -/
def addrState (s : State) (a : Nat) : PState :=
  if a < 2 ^ 48 then (getPage s (a / pageBytes)).st else .unmapped

/-! ### Reservations, R165, R166 -/

/-- Whether a page is ABSENT with a store backing. -/
def isBacked : PState → Bool
  | .absent (some _) => true
  | _ => false

/-- Whether a page holds a frame of a tier; a MOVING page counts in both. -/
def holdsTier (vat : Bool) : PState → Bool
  | .near _ => !vat
  | .vat _ => vat
  | .moving _ _ _ _ => true
  | _ => false

/-- R208: the backed pages that RESTOREs accepted for a tier have yet to bring in. -/
def restoring (s : State) (job : Nat) (vat : Bool) : List Nat :=
  let cs := s.sep.urgent.filter fun c => c.op == 4 && c.job == job && c.tier == (if vat then 1 else 0) && c.result.isNone
  ((cs.flatMap SepCmd.pages).eraseDups).filter fun p => isBacked (getPage s p).st

/-- R165: a move of a page towards a tier is queued and has not started. -/
def queuedTo (s : State) (p : Nat) (vat : Bool) : Bool := s.tiers.moves.any fun m => m.page == p && m.toVat == vat && !m.started

/-- R158: the pages of the page map, with those of accepted MAPs. -/
def mappedPages (s : State) : Nat := s.tiers.pages.length + (s.tiers.maps.map MapOp.count).foldl (· + ·) 0

/-- R158: a page is mapped, or named by an accepted MAP. -/
def pageTaken (s : State) (p : Nat) : Bool :=
  (getPage s p).st != .unmapped || s.tiers.maps.any fun m => decide (m.first ≤ p) && decide (p < m.first + m.count)

/-- R165, R330: the pages that count against a job in a tier: frames held, moves accepted towards it, MAPs accepted. -/
def tierUsed (s : State) (job : Nat) (vat : Bool) : Nat :=
  (s.tiers.pages.filter fun p => p.2.job == job && holdsTier vat p.2.st).length +
  (((s.tiers.moves.filter fun m => m.job == job && m.toVat == vat && !m.started && !holdsTier vat (getPage s m.page).st).map
    Move.page).eraseDups).length +
  ((s.tiers.maps.filter fun m => m.job == job && m.tier == (if vat then 1 else 0)).map MapOp.count).foldl (· + ·) 0 +
  (restoring s job vat).length

/-- R166: pages set aside for requests in a tier. -/
def tierAside (s : State) (job : Nat) (vat : Bool) : Nat :=
  (s.tiers.pages.filter fun p => p.2.job == job && p.2.aside && holdsTier vat p.2.st).length

/-- The running job's reservation in a tier. -/
def tierRes (s : State) (vat : Bool) : Nat := if vat then s.jobc.vatRes else s.jobc.nearRes

/-- R165: whether `n` more pages would pass the reservation. -/
def overReserved (s : State) (vat : Bool) (n : Nat) : Bool := decide (tierRes s vat < tierUsed s s.jobc.id vat + n)

/-- R162, R202, R204: the pages of an image that is registered or being checked, of a weight set that is LOADING or READY, and of
an adapter slot that is not EMPTY. -/
def isPinned (s : State) (p : Nat) : Bool :=
  (s.job.churn.images.any fun i => (i.st == 1 || i.st == 2) &&
    decide (i.addr / pageBytes ≤ p) && decide (p * pageBytes < i.addr + max i.bytes 1)) ||
  (s.sep.wsets.any fun w => (w.st == 1 || w.st == 2) && decide (w.page ≤ p) && decide (p < w.page + w.pages)) ||
  s.sep.adps.any fun a => a.2.st != 0 && decide (a.2.page ≤ p) && decide (p < a.2.page + a.2.pages)

/-! ### Moves, R161, R446 -/

def moving (s : State) : Nat := (s.tiers.moves.filter Move.started).length

/-- Whether a page is in, or moving towards, a tier. -/
def towards (vat : Bool) : PState → Bool
  | .near _ => !vat
  | .vat _ => vat
  | .moving _ _ d _ => d == vat
  | _ => false

/-- R164: a move is the first in the queue for its page. -/
def moveHead (s : State) (m : Move) : Bool := (s.tiers.moves.find? fun k => k.page == m.page) == some m

/-- R161: a queued move starts where its page rests in the other tier, fewer than 16 pages move, and a zeroed frame is free. -/
def startMove (s : State) (i : Nat) : State :=
  let m := nth ⟨0, false, 0, false, none, none⟩ s.tiers.moves i
  let src := match (getPage s m.page).st with
    | .near f => if m.toVat then some (false, f) else none
    | .vat f => if m.toVat then none else some (true, f)
    | _ => none
  match src with
  | none => s
  | some l =>
    if m.started || !moveHead s m || decide (16 ≤ moving s) || m.job != s.jobc.id || !jobRuns s then s
    else match takeFrame s m.toVat m.page with
      | none => s
      | some f =>
        let s := setPage f.2 m.page { getPage s m.page with st := .moving l.1 l.2 m.toVat f.1 }
        { s with tiers := { s.tiers with moves := s.tiers.moves.set i { m with started := true } } }

/-- An operation whose last move is gone completes (R329). -/
def moveOpDone (s : State) (o : Option OpRef) : State :=
  match o with
  | none => s
  | some r => if s.tiers.moves.any fun m => m.forOp == some r then s else opDone s r Code.ok

/-- R164: a move has nothing to do: its page does not rest in the other tier, and does not move. -/
def moveIdle (s : State) (m : Move) : Bool :=
  match (getPage s m.page).st with
  | .near _ => !m.toVat
  | .vat _ => m.toVat
  | .moving _ _ _ _ => false
  | _ => true

/-- R164: queued moves that have nothing to do are skipped. -/
def dropMoves : Nat → State → State
  | 0, s => s
  | n + 1, s =>
    match s.tiers.moves.find? fun m => !m.started && m.job == s.jobc.id && moveHead s m && moveIdle s m with
    | none => s
    | some m => dropMoves n (moveOpDone { s with tiers := { s.tiers with moves := s.tiers.moves.erase m } } m.forOp)

/-- Every queued move that can start does, in order. -/
def kickMoves (s : State) : State :=
  let s := if jobRuns s then dropMoves s.tiers.moves.length s else s
  (List.range s.tiers.moves.length).foldl startMove s

/-- The bytes of one frame copied to another, from zero. -/
def copyFrame (s : State) (sv : Bool) (sf : Nat) (dv : Bool) (df : Nat) : State :=
  let src := (if sv then s.tiers.vat else s.tiers.near).filter fun p =>
    decide (sf * pageBytes ≤ p.1) && decide (p.1 < (sf + 1) * pageBytes)
  let put := fun (m : Bytes) => src.foldl (fun m p => Mem.write m (p.1 - sf * pageBytes + df * pageBytes) p.2)
    (Mem.zero m (df * pageBytes) pageBytes)
  if dv then { s with tiers := { s.tiers with vat := put s.tiers.vat } }
  else { s with tiers := { s.tiers with near := put s.tiers.near } }

/-- R398: poisoned words of a frame move with it: a Vat granule is four near words. -/
def movePoison (s : State) (sv : Bool) (sf : Nat) (dv : Bool) (df : Nat) : State :=
  let words := (List.range 32768).filter fun w => tierBad s sv (sf * pageBytes + 64 * w)
  if dv then
    let gs := (words.map fun w => df * 8192 + w / 4).eraseDups
    { s with tiers := { s.tiers with badVat := s.tiers.badVat ++ gs } }
  else { s with tiers := { s.tiers with badNear := s.tiers.badNear ++ words.map fun w => df * 32768 + w } }

/-- Whether anything of the tiers is poisoned. -/
def anyPoison (s : State) : Bool :=
  !s.tiers.badNear.isEmpty || !s.tiers.badVat.isEmpty || !s.tiers.lostSlots.isEmpty || s.ras.failedStacks != 0

/-- R182: the first uncorrectable word of a move's source. -/
def moveBad (s : State) (sv : Bool) (sf : Nat) : Option Nat :=
  if anyPoison s then (List.range 32768).find? fun w => tierBad s sv (sf * pageBytes + 64 * w) else none

/-- R182: an uncorrectable word that a move reads is a fault of the page's job; the record carries the schedule entry of a scheduled
move, INDEX 0 of a page operation's (log entry 98), and the device address. -/
def moveFault (s : State) (m : Move) (sv : Bool) (sf : Nat) : State :=
  match moveBad s sv sf with
  | none => s
  | some w => ownerFault (noteStr s Code.tierUncorrectable m.sched.isSome (m.sched.getD 0) 0 (m.page * pageBytes + 64 * w)) m.job
      Code.tierUncorrectable

/-- R161, R167, R182: a move's last chunk is copied: the page switches, the source frame is freed, and queued moves may start. -/
def pageMoveComplete (s : State) (page : Nat) : State :=
  match (getPage s page).st with
  | .moving sv sf dv df =>
    match s.tiers.moves.find? fun m => m.page == page && m.started with
    | none => s
    | some m =>
      let t := copyFrame (moveFault (cacheDrop s page) m sv sf) sv sf dv df
      let t := if anyPoison s then movePoison t sv sf dv df else t
      let t := setPage t page { getPage s page with st := if dv then .vat df else .near df }
      let t := freeFrame t sv sf
      let t := { t with tiers := { t.tiers with moves := t.tiers.moves.erase m } }
      let t := { t with job := { t.job with sched := { t.job.sched with moves := t.job.sched.moves + 1 } } }
      kickMoves (moveOpDone t m.forOp)
  | _ => s

/-- R163: a frame's zeroing ends. -/
def frameZeroDone (s : State) (vat : Bool) (f : Nat) : State :=
  if frameSt s vat f = .zeroing then
    let s := setFrame s vat f .free
    let s := if vat && !s.boot.vatZeroed && !s.boot.vatEarly.contains f && decide (f < vatFrames) then
      { s with boot := { s.boot with vatEarly := s.boot.vatEarly ++ [f] } } else s
    let t := cure s.tiers vat (f * pageBytes) pageBytes
    let s := if vat then { s with tiers := { t with vat := Mem.zero t.vat (f * pageBytes) pageBytes } }
      else { s with tiers := { t with near := Mem.zero t.near (f * pageBytes) pageBytes } }
    kickMoves s
  else s

/-- Data bytes of a stripe, R187. -/
def stripeData : Nat := 393216

/-- Whether the stripe at place `p` of an image holds any of `n` bytes from `off`. -/
def stripeHolds (p off n : Nat) : Bool := decide (off < (p + 1) * stripeData) && decide (p * stripeData < off + n)

/-- R208: the stripe at place `p` of a SPILL image holds bytes of a backed page, or its 32 entries of a chunk table (R198). -/
def backNeeds (zword : Bool) (k : Backing) (p : Nat) : Bool := stripeHolds p k.off k.len || (zword && stripeHolds p k.table 128)

/-- R208, R209, R210: a page's backing is freed, and the stripes that no page of its image needs any longer. A backing is the
directory slot plus 16384 times the page's place in the image. -/
def freeBacking (s : State) (b : Nat) : State :=
  let slot := b % 16384
  let e := Tbl.get {} s.sep.dir slot
  let left := e.backed.filter fun k => k.index != b / 16384
  let need := fun (p : Nat) => left.any fun k => backNeeds e.zword k p
  let gone := e.stripes.filter fun x => !need x.1
  let e' := { e with backed := left, stripes := e.stripes.filter fun x => need x.1 }
  { s with sep := { s.sep with
      stripes := s.sep.stripes.filter fun x => !(gone.any fun g => g.2 == x.1)
      dir := if left.isEmpty then Tbl.erase s.sep.dir slot else Tbl.insert s.sep.dir slot e' } }

/-- R164, R167: a page leaves the map: its move is abandoned, its frames are freed, its lines are invalidated. -/
def unmapPage (s : State) (p : Nat) : State :=
  let e := getPage s p
  let s := match e.st with
    | .near f => freeFrame s false f
    | .vat f => freeFrame s true f
    | .moving sv sf dv df => freeFrame (freeFrame s sv sf) dv df
    | .absent (some b) => freeBacking s b
    | _ => s
  let gone := s.tiers.moves.filter fun m => m.page == p
  let s := { s with tiers := { s.tiers with moves := s.tiers.moves.filter fun m => m.page != p } }
  gone.foldl (fun s m => moveOpDone s m.forOp) (setPage (cacheDrop s p) p {})

/-- A page mapped into a zeroed frame of a tier, or ABSENT; none where no frame is free. -/
def mapPage (s : State) (p tier job : Nat) (aside : Bool) : Option State :=
  if tier = 2 then some (setPage s p ⟨.absent none, job, aside⟩)
  else (takeFrame s (tier == 1) p).map fun f =>
    setPage f.2 p ⟨if tier = 1 then .vat f.1 else .near f.1, job, aside⟩

/-- A run of pages mapped; none where frames do not suffice. -/
def mapRun (s : State) : Nat → Nat → Nat → Nat → Bool → Option State
  | _, 0, _, _, _ => some s
  | p, n + 1, tier, job, aside =>
    match mapPage s p tier job aside with
    | none => none
    | some t => mapRun t (p + 1) n tier job aside

/-- R163: the free frames that a MAP needs. -/
def mapFits (s : State) (tier n : Nat) : Bool :=
  if tier = 0 then decide (n ≤ nearFree s) else if tier = 1 then decide (n ≤ vatFree s) else true

/-- R330: an accepted MAP completes once zeroed frames are free for all its pages. -/
def mapComplete (s : State) (c : Nat) (ticket : BitVec 16) : State :=
  match s.tiers.maps.find? fun m => m.op.ctx == c && m.op.ticket == ticket with
  | none => s
  | some m =>
    if !mapFits s m.tier m.count then s
    else match mapRun s m.first m.count m.tier m.job false with
      | none => s
      | some t => opDone { t with tiers := { t.tiers with maps := t.tiers.maps.erase m } } m.op Code.ok

def execMapComplete (c : Ctx) (ticket : BitVec 16) (s : State) : Host.Outcome State Fault Refusal :=
  .next (mapComplete s c ticket)

/-! ### The schedule, R178 to R181 -/

/-- A schedule entry, Table 8.5. -/
structure SchedEnt where
  beat : Nat
  action : Nat
  base : Nat
  page : Nat
  pages : Nat
  deadline : Nat

def schedEnt (sec : List Byte) (k : Nat) : SchedEnt :=
  let w := leAt sec (16 + 16 * k) 16
  ⟨bits w 0 16, bits w 16 2, bits w 18 4, bits w 32 32, bits w 64 16, bits w 80 16⟩

def schedTimer (sec : List Byte) : Nat := bits (leAt sec 0 16) 0 3
def schedEnable (sec : List Byte) : Bool := bit (leAt sec 0 16) 3
def schedPeriod (sec : List Byte) : Nat := bits (leAt sec 0 16) 16 16
def schedCount (sec : List Byte) : Nat := (sec.length - 16) / 16

def setSched (s : State) (v : Sched) : State := { s with job := { s.job with sched := v } }

/-- Whether a page rests in a tier. -/
def inTier (vat : Bool) : PState → Bool
  | .near _ => !vat
  | .vat _ => vat
  | _ => false

/-- R184: the next entry to issue after `n` beats: the first of the earliest beat that has one. -/
def schedNext (sec : List Byte) (n : Nat) : Nat :=
  let p := schedPeriod sec
  let far := fun k => ((schedEnt sec k).beat + p - n % p) % p
  let ks := (List.range (schedCount sec)).filter fun k => (schedEnt sec k).beat != 0xFFFF
  (ks.foldl (fun best k => match best with
    | none => some k
    | some b => if far k < far b then some k else best) none).getD 0

/-- R179: one page of an issued entry; a page that is not yet in its target state is due by the entry's DEADLINE. -/
def issuePage (s : State) (k : Nat) (e : SchedEnt) (p : Nat) : State :=
  if s.jobc.st != 1 then s
  else
    let vat := e.action == 1
    let fault := fun (s : State) code => raiseJobFault (noteStr s code true k 0 (p % 2 ^ 27 * pageBytes)) code
    if 2 ^ 27 ≤ p then fault s Code.unmappedAddress
    else match (getPage s p).st with
      | .unmapped => fault s Code.unmappedAddress
      | .absent _ => setSched s { s.job.sched with skipped := s.job.sched.skipped + 1 }
      | st =>
        if inTier vat st then s
        else
          let s := if e.deadline = 0 then s
            else setSched s { s.job.sched with due := s.job.sched.due ++ [⟨k, p, vat, s.job.sched.count + e.deadline⟩] }
          if towards vat st then s
          else if !holdsTier vat st && !queuedTo s p vat && overReserved s vat 1 then fault s Code.reservationExceeded
          else { s with tiers := { s.tiers with moves := s.tiers.moves ++ [⟨p, vat, s.jobc.id, false, none, some k⟩] } }

/-- R179: an entry issues: its pages are queued in ascending order. -/
def issueEntry (s : State) (k : Nat) : State :=
  let e := schedEnt s.job.churn.tables.sched k
  (List.range e.pages).foldl (fun s i => issuePage s k e (nth 0 s.job.sbase e.base + e.page + i)) s

/-- R179: the entries with BEAT = b issue in entry order. -/
def issueBeat (s : State) (b : Nat) : State :=
  let sec := s.job.churn.tables.sched
  let s := ((List.range (schedCount sec)).filter fun k => (schedEnt sec k).beat == b).foldl issueEntry s
  kickMoves (setSched s { s.job.sched with entry := schedNext sec s.job.sched.count })

/-- R179: the schedule starts: the START entries issue. -/
def schedStart (s : State) : State :=
  let sec := s.job.churn.tables.sched
  if sec.isEmpty || !schedEnable sec then setSched s { s.job.sched with running := false, count := 0, entry := 0, due := [] }
  else issueBeat (setSched s { s.job.sched with running := true, count := 0, entry := 0, due := [] }) 0xFFFF

/-- R179: the named timer begins a beat; the pages due by now that are in their target state are no longer due. -/
def schedBeat (s : State) (t : Nat) : State :=
  let sec := s.job.churn.tables.sched
  if s.job.sched.running && schedTimer sec == t then
    let n := s.job.sched.count
    let due := s.job.sched.due.filter fun d => decide (n + 1 < d.before) || !inTier d.vat (getPage s d.page).st
    issueBeat (setSched s { s.job.sched with count := n + 1, due := due }) (n % schedPeriod sec)
  else s

/-- R33, R179, R181: BEAT_BEGIN: a beat that is replayed issues no schedule entry. -/
def beatStart (s : State) (t : Nat) : State :=
  if (getTimer s t).running then s
  else
    let s' := beatBegin s t
    if (getTimer s' t).running && !(getTimer s' t).replay then schedBeat s' t else s'

def execBeatBegin (t : Fin 8) (s : State) : Host.Outcome State Fault Refusal := .next (beatStart s t)

/-- R179: PREFETCH_LATE: each page of an entry that was not in its target state when its DEADLINE-th beat began is recorded. -/
def prefetchLate (s : State) (k : Nat) : State :=
  let isLate := fun (d : Due) => d.entry == k && decide (d.before ≤ s.job.sched.count)
  let l := s.job.sched.due.filter isLate
  if !jobRuns s then s
  else
    let s := setSched s { s.job.sched with due := s.job.sched.due.filter (!isLate ·), late := s.job.sched.late + l.length }
    l.foldl (fun s d => noteStr s Code.prefetchLate true k 0 (d.page * pageBytes)) s

def execPrefetchLate (k : Fin 8192) (s : State) : Host.Outcome State Fault Refusal := .next (prefetchLate s k)

/-- R182: an uncorrectable error on a tier read: a precise fault of the job. -/
def tierUncorrectable (s : State) (sched : Bool) (index addr : Nat) : State :=
  if jobRuns s then raiseJobFault (noteStr s Code.tierUncorrectable sched (index % 8192) 0 addr) Code.tierUncorrectable else s

def execTierUncorrectable (sched : Bool) (index : Nat) (addr : BitVec 48) (s : State) : Host.Outcome State Fault Refusal :=
  .next (tierUncorrectable s sched index addr.toNat)

end Sys2Proof.Machine
end

