-- ==== Sys2Proof/Machine/Streams.lean ====
section
/-! DEFINITION. The stream engines (file 08): descriptors, the shared read caches, transfers, halts and re-arms. -/

namespace Sys2Proof.Machine

/-- A stream descriptor, Table 8.3; a count of 0 means 65,536. -/
structure StrRec where
  enable : Bool
  persist : Bool
  cache : Nat
  region : Nat
  auto : Bool
  event : Bool
  off : Nat
  addr : Nat
  words : Nat
  count1 : Nat
  count2 : Nat
  stride1 : Int
  stride2 : Int

def strRec (bs : List Byte) : StrRec :=
  let w := leAt bs 0 64
  let cnt := fun lo => if bits w lo 16 = 0 then 65536 else bits w lo 16
  { enable := bit w 0, persist := bit w 1, cache := bits w 2 2, region := bits w 4 3, auto := bit w 7, event := bit w 8,
    off := bits w 16 21, addr := bits w 64 48, words := bits w 128 15, count1 := cnt 160, count2 := cnt 176,
    stride1 := sgn 40 (bits w 192 40), stride2 := sgn 40 (bits w 232 40) }

/-- The descriptor in force at index `d`, R169: slot `d mod 2` of the engine of cell `d div 4`, outbound when bit 1 is set. -/
def strDesc (s : State) (d : Nat) : StrRec := strRec (Tbl.get [] s.job.churn.tables.streams d)
def strCell (d : Nat) : Nat := d / 4
def strOut (d : Nat) : Bool := d / 2 % 2 == 1

def getStr (s : State) (d : Nat) : Stream := Tbl.get {} s.job.streams d
def setStr (s : State) (d : Nat) (v : Stream) : State :=
  { s with job := { s.job with streams := Tbl.set {} s.job.streams d v } }

/-- R170: the words of a transfer. -/
def strTotal (r : StrRec) : Nat := r.count2 * r.count1 * r.words

/-- R170: the device address of word `k`. -/
def strAddr (r : StrRec) (addr k : Nat) : Int :=
  let run := k / r.words
  (addr : Int) + (run % r.count1 : Nat) * r.stride1 + (run / r.count1 : Nat) * r.stride2 + 64 * (k % r.words : Nat)

/-- R92, R99: the MU address of word `k`: inbound in the fill half, outbound in the drain half of a DOUBLE region. -/
def strMu (s : State) (d k : Nat) : Nat :=
  let c := strCell d
  let r := strDesc s d
  let g := region (getRec s c).mu r.region
  let fill := beatHalf (getCell s c).mu r.region
  regionBase g (g.double && (if strOut d then !fill else fill)) + (getStr s d).off + 64 * k

/-- R170: whether word `k` lies in the region or its half. -/
def strInside (s : State) (d k : Nat) : Bool :=
  let r := strDesc s d
  decide ((getStr s d).off + 64 * (k + 1) ≤ regionSize (region (getRec s (strCell d)).mu r.region))

/-- What a transfer meets at word `k`. -/
inductive Meet where
  | word | absent | unmapped | outside | bad | badMu
  deriving DecidableEq, Repr

def strMeet (s : State) (d k : Nat) : Meet :=
  let a := strAddr (strDesc s d) (getStr s d).addr k
  if strInside s d k = false then .outside
  else if a < 0 then .unmapped
  else match addrState s a.toNat with
    | .unmapped => .unmapped
    | .absent _ => .absent
    | _ =>
      match devLoc s a.toNat with
      | none => .unmapped
      | some l =>
        let m := strMu s d k
        if strOut d then (if (muBad (bankSettle s (strCell d) m 64) (strCell d) m 64).isSome then .badMu else .word)
        else if tierBad s l.1 l.2 then .bad else .word

/-- The first word from `k` upwards, of `n`, that cannot be moved; `k + n` where all can. -/
def strStop (s : State) (d : Nat) : Nat → Nat → Nat
  | k, 0 => k
  | k, n + 1 => if strMeet s d k = .word then strStop s d (k + 1) n else k

/-- R167, R168: the inbound read of the line of a device address through the die's cache; `fresh`: by a cell that has committed in the
wave under way. -/
def cacheRead (s : State) (die mode a pinWays : Nat) (fresh : Bool) : State :=
  let line := a / 256
  let t := nth [] s.tiers.cache die
  let set := Tbl.get [] t (line % 12288)
  let put := fun (s : State) (l : List CacheLine) =>
    { s with tiers := { s.tiers with cache := s.tiers.cache.set die (Tbl.set [] t (line % 12288) l) } }
  match set.find? fun c => c.line == line with
  | some c =>
    let c := if mode = 2 ∧ (set.filter CacheLine.pinned).length < pinWays then { c with pinned := true } else c
    let c := { c with fresh := c.fresh || (mode == 2 && c.pinned && fresh) }
    put { s with tiers := { s.tiers with hits := upd s.tiers.hits die (· + 1) } } (c :: set.filter fun k => k.line != line)
  | none =>
    let s := { s with tiers := { s.tiers with misses := upd s.tiers.misses die (· + 1) } }
    let full := decide (pinWays ≤ (set.filter CacheLine.pinned).length)
    if mode = 0 then s
    else
      let s := if mode = 2 ∧ full then { s with tiers := { s.tiers with pinSpill := upd s.tiers.pinSpill die (· + 1) } } else s
      let pin := mode == 2 && !full
      let keep := if set.length < 16 then set
        else match set.reverse.find? fun c => !c.pinned with
          | none => set.dropLast
          | some v => set.filter fun c => c.line != v.line
      put s (⟨line, pin, pin && fresh⟩ :: keep)

/-- PIN_WAYS of a die: the configuration's STREAMS header, kept at index 2048 of the table. -/
def pinWays (s : State) (die : Nat) : Nat := bits (leAt (Tbl.get [] s.job.churn.tables.streams 2048) 0 1) (4 * die) 4

/-- One word moved. -/
def strWord (s : State) (d k : Nat) : State :=
  let c := strCell d
  let r := strDesc s d
  let a := (strAddr r (getStr s d).addr k).toNat
  if strOut d then
    let v := muGet (bankSettle s c (strMu s d k) 64) c (strMu s d k) 64
    devWrite v.2 a v.1
  else
    let w := s.job.churn.wave
    let s := if a % 256 = 0 ∨ k % r.words = 0 then
      cacheRead s (dieOf c) r.cache a (pinWays s (dieOf c)) (w.active && w.committed.contains c) else s
    muPut s c (strMu s d k) (devRead s a 64) true

/-- Words `k` to `k + n - 1` moved. -/
def strWords (s : State) (d : Nat) : Nat → Nat → State
  | _, 0 => s
  | k, n + 1 => strWords (strWord s d k) d (k + 1) n

/-- R175, R170, R182, R90: the fault that a transfer raises at word `k`. -/
def strFault (s : State) (d k : Nat) : State :=
  let a := (strAddr (strDesc s d) (getStr s d).addr k).toNat % 2 ^ 48
  let s := setStr s d { getStr s d with pos := k }
  match strMeet s d k with
  | .outside => muFault s (strCell d) Code.addrOutOfRegion (strMu s d k)
  | .bad => raiseJobFault (noteStr s Code.tierUncorrectable false d (64 * k % 2 ^ 21) a) Code.tierUncorrectable
  | .unmapped => raiseJobFault (noteStr s Code.unmappedAddress false d (64 * k % 2 ^ 21) a) Code.unmappedAddress
  | .badMu => muBadWord s (strCell d) (strMu s d k) true
  | _ => s

/-- R150, R181: the descriptor changes in the wave under way, and its cell's wait is met: it starts no new transfer, and its shadow is
not taken. -/
def strHeld (s : State) (d : Nat) : Bool :=
  s.job.churn.wave.active && s.job.churn.wave.met.contains (strCell d) &&
    Tbl.get [] s.job.churn.shadow.tables.streams d != Tbl.get [] s.job.churn.tables.streams d

/-- R174: whether the descriptor's engine and region can take its transfer. -/
def strCanStart (s : State) (d : Nat) : Bool :=
  let x := getStr s d
  let r := strDesc s d
  let g := region (getRec s (strCell d)).mu r.region
  let y := (getStr s (d / 2 * 2 + (1 - d % 2))).st
  jobRuns s && r.enable && x.st == 1 && y != 2 && y != 3 && !(g.double && x.ran) && !strHeld s d

/-- R174: of two slots that can start, the one that could first; on a tie slot 0. -/
def strTurn (s : State) (d : Nat) : Bool :=
  let o := d / 2 * 2 + (1 - d % 2)
  !strCanStart s o || decide ((getStr s d).ready < (getStr s o).ready) ||
    ((getStr s d).ready == (getStr s o).ready && d % 2 == 0)

/-- R174, R175: a transfer starts. -/
def strStart (s : State) (d : Nat) : State :=
  if strCanStart s d && strTurn s d then
    let s := setStr s d { getStr s d with st := 2, pos := 0, quiet := false, ran := true }
    match strMeet s d 0 with
    | .word => s
    | .absent => s
    | _ => strFault s d 0
  else s

def execStreamTransferStart (d : Desc) (s : State) : Host.Outcome State Fault Refusal := .next (strStart s d)

/-- R172, R173: an arm or re-arm takes effect. -/
def strArmed (now : Nat) (v : Nat × Nat) (x : Stream) : Stream :=
  { x with st := 1, pos := 0, addr := v.1, off := v.2, took := x.took ++ [v], ready := now }

/-- R172: what a descriptor becomes when its transfer completes; after a replay the arms that had taken effect are repeated first
(R181). With `held` its shadow waits for the commit that discards it (R181). -/
def strDone (now : Nat) (held : Bool) (r : StrRec) (x : Stream) : Stream :=
  match x.again with
  | v :: rest => strArmed now v { x with again := rest }
  | [] =>
    if !r.persist then { x with st := 4, pos := 0 }
    else match x.shadow with
      | none => { x with st := 0, pos := 0 }
      | some v => if held then { x with st := 0, pos := 0 } else strArmed now v { x with shadow := none }

/-- R170, R172: a running transfer moves all that is left and completes; a fault on the way stops it; a page that is ABSENT
leaves it running. The first component says whether it completed. -/
def strComplete (s : State) (d : Nat) : Bool × State :=
  let x := getStr s d
  let r := strDesc s d
  if !jobRuns s || x.st != 2 then (false, s)
  else
    let k := strStop s d x.pos (strTotal r - x.pos)
    if k < strTotal r then
      if strMeet s d k = .absent then (false, s) else (false, strFault (strWords s d x.pos (k - x.pos)) d k)
    else
      let s := strWords s d x.pos (k - x.pos)
      let s := setStr s d (strDone s.now (strHeld s d) r (getStr s d))
      (true, if r.event then raiseAll s jobCtxs 0 (evRecord Code.ok 0 d) else s)

/-- R175: a stream reaches an ABSENT page: the words before it are committed, and it halts. -/
def strHalt (s : State) (d : Nat) : State :=
  let x := getStr s d
  let r := strDesc s d
  if !jobRuns s || x.st != 2 then s
  else
    let k := strStop s d x.pos (strTotal r - x.pos)
    if k < strTotal r ∧ strMeet s d k = .absent then
      let a := (strAddr r x.addr k).toNat
      let s := strWords s d x.pos (k - x.pos)
      let again := x.quiet && k == x.pos
      let s := setStr s d { getStr s d with st := 3, pos := k, quiet := false }
      if again then s
      else raiseAll (noteStr s Code.streamHaltedAbsent false d (64 * k % 2 ^ 21) a) jobCtxs 0
        (evRecord Code.streamHaltedAbsent 0 d)
    else s

def execStreamHaltedAbsent (d : Desc) (s : State) : Host.Outcome State Fault Refusal := .next (strHalt s d)

/-- R173: a re-arm with its new ADDR and MU_OFFSET: the status of the operation, and the state. -/
def strRearm (s : State) (d addr : Nat) (off : Option Nat) : Status × State :=
  let x := getStr s d
  let r := strDesc s d
  if !r.enable || !r.persist || addr % 64 != 0 || (off.getD 0) % 64 != 0 || decide (2 ^ 48 ≤ addr) ||
     decide (2 ^ 21 ≤ off.getD 0) then (Code.badArgument, s)
  else
    let o := off.getD x.off
    if x.st = 0 then (Code.ok, setStr s d (strArmed s.now (addr, o) x))
    else match x.shadow with
      | none => (Code.ok, setStr s d { x with shadow := some (addr, o) })
      | some _ =>
        (Code.ok, raiseJobFault (noteStr s Code.rearmOverflow false d (64 * x.pos % 2 ^ 21) x.addr) Code.rearmOverflow)

/-- R172: an arm operation. -/
def strArm (s : State) (d : Nat) : Status × State :=
  let x := getStr s d
  if !(strDesc s d).enable then (Code.badArgument, s)
  else if x.st = 0 ∨ x.st = 4 then (Code.ok, setStr s d (strArmed s.now (x.addr, x.off) x))
  else (Code.busy, s)

/-- R175: a resume operation; an unmapped page faults, a page still ABSENT halts again without further status. -/
def strResume (s : State) (d : Nat) : Status × State :=
  let x := getStr s d
  if x.st != 3 then (Code.badArgument, s)
  else
    match strMeet s d x.pos with
    | .absent => (Code.ok, s)
    | .word => (Code.ok, setStr s d { x with st := 2, quiet := true })
    | _ => (Code.ok, strFault (setStr s d { x with st := 2 }) d x.pos)

/-- R101, R174: the stream engines let region `i` of a cell flip. -/
def strFlipReady (s : State) (c i : Nat) : Bool :=
  (List.range 4).all fun k =>
    let d := 4 * c + k
    let x := getStr s d
    !((strDesc s d).enable && (strDesc s d).region == i && (x.st == 2 || x.st == 3))

/-- R174: after a flip the descriptors of a region may run again. -/
def strFlipped (s : State) (c i : Nat) : State :=
  (List.range 4).foldl (fun s k =>
    let d := 4 * c + k
    let x := getStr s d
    if (strDesc s d).enable && (strDesc s d).region == i && x.ran then
      setStr s d { x with ran := false, ready := s.now } else s) s

/-- R172, R181: a descriptor takes effect at a cell's commit. -/
def strTakeEffect (now : Nat) (bs : List Byte) : Stream :=
  let r := strRec bs
  if r.enable then { st := if r.auto then 1 else 0, addr := r.addr, off := r.off, ready := now } else {}

end Sys2Proof.Machine
end

