-- ==== Sys2Proof/Machine/Reqs.lean ====
section
/-! DEFINITION. Requests: the fields of a descriptor (R218), and how a request ends (R225, R229, R254). -/

namespace Sys2Proof.Machine

def getSvc (s : State) (v : Nat) : Service := nth {} s.adm.svcs v
def setSvc (s : State) (v : Nat) (x : Service) : State := { s with adm := { s.adm with svcs := s.adm.svcs.set v x } }

/-- The request in slot `k` of service `v`. -/
def reqAt (s : State) (v k : Nat) : Option Req := s.adm.reqs.find? fun r => r.svc == v && r.slot == k

/-- The request in a slot changed. -/
def modReq (s : State) (v k : Nat) (f : Req → Req) : State :=
  { s with adm := { s.adm with reqs := s.adm.reqs.map fun r => if r.svc == v && r.slot == k then f r else r } }

/-! ### Descriptor fields, Table 10.1 -/

def dNat (d : List Byte) : Nat := leNat (d.take 64)
def dTag (d : List Byte) : Nat := bits (dNat d) 0 64
def dSvc (d : List Byte) : Nat := bits (dNat d) 64 4
def dClass (d : List Byte) : Nat := bits (dNat d) 68 2
def dQueue (d : List Byte) : Bool := bit (dNat d) 70
def dCont (d : List Byte) : Bool := bit (dNat d) 71
def dAdpValid (d : List Byte) : Bool := bit (dNat d) 72
def dAdp (d : List Byte) : Nat := bits (dNat d) 73 12
def dSeq (d : List Byte) : Nat := bits (dNat d) 85 12
def dPrompt (d : List Byte) : Nat := bits (dNat d) 128 24
def dMaxNew (d : List Byte) : Nat := bits (dNat d) 152 24
def dTtft (d : List Byte) : Nat := bits (dNat d) 192 32
def dInterval (d : List Byte) : Nat := bits (dNat d) 224 32
def dPromptAddr (d : List Byte) : Nat := bits (dNat d) 256 48
def dOut (d : List Byte) : Nat := bits (dNat d) 320 48
def dSampling (d : List Byte) : Nat := bits (dNat d) 384 48

def Req.tag (r : Req) : Word := BitVec.ofNat 64 (dTag r.desc)
def Req.tensor (r : Req) : Bool := dClass r.desc == 1

/-! ### Service registers, Table 10.6 -/

def Service.wset (x : Service) : Nat := bits x.cfg.toNat 0 4
def Service.tier (x : Service) : Nat := bits x.cfg.toNat 4 1
def Service.slots (x : Service) : Nat := bits x.cfg.toNat 5 7
def Service.beatPp (x : Service) : Nat := bits x.timing.toNat 0 15
def Service.roundBeats (x : Service) : Nat := bits x.timing.toNat 15 16
def Service.swapPp (x : Service) : Nat := bits x.timing.toNat 31 17
def Service.chunk (x : Service) : Nat := bits x.timing.toNat 48 16
def Service.kvBytes (x : Service) : Nat := bits x.kv.toNat 0 32
def Service.block (x : Service) : Nat := 16 * 2 ^ bits x.kv.toNat 32 2
def Service.spec (x : Service) : Nat := bits x.kv.toNat 34 7
/-- R214: the length of a round. -/
def Service.round (x : Service) : Nat := x.roundBeats * x.beatPp + x.swapPp
/-- R234: the bytes of a block. -/
def Service.blockBytes (x : Service) : Nat := x.block * x.kvBytes

/-! ### Sequence entries and pool blocks, R232, R236, R240 -/

def getSeq (s : State) (i : Nat) : SeqEnt := Tbl.get {} s.adm.seqs i
def setSeq (s : State) (i : Nat) (e : SeqEnt) : State := { s with adm := { s.adm with seqs := Tbl.set {} s.adm.seqs i e } }
def setAdm (s : State) (a : Adm) : State := { s with adm := a }

def findBlock (s : State) (job v i : Nat) : Option PBlock := s.adm.blocks.find? fun b => b.job == job && b.svc == v && b.idx == i

def modBlock (s : State) (job v i : Nat) (f : PBlock → PBlock) : State :=
  setAdm s { s.adm with blocks := s.adm.blocks.map fun b => if b.job == job && b.svc == v && b.idx == i then f b else b }

def dropBlock (s : State) (job v i : Nat) : State :=
  setAdm s { s.adm with blocks := s.adm.blocks.filter fun b => !(b.job == job && b.svc == v && b.idx == i) }

/-- R240: a pool block with no reference, no hash and no copy under way returns to the pool. -/
def settleBlock (s : State) (job v i : Nat) : State :=
  match findBlock s job v i with
  | none => s
  | some b => if b.refs = 0 ∧ b.hash = none ∧ !b.busy then dropBlock s job v i else s

def unrefBlock (s : State) (job v i : Nat) : State :=
  settleBlock (modBlock s job v i fun b => { b with refs := b.refs - 1 }) job v i

/-! ### Ending -/

/-- R221: the completion bound. -/
def Req.bound (r : Req) : Nat := r.ttft + (dMaxNew r.desc - 1) * r.interval

/-- R229: the mapping faults, which are faults of the job's own configuration. -/
def isMappingFault (c : Status) : Bool :=
  [Code.unroutedEntry, Code.exaSaturated, Code.steerTokenRange, Code.steerCountOverflow, Code.addrOutOfRegion,
   Code.windowNoCredit, Code.windowRange, Code.windowPartition, Code.flipInvalid, Code.creditReturnOverflow,
   Code.rearmOverflow, Code.unmappedAddress, Code.reservationExceeded, Code.unreachable, Code.addAlign].contains c

/-- R229: whether an ended request's service is lost. A promise that a thermal trip with cooling outside the rating broke is excluded,
and so is an end for the removal of another module (`removal`). -/
def isLost (r : Req) (outcome : Nat) (c : Status) (removal : Bool) : Bool :=
  (r.broken && !r.excused) ||
  (outcome == 5 && [2, 3, 4, 8, 10, 11].contains (c.toNat / 256) && !isMappingFault c && !removal)

/-- R254: a context's CANCEL learns how one request ended, and returns once none is left. -/
def cancelLearn (s : State) (out : Nat) (c : Nat) : State :=
  let x := getCtx s c
  match x.waits with
  | .cancel rd got =>
    let got := got || out == 3
    let left := s.adm.reqs.any fun r => r.ended.isNone && r.cancels.contains c
    if left then setCtx s c { x with waits := .cancel rd got }
    else setCtx s c { ctxPut x rd ((if got then Code.cancelled else Code.alreadyComplete).setWidth 64) with waits := .none, st := 1 }
  | _ => s

/-- R254: the slot's most recent completions. -/
def noteRecent (s : State) (n : Nat) (tag : Word) : State :=
  let h := getHost s n
  let l := h.recent ++ [tag]
  setHost s n { h with recent := l.drop (l.length - 1024) }

/-- R237, R255: whether a request still holds its sequence entry: an end FAULTED or REMOVED frees it at once. -/
def Req.holdsSeq (r : Req) : Bool :=
  match r.ended with
  | some o => o.1 == 2 || o.1 == 3
  | none => true

/-- Table 11.1: an entry becomes FREE: its references on pool blocks, and those of the kept copies, fall. -/
def freeSeq (s : State) (job v q : Nat) (kept : List Nat) : State :=
  setSeq (((getSeq s q).pool ++ kept).foldl (fun s i => unrefBlock s job v i) s) q {}

/-- R255: a request that ends REMOVED or FAULTED frees its entry at once, and any KEEP is ignored. -/
def dropSeq (s : State) (r : Req) (outcome : Nat) : State :=
  match r.seq with
  | none => s
  | some q => if outcome = 4 ∨ outcome = 5 then freeSeq s r.job r.svc q r.kept else s

/-- R222: the time by which a request's deadlines are judged: while its job is being saved or is saved, the start of the save. -/
def reqNow (s : State) (r : Req) : Nat :=
  if s.jobc.st = 3 ∧ s.jobc.id = r.job then s.jobc.began
  else match s.saved.find? fun k => k.ctl.id == r.job with
    | some k => k.time
    | none => s.now

/-- R225, R229, R254, R255: a request ends with OUTCOME 2 COMPLETED, 3 CANCELLED, 4 REMOVED or 5 FAULTED; its record follows. A deadline
that it has missed counts in LATE_PP up to its end. -/
def endReqFor (removal : Bool) (s : State) (v k outcome : Nat) (status : Status) : State :=
  match reqAt s v k with
  | none => s
  | some r =>
    if r.ended.isSome then s
    else
      let t := reqNow s r
      let s := modReq s v k fun r => { r with
        ended := some (outcome, status), endAt := s.now, cancels := [], rearms := [], issued := [], susp := r.susp + (s.now - t)
        late := if r.broken then max r.late (t - r.due) else r.late, kept := if outcome = 4 ∨ outcome = 5 then [] else r.kept }
      let s := dropSeq s r outcome
      let x := getSvc s v
      let s := if (outcome = 4 ∨ outcome = 5) ∧ x.inRound then setSvc s v { x with gone := x.gone ++ [k] } else s
      let s := if isLost r outcome status removal then { s with adm := { s.adm with lost := s.adm.lost + r.bound } } else s
      let s := noteRecent s r.host r.tag
      r.cancels.foldl (fun s c => cancelLearn s outcome c) s

def endReq (s : State) (v k outcome : Nat) (status : Status) : State := endReqFor false s v k outcome status

/-- A request of class 0x06 that ends FAULTED, with its CEL_EVENT record (R256). -/
def faultReq (s : State) (v k : Nat) (status : Status) : State :=
  match reqAt s v k with
  | none => s
  | some r => if r.ended.isSome then s else endReq (noteCel s status (r.seq.getD 0) v k) v k 5 status

/-- R181, R242: a wave has discarded the pending re-arm of descriptor `d`: the Cellar issues it again. -/
def requeueRearm (s : State) (d : Nat) : State :=
  { s with adm := { s.adm with reqs := s.adm.reqs.map fun r =>
      if r.job == s.jobc.id then
        let back := (r.issued.filter fun x => x.1 == d).map fun x => (x.2.1, x.2.2)
        { r with rearms := back ++ r.rearms, issued := r.issued.filter fun x => x.1 != d }
      else r } }

end Sys2Proof.Machine
end

