-- ==== Sys2Proof/Machine/Store.lean ====
section
/-! DEFINITION. The store and the Separator (file 09): stripes, rebuild and loss, images, and the commands. -/

namespace Sys2Proof.Machine

/-! ### Stripes, R187 to R191 -/

def storeStripes : Nat := 134217728
def shardBytes : Nat := 65536

def setSep (s : State) (x : Sep) : State := { s with sep := x }

/-- R188: the weight of data shard `j` in Q. -/
def qWeight (j : Nat) : Byte := gpow 2 j

/-- R188: P and Q of six data shards. -/
def parityP (ds : List (List Byte)) : List Byte := ds.foldl xorBytes (List.replicate shardBytes 0)
def parityQ (ds : List (List Byte)) : List Byte :=
  (ds.zipIdx.map fun d => d.1.map (gmul (qWeight d.2))).foldl xorBytes (List.replicate shardBytes 0)

/-- R190: the digest in a shard's tag. -/
def shardDigest (d : List Byte) : List Byte := (sha256 d).take 16

/-- R187: the channel on which shard `j` of stripe `n` lies. -/
def shardChannel (n j : Nat) : Nat := (j + n) % 8

/-- R190: shard `j` of stripe `n` is missing: it does not read, its tag names another place, or its digest disagrees with its tag. -/
def isMissing (n : Nat) (x : Stripe) (j : Nat) : Bool :=
  let d := nth [] x.shards j
  let t := nth {} x.tags j
  d.isEmpty || t.stripe != n || t.shard != j || t.dir != x.dir || shardDigest d != t.digest

/-- R190, R191: the missing shards of stripe `n`. -/
def missingOf (n : Nat) (x : Stripe) : List Nat := (List.range 8).filter (isMissing n x)

/-- R190: what the NAND reports of stripes that are read: shards that are gone, and bit errors corrected, which are counted for their
channels. -/
def nandRead (s : State) (r : ShardRead) : State :=
  let n := r.stripe.val
  let corr := r.corrected.zipIdx.foldl (fun c e => upd c (shardChannel n e.2) (· + e.1)) s.sep.corr
  let x := Tbl.get {} s.sep.stripes n
  let sh := x.shards.zipIdx.map fun d => if r.missing.getLsbD d.2 then [] else d.1
  let stripes := if s.sep.stripes.any (fun y => y.1 == n) then Tbl.insert s.sep.stripes n { x with shards := sh } else s.sep.stripes
  setSep s { s.sep with corr := corr, stripes := stripes }

def nandReads (s : State) (n : Nand) : State := n.reads.foldl nandRead s

/-- R186, R192: wear grows and spare blocks are used as channels are written. -/
def nandWorn (s : State) (n : Nand) : State :=
  n.wears.foldl (fun s w => setSep s { s.sep with
    wear := upd s.sep.wear w.chan (max w.wear.toNat), spare := upd s.sep.spare w.chan (min w.spare.val) }) s

/-- R188, R191: the six data shards from those that are not of `miss`, which holds at most two. -/
def rebuildData (x : Stripe) (miss : List Nat) : List (List Byte) :=
  let zero := List.replicate shardBytes (0 : Byte)
  let d := (List.range 6).map fun j => if miss.contains j then zero else nth [] x.shards j
  let p := xorBytes (parityP d) (nth [] x.shards 6)
  let q := xorBytes (parityQ d) (nth [] x.shards 7)
  match miss.filter (· < 6) with
  | [i] =>
    let v := if miss.contains 6 then q.map (gmul (ginv (qWeight i))) else p
    d.set i v
  | [i, j] =>
    let k := ginv (qWeight i ^^^ qWeight j)
    let vi := List.zipWith (fun a b => gmul k (gmul (qWeight j) a ^^^ b)) p q
    (d.set i vi).set j (xorBytes p vi)
  | _ => d

/-- R191: the eight shards with those of `miss` rebuilt. -/
def rebuilt (x : Stripe) (miss : List Nat) : List (List Byte) :=
  let d := rebuildData x miss
  d ++ [parityP d, parityQ d]

/-- R191: one or two shards missing and every rebuilt shard agrees with its tag. -/
def canRebuild (x : Stripe) (miss : List Nat) : Bool :=
  decide (miss.length ≤ 2) && !x.lost && miss.all fun j => shardDigest (nth [] (rebuilt x miss) j) == (nth {} x.tags j).digest

/-- R190: a stripe as written: its shards with their tags. -/
def stripeOf (n dir seq : Nat) (sh : List (List Byte)) : Stripe :=
  { shards := sh, tags := sh.zipIdx.map fun d => ⟨shardDigest d.1, n, d.2, dir, seq⟩, dir := dir, seq := seq }

/-- The bits of a list of shard numbers. -/
def shardMask (js : List Nat) : Nat := (js.map (2 ^ ·)).foldl (· + ·) 0

def sepCmdOp (s : State) : Nat :=
  match s.sep.urgent.find? SepCmd.running with
  | some c => c.op
  | none => ((s.sep.bulk.find? SepCmd.running).map SepCmd.op).getD 0

/-- R189, R191: a stripe is read: its data shards joined, rebuilt and rewritten where one or two shards are missing; none where it is
lost. A read takes the data shards, and the parity where one of them is missing; the scrub takes `all`. `op` is the OP of the command
that reads. -/
def readStripe (s : State) (op n : Nat) (id : Word) (all : Bool := false) : Option (List Byte) × State :=
  let x := Tbl.get {} s.sep.stripes n
  let gone := missingOf n x
  let miss := if all || gone.any (· < 6) then gone else []
  if miss.isEmpty then (some (x.shards.take 6).flatten, s)
  else if canRebuild x miss then
    let y := stripeOf n x.dir s.sep.writes (rebuilt x miss)
    let s := setSep s { s.sep with
      stripes := Tbl.insert s.sep.stripes n y, writes := s.sep.writes + 1, rebuilt := s.sep.rebuilt + 1 }
    (some (y.shards.take 6).flatten, noteSep s Code.shardRebuilt op n (shardMask miss) id)
  else
    let s := setSep s { s.sep with
      stripes := Tbl.insert s.sep.stripes n { x with lost := true }
      lost := s.sep.lost + (if x.lost then 0 else 1) }
    (none, noteSep s Code.stripeLost op n (shardMask miss) id)

/-- R187, R190: data of one stripe written to a free stripe that the module chooses. -/
def writeStripe (s : State) (dir : Nat) (data : List Byte) : Nat × State :=
  let c := choose s (storeStripes - s.sep.stripes.length)
  let n := nthFree c.1 0 (s.sep.stripes.map Prod.fst)
  let d := pieces shardBytes 6 data
  (n, setSep c.2 { c.2.sep with
    stripes := Tbl.insert c.2.sep.stripes n (stripeOf n dir c.2.sep.writes (d ++ [parityP d, parityQ d]))
    writes := c.2.sep.writes + 1 })

/-- Stripes written one after another from a place in the image. -/
def writeStripes : State → Nat → Nat → List (List Byte) → List (Nat × Nat) × State
  | s, _, _, [] => ([], s)
  | s, dir, pos, d :: ds =>
    let w := writeStripe s dir d
    let r := writeStripes w.2 dir (pos + 1) ds
    ((pos, w.1) :: r.1, r.2)

/-! ### Keys and images, R193, R194 -/

/-- R194: a fresh pair of keys, wrapped under the store root key. -/
def drawKeys (s : State) : List Byte × State :=
  let k := (List.range 64).map fun i => Config.drbg (s.sep.drawn + i)
  (keyWrap Config.rootKey k, setSep s { s.sep with drawn := s.sep.drawn + 64 })

def stripesFor (n : Nat) : Nat := (n + stripeData - 1) / stripeData

/-- R193, R188: an image of `n` logical bytes as the data of its stripes: padded, encrypted, and its unfilled data shards zero. -/
def sealImage (wrapped : List Byte) (id : Nat) (bs : List Byte) : List (List Byte) :=
  let k := stripesFor bs.length
  let plain := bs ++ List.replicate (k * stripeData - bs.length) 0
  let c := xtsAll false (keyUnwrap Config.rootKey wrapped) id (96 * k) 0 plain
  let used := up shardBytes bs.length
  pieces stripeData k (c.take used ++ List.replicate (k * stripeData - used) 0)

/-- R193: the plain bytes of the stripe at a place in an image. -/
def openStripe (wrapped : List Byte) (id pos : Nat) (data : List Byte) : List Byte :=
  xtsAll true (keyUnwrap Config.rootKey wrapped) id 96 (96 * pos) data

/-- A new image in the directory entry and stripes that the module chooses. -/
def putImage (s : State) (slot : Nat) (e : DirEnt) (bs : List Byte) : State :=
  let w := writeStripes s slot 0 (sealImage e.wrapped e.id.toNat bs)
  setSep w.2 { w.2.sep with dir := Tbl.insert w.2.sep.dir slot { e with stripes := w.1 } }

/-- R187, R447: a free directory entry. -/
def freeDir (s : State) : Nat × State :=
  let c := choose s (16384 - s.sep.dir.length)
  (nthFree c.1 0 (s.sep.dir.map Prod.fst), c.2)

/-- What a read of an image's stripes finds: the plain bytes by place, up to a lost stripe and its place. -/
structure ImgRead where
  parts : List (Nat × List Byte) := []
  lost : Option Nat := none

/-- The stripes of an image read in order; the read ends at a lost one. -/
def readParts (s : State) (op : Nat) (e : DirEnt) : List (Nat × Nat) → List (Nat × List Byte) → ImgRead × State
  | [], acc => (⟨acc, none⟩, s)
  | x :: xs, acc =>
    match readStripe s op x.2 e.id with
    | (none, t) => (⟨acc, some x.1⟩, t)
    | (some d, t) => readParts t op e xs (acc ++ [(x.1, openStripe e.wrapped e.id.toNat x.1 d)])

/-- `n` plain bytes of an image from `off`, of the parts read. -/
def partBytes (ps : List (Nat × List Byte)) (off n : Nat) : List Byte :=
  let first := off / stripeData
  let need := (List.range (stripesFor (off % stripeData + n))).map fun i => ((ps.find? fun p => p.1 == first + i).map Prod.snd).getD []
  ((need.flatten).drop (off % stripeData)).take n

/-! ### Device pages -/

/-- `n` bytes of device memory from `a`, page by page. -/
def devSpan (s : State) : Nat → Nat → Nat → List Byte
  | 0, _, _ => []
  | f + 1, a, n =>
    if n = 0 then []
    else
      let k := min n (pageBytes - a % pageBytes)
      devRead s a k ++ devSpan s f (a + k) (n - k)

def devAll (s : State) (a n : Nat) : List Byte := devSpan s (n / pageBytes + 2) a n

/-- Bytes written to device memory, page by page. -/
def devPut (s : State) : Nat → Nat → List Byte → State
  | 0, _, _ => s
  | f + 1, a, bs =>
    if bs.isEmpty then s
    else
      let k := pageBytes - a % pageBytes
      devPut (devWrite s a (bs.take k)) f (a + k) (bs.drop k)

def devStore (s : State) (a : Nat) (bs : List Byte) : State := devPut s (bs.length / pageBytes + 2) a bs

/-- The pages that `n` bytes from `a` lie in. -/
def pagesOf (a n : Nat) : List Nat :=
  if n = 0 then [] else (List.range ((a + n - 1) / pageBytes + 1 - a / pageBytes)).map (a / pageBytes + ·)

/-- R200, R202: the status that keeps pages from being read: one is unmapped, or one is ABSENT. -/
def pagesBad (s : State) (ps : List Nat) : Option Status :=
  if ps.any fun p => decide (2 ^ 27 ≤ p) || (getPage s p).st == .unmapped then some Code.unmappedAddress
  else if ps.any fun p => match (getPage s p).st with
    | .absent _ => true
    | _ => false
  then some Code.pageState else none

/-- R182, R398: whether a word of the pages is poisoned. -/
def pagesPoisoned (s : State) (ps : List Nat) : Bool :=
  anyPoison s && ps.any fun p => (List.range 32768).any fun w =>
    match devLoc s (p * pageBytes + 64 * w) with
    | none => false
    | some l => tierBad s l.1 l.2

/-- A whole page of a frame written. -/
def framePut (s : State) (vat : Bool) (f : Nat) (bs : List Byte) : State :=
  let lo := f * pageBytes
  let put := fun (m : Bytes) => (m.filter fun x => decide (x.1 < lo)) ++
    ((bs.take pageBytes).zipIdx.filterMap fun x => if x.1 = 0 then none else some (lo + x.2, x.1)) ++
    m.filter fun x => decide (lo + pageBytes ≤ x.1)
  if vat then { s with tiers := { s.tiers with vat := put s.tiers.vat } }
  else { s with tiers := { s.tiers with near := put s.tiers.near } }

/-- R202: a page zeroed in place. -/
def zeroPage (s : State) (p : Nat) : State :=
  match pageFrame (getPage s p).st with
  | none => s
  | some l =>
    let s := cacheInval s (p * pageBytes) pageBytes
    framePut { s with tiers := cure s.tiers l.1 (l.2 * pageBytes) pageBytes } l.1 l.2 []

/-! ### Adapter slots, R204 to R206 -/

def getAdp (s : State) (a : Nat) : AdpSlot := Tbl.get {} s.sep.adps a
def setAdp (s : State) (a : Nat) (x : AdpSlot) : State := setSep s { s.sep with adps := Tbl.set {} s.sep.adps a x }
def getWset (s : State) (w : Nat) : WSet := nth {} s.sep.wsets w
def setWset (s : State) (w : Nat) (x : WSet) : State := setSep s { s.sep with wsets := s.sep.wsets.set w x }

/-- R206: a slot's pages are unmapped, their frames zeroed, and the slot becomes EMPTY. -/
def freeAdp (s : State) (a : Nat) : State :=
  let x := getAdp s a
  let s := setAdp s a {}
  ((List.range x.pages).map (x.page + ·)).foldl
    (fun s p => if (getPage s p).job = x.job ∧ (getPage s p).st ≠ .unmapped then unmapPage s p else s) s

/-- R206: a RETIRING version without references, or a FAILED slot, is freed. -/
def settleAdp (s : State) (a : Nat) : State :=
  let x := getAdp s a
  if (x.st = 4 ∧ x.refs = 0) ∨ x.st = 5 then freeAdp s a else s

/-- R205: the CURRENT version of an adapter. -/
def currentAdp (s : State) (id : Nat) : Option Nat :=
  (s.sep.adps.find? fun a => a.2.st == 3 && a.2.id == id).map Prod.fst

/-- R205: the CURRENT version of an adapter, if any, starts to retire. -/
def retireAdp (s : State) (id : Nat) : State :=
  match currentAdp s id with
  | none => s
  | some a => settleAdp (setAdp s a { getAdp s a with st := 4 }) a

/-- R205: one reference less on a version, which may free it. -/
def unrefAdp (s : State) (a : Nat) : State :=
  let x := getAdp s a
  settleAdp (setAdp s a { x with refs := x.refs - 1 }) a

/-! ### Acceptance, R199, R201, R210, R330 -/

/-- R199: the fields of a command block. -/
def sepCmd (v : Nat) : SepCmd :=
  { op := bits v 0 4, tier := bits v 4 1, wset := bits v 5 4, adapter := bits v 9 12, version := bits v 24 16, zword := bit v 40
    id := BitVec.ofNat 64 (bits v 64 64), addr := bits v 128 48, count := bits v 192 24 }

/-- R199, R448: a reserved OP, a reserved bit, an IMAGE_ID of 0 where one is named, a page address that is not on a page boundary,
or a SPILL of no page. -/
def sepBad (v : Nat) : Bool :=
  let c := sepCmd v
  c.op == 0 || decide (7 < c.op) || bits v 21 3 != 0 || bits v 41 23 != 0 || bits v 176 16 != 0 || bits v 216 40 != 0 ||
  ((c.op == 1 || c.op == 2 || c.op == 5) && c.id == 0) ||
  ((c.op == 2 || c.op == 3 || c.op == 4) && c.addr % pageBytes != 0) ||
  (c.op == 3 && c.count == 0)

def dirOf (s : State) (id : Word) : Option (Nat × DirEnt) := s.sep.dir.find? fun e => e.2.id == id && e.2.kind != 2

/-- R200, R210: a LOAD is of a BASE image: one of the directory, or one that a PACK which is queued or runs makes. -/
def loadsBase (s : State) (c : SepCmd) : Bool :=
  match dirOf s c.id with
  | some e => e.2.kind == 0
  | none => s.sep.bulk.any fun d => d.op == 1 && d.id == c.id && d.version == 0

/-- R209, R210: a LOAD that is queued or runs, or that a saved job has recorded, for the same weight set; a LOAD of an image that a
DELETE names. -/
def sepBusy (s : State) (c : SepCmd) : Bool :=
  let loads := (s.sep.bulk ++ s.saved.flatMap SavedJob.bulk).filter fun d => d.op == 2
  (c.op == 2 && loadsBase s c && loads.any fun d => d.wset == c.wset && loadsBase s d) ||
  (c.op == 5 && loads.any fun d => d.id == c.id)

/-- R201, R208: a command joins its queue or is refused with BUSY or RESERVATION_EXCEEDED. -/
def sepAccept (s : State) (c : SepCmd) : Status × State :=
  let urgent := c.op == 3 || c.op == 4
  if urgent then
    if 64 ≤ s.sep.urgent.length then (Code.busy, s)
    else
      let run := (List.range c.count).map (c.addr / pageBytes + ·)
      let backed := if c.op = 4 then run.filter fun p => isBacked (getPage s p).st && (getPage s p).job == c.job else []
      let vat := c.tier == 1
      let more := (backed.filter fun p => !(restoring s c.job vat).contains p).length
      if c.op = 4 ∧ more ≠ 0 ∧ overReserved s vat more then (Code.reservationExceeded, s)
      else (Code.ok, setSep s { s.sep with urgent := s.sep.urgent ++ [{ c with pages := backed }] })
  else if 16 ≤ s.sep.bulk.length ∨ sepBusy s c then (Code.busy, s)
  else (Code.ok, setSep s { s.sep with bulk := s.sep.bulk ++ [c] })

/-- No job exists, R330: STATE reads NONE or STARTING. -/
def noJob (s : State) : Bool := s.jobc.st == 0 || s.jobc.st == 6

/-- R330: the SEP operation with its command block. -/
def sepSubmit (s : State) (o : OpRef) (bs : List Byte) : Status × State :=
  let v := leNat (bs.take 32)
  let c := { sepCmd v with forOp := o, job := if noJob s then 0 else s.jobc.id }
  if sepBad v then (Code.badArgument, s)
  else if noJob s && c.op != 5 then (Code.noJob, s)
  else sepAccept s c

/-! ### PACK, R200 -/

/-- R200: bits of a pack list entry that must be zero. -/
def packEntryOk (bs : List Byte) : Bool :=
  let v := leNat (bs.take 32)
  let g := segOf bs
  bits v 48 16 == 0 && bits v 111 17 == 0 && bits v 240 16 == 0 && segOk g && decide (g.srcFmt ≤ 3) &&
  ((g.srcFmt == 3) == (g.fmt == 15))

def srcWidth (srcFmt : Nat) : Nat := if srcFmt = 0 then 4 else if srcFmt = 3 then 1 else 2

/-- R200: the elements of a source. -/
def packSource (s : State) (g : Seg) : Array Nat :=
  let w := srcWidth g.srcFmt
  let n := g.rows * g.cols
  ((pieces w n (devAll s g.src (n * w))).map leNat).toArray

def wornOut (s : State) : Bool := s.sep.spare.any (· == 0)

/-- R200: a PACK: its status, and the state with the image written. -/
def sepPack (s : State) (c : SepCmd) : Status × State :=
  if (s.sep.dir.any fun e => e.2.id == c.id) then (Code.imageExists, s)
  else if wornOut s then (Code.storeWorn, s)
  else if 16384 ≤ s.sep.dir.length then (Code.directoryFull, s)
  else if c.count = 0 ∨ 65535 < c.count then (Code.packSource, s)
  else
    let lp := pagesOf c.addr (32 * c.count)
    match pagesBad s lp with
    | some b => (b, s)
    | none =>
      let es := pieces 32 c.count (devAll s c.addr (32 * c.count))
      let gs := es.map segOf
      let total := (gs.map Seg.len).foldl (· + ·) 0
      if !(es.all packEntryOk && segsCover gs total && decide (total < 2 ^ 40)) then (Code.packSource, s)
      else
        let sp := gs.flatMap fun g => pagesOf g.src (g.rows * g.cols * srcWidth g.srcFmt)
        match pagesBad s sp with
        | some b => (b, s)
        | none =>
          if pagesPoisoned s (lp ++ sp) then (Code.tierUncorrectable, s)
          else
            let h : SHead := ⟨if c.version = 0 then 0 else 1, 0, c.id.toNat, if c.version = 0 then 0 else c.adapter, c.version, 0, 0⟩
            let lay := imgLay h (gs.map fun g => (g, segData g (packSource s g)))
            if storeStripes - s.sep.stripes.length < stripesFor lay.1.length then (Code.storeFull, s)
            else
              let k := drawKeys s
              let d := freeDir k.2
              (Code.ok, putImage d.2 d.1
                { id := c.id, kind := h.kind, adapter := h.adapter, version := h.version, wrapped := k.1 } lay.1)

/-! ### LOAD, R202 to R204 -/

/-- R195, R196: the header and segments of an image from its parts; none where a rule is broken. -/
def loadHead (e : DirEnt) (ps : List (Nat × List Byte)) : Option (SHead × List Seg) :=
  let hd := partBytes ps 0 4096
  let h := sheadOf hd
  let tb := partBytes ps 4096 (32 * h.segments)
  let gs := (cut 32 tb).map segOf
  if sheadOk hd tb ∧ h.kind = e.kind ∧ h.id = e.id.toNat ∧ gs.all (fun g => decide (g.pay < h.logical)) then some (h, gs) else none

/-- The stripes that hold header and segment table. -/
def headStripes (e : DirEnt) : List (Nat × Nat) := e.stripes.take (stripesFor (4096 + 32 * 65535))

/-- R203: whether a weight set is held by an open service or a request. -/
def wsetServed (s : State) (w : Nat) : Bool :=
  (s.adm.svcs.any fun x => x.st == 1 && x.wset == w) || s.adm.reqs.any fun r => (getSvc s r.svc).wset == w

/-- R204: why an adapter image cannot be loaded. -/
def adpRefused (s : State) (e : DirEnt) : Option Status :=
  let mine := s.sep.adps.filter fun a => a.2.id == e.adapter
  if s.sep.adps.length = 512 ∨ 4 ≤ mine.length then some Code.adapterTableFull
  else if mine.any fun a => decide (e.version ≤ a.2.version) then some Code.adapterVersionOrder
  else none

/-- R202: pages that a LOAD writes must be NEAR or VAT. -/
def loadPages (s : State) (base n : Nat) : Option Status :=
  let ps := pagesOf base n
  match pagesBad s ps with
  | some b => some b
  | none => if ps.all fun p => match (getPage s p).st with
      | .near _ => true
      | .vat _ => true
      | _ => false
    then none else some Code.pageState

/-- The state of a LOAD's target: a weight set, or an adapter slot. -/
def loadMark (s : State) (c : SepCmd) (e : DirEnt) (a st pages : Nat) : State :=
  let p := c.addr / pageBytes
  if e.kind = 0 then setWset s c.wset ⟨st, e.id, p, pages, c.job⟩
  else setAdp s a { getAdp s a with st := st, id := e.adapter, version := e.version, page := p, pages := pages, job := c.job }

/-- R206: the pages that a LOAD names as far as the header has been read; none where its stripe is lost (log entry 99). -/
def headPages (c : SepCmd) (ps : List (Nat × List Byte)) : Nat :=
  if ps.any fun p => p.1 == 0 then (pagesOf c.addr (sheadOf (partBytes ps 0 4096)).dest).length else 0

/-- R202, R204, R206: a LOAD begins: the status of a refusal, or its target LOADING. -/
def loadStart (s : State) (c : SepCmd) : Option Status × Option Nat × State :=
  match dirOf s c.id with
  | none => (some (if s.sep.dir.any fun e => e.2.id == c.id then Code.storeImageFormat else Code.imageNotFound), none, s)
  | some x =>
    let e := x.2
    let a := nthFree 0 0 (s.sep.adps.map Prod.fst)
    let no := if e.kind = 0 then (if wsetServed s c.wset then some Code.serviceOpen else none) else adpRefused s e
    match no with
    | some b => (some b, none, s)
    | none =>
      let slot := if e.kind = 0 then none else some a
      match readParts s 2 e (headStripes e) [] with
      | (⟨ps, some _⟩, t) => (some Code.stripeLost, slot, loadMark t c e a (if e.kind = 0 then 3 else 5) (headPages c ps))
      | (⟨ps, none⟩, t) =>
        match loadHead e ps with
        | none => (some Code.storeImageFormat, none, t)
        | some h =>
          match loadPages t c.addr h.1.dest with
          | some b => (some b, none, t)
          | none => (none, slot, loadMark t c e a 1 ((pagesOf c.addr h.1.dest).length))

/-- R202: bytes of a segment's destination that are written when the read stops before the stripe at `p`. -/
def segWritten (g : Seg) (ps : List (Nat × List Byte)) (p : Nat) : Nat :=
  let have_ := p * stripeData - g.pay
  if !g.zword then min g.len (have_ / 64 * 64)
  else
    let n := (g.len + 65535) / 65536
    let tb := up 64 (4 * n)
    if have_ < tb then 0
    else
      let sizes := (zTable (partBytes ps g.pay tb) g.len).map Prod.fst
      min g.len (65536 * ((List.range n).filter fun i => decide (tb + ((sizes.take (i + 1)).foldl (· + ·) 0) ≤ have_)).length)

/-- R198: the bytes that a segment writes. -/
def segOut (g : Seg) (ps : List (Nat × List Byte)) (logical : Nat) : List Byte :=
  if g.zword then zDecode (partBytes ps g.pay (logical - g.pay)) g.len else partBytes ps g.pay g.len

/-- R202, R204, R161: a LOAD that runs: its status, and the state it leaves. Its pages are pinned since it began; one that has begun to
move since is written where it is. -/
def sepLoad (s : State) (c : SepCmd) : Status × State :=
  match dirOf s c.id with
  | none => (Code.imageNotFound, s)
  | some x =>
    let e := x.2
    let a := c.slot.getD 0
    let r := readParts s 2 e e.stripes []
    match loadHead e r.1.parts with
    | none => (Code.stripeLost, loadMark r.2 c e a (if e.kind = 0 then 3 else 5) (headPages c r.1.parts))
    | some h =>
      let np := (pagesOf c.addr h.1.dest).length
      match r.1.lost with
      | none =>
        let t := h.2.foldl (fun t g => devStore t (c.addr + g.dest) (segOut g r.1.parts h.1.logical)) r.2
        (Code.ok, loadMark t c e a 2 np)
      | some p =>
        let ps := (h.2.flatMap fun g => pagesOf (c.addr + g.dest) (segWritten g r.1.parts p)).eraseDups
        (Code.stripeLost, loadMark (ps.foldl zeroPage r.2) c e a (if e.kind = 0 then 3 else 5) np)

/-! ### SPILL and RESTORE, R207, R208 -/

/-- R207: why a page cannot be spilled. -/
def spillBad (s : State) (job p : Nat) : Option Status :=
  let e := getPage s p
  let rests := match e.st with
    | .near _ => true
    | .vat _ => true
    | _ => false
  if !rests || e.job != job || e.aside then some Code.pageState
  else if isPinned s p then some Code.pagePinned else none

/-- R194: the job's spill keys, drawn when its spill area is first used. -/
def spillKey (s : State) (job : Nat) : List Byte × State :=
  match s.sep.spillKeys.find? fun k => k.1 == job with
  | some k => (k.2, s)
  | none =>
    let k := drawKeys s
    (k.1, setSep k.2 { k.2.sep with spillKeys := k.2.sep.spillKeys ++ [(job, k.1)] })

/-- R207: stripes that a job's spill images hold. -/
def spillHeld (s : State) (job : Nat) : Nat :=
  ((s.sep.dir.filter fun e => e.2.kind == 2 && e.2.job == job).map fun e => e.2.stripes.length).foldl (· + ·) 0

/-- The identity of a new SPILL image, which the spec does not fix: the module's choice among those not in use. -/
def freshId (s : State) : Word × State :=
  let used := (s.sep.dir.map fun e => e.2.id.toNat).foldl (fun t k => Tbl.insert t k ()) ([] : List (Nat × Unit))
  let c := choose s (2 ^ 64 - 1 - used.length)
  (BitVec.ofNat 64 (nthFree c.1 1 (used.map Prod.fst)), c.2)

/-- R207: a spilled page becomes ABSENT with its backing; its frame is freed, its lines leave the caches, and moves that wait for
it are dropped. -/
def pageToStore (s : State) (p b : Nat) : State :=
  let e := getPage s p
  setPage (unmapPage s p) p { e with st := .absent (some b) }

/-- The pages of a SPILL that one segment of its image holds: one, or as many more as the 65,535 segments of an image need
(log entry 23). -/
def spillGroup (count : Nat) : Nat := (count + 65534) / 65535

/-- R207, R198: the places of `n` pages in a segment whose payload lies at `off`. -/
def spillPlaces (zword : Bool) (off n : Nat) (pay : List Byte) : List (Nat × Nat × Nat) :=
  let sizes := (zTable pay (n * pageBytes)).map Prod.fst
  (List.range n).map fun i =>
    if zword then
      (off + up 64 (128 * n) + (sizes.take (32 * i)).sum, ((sizes.drop (32 * i)).take 32).sum, off + 128 * i)
    else (off + i * pageBytes, pageBytes, 0)

/-- R207: a SPILL. -/
def sepSpill (s : State) (c : SepCmd) : Status × State :=
  let ps := (List.range c.count).map (c.addr / pageBytes + ·)
  match ps.findSome? (spillBad s c.job) with
  | some b => (b, s)
  | none =>
    if wornOut s then (Code.storeWorn, s)
    else if 16384 ≤ s.sep.dir.length then (Code.directoryFull, s)
    else if pagesPoisoned s ps then (Code.tierUncorrectable, s)
    else
      let i := freshId s
      let k := spillGroup c.count
      let gs := pieces k ((c.count + k - 1) / k) ps
      let segs := gs.zipIdx.map fun g =>
        ((⟨g.2 * k * pageBytes, g.1.length * pageBytes, 15, 0, c.zword, g.1.length, pageBytes, 0, 0, 0, 0⟩ : Seg),
          g.1.flatMap fun p => devAll s (p * pageBytes) pageBytes)
      let lay := imgLay ⟨2, 0, i.1.toNat, 0, 0, 0, 0⟩ segs
      let places := (gs.zip lay.2).flatMap fun x => spillPlaces c.zword x.2.1 x.1.length ((lay.1.drop x.2.1).take x.2.2)
      let n := stripesFor lay.1.length
      if s.limits.spill < spillHeld s c.job + n then (Code.spillAreaFull, s)
      else if storeStripes - s.sep.stripes.length < n then (Code.storeFull, s)
      else
        let k := spillKey i.2 c.job
        let d := freeDir k.2
        let t := putImage d.2 d.1
          { id := i.1, kind := 2, wrapped := k.1, job := c.job, zword := c.zword
            backed := places.zipIdx.map fun x => ⟨x.2, x.1.1, x.1.2.1, x.1.2.2⟩ } lay.1
        (Code.ok, ps.zipIdx.foldl (fun t p => pageToStore t p.1 (d.1 + 16384 * p.2)) t)

/-- R208: the backed pages of a RESTORE's run. -/
def restorePages (s : State) (c : SepCmd) : List Nat :=
  ((List.range c.count).map (c.addr / pageBytes + ·)).filter fun p => isBacked (getPage s p).st && (getPage s p).job == c.job

/-- R208: one page brought back: its status and the state. A page that was not counted at acceptance must fit the reservation. -/
def restoreOne (s : State) (c : SepCmd) (p : Nat) : Status × State :=
  let vat := c.tier == 1
  match (getPage s p).st with
  | .absent (some b) =>
    let e := Tbl.get {} s.sep.dir (b % 16384)
    let k := (e.backed.find? fun k => k.index == b / 16384).getD ⟨0, 0, 0, 0⟩
    let need := e.stripes.filter fun x => backNeeds e.zword k x.1
    if !(c.pages.contains p) && overReserved s vat 1 then (Code.reservationExceeded, s)
    else
      let r := readParts s 4 e need []
      match r.1.lost with
      | some _ => (Code.stripeLost, setPage (freeBacking r.2 b) p { getPage s p with st := .absent none })
      | none =>
        match takeFrame r.2 vat p with
        | none => (Code.ok, s)
        | some f =>
          let pay := partBytes r.1.parts k.off k.len
          let table := zTable (partBytes r.1.parts k.table 128) pageBytes
          let t := framePut f.2 vat f.1 (if e.zword then zChunks table pay pageBytes else pay)
          (Code.ok, setPage (freeBacking t b) p { getPage s p with st := if vat then .vat f.1 else .near f.1 })
  | _ => (Code.ok, s)

/-- R208: the pages of a RESTORE in order; the first status that is not OK, STRIPE_LOST before any other, is the command's. -/
def restoreAll (s : State) (c : SepCmd) : List Nat → Status → Status × State
  | [], st => (st, s)
  | p :: ps, st =>
    let r := restoreOne s c p
    restoreAll r.2 c ps (if r.1 == Code.stripeLost then r.1 else if st == Code.ok then r.1 else st)

/-- R163, R208: frames are free for every page that a RESTORE brings in. -/
def restoreFits (s : State) (c : SepCmd) : Bool :=
  let n := (restorePages s c).length
  if c.tier = 1 then decide (n ≤ vatFree s) else decide (n ≤ nearFree s)

/-- R208, Table 10.3: a RESTORE; a request that admission issued it for ends FAULTED on a lost stripe. -/
def sepRestore (s : State) (c : SepCmd) : Status × State :=
  let r := restoreAll s c (restorePages s c) Code.ok
  match c.req with
  | some q => if r.1 == Code.ok then r else (r.1, endReq r.2 q.1 q.2 5 r.1)
  | none => r

/-! ### DELETE, PUBLISH, DROP -/

/-- R194, R209: an image leaves the directory: its wrapped keys are destroyed and its stripes freed. -/
def sepDelete (s : State) (c : SepCmd) : Status × State :=
  match dirOf s c.id with
  | none => (Code.imageNotFound, s)
  | some x => (Code.ok, setSep s { s.sep with
      dir := Tbl.erase s.sep.dir x.1
      stripes := s.sep.stripes.filter fun t => !(x.2.stripes.any fun y => y.2 == t.1) })

/-- R205: PUBLISH. -/
def sepPublish (s : State) (c : SepCmd) : Status × State :=
  match s.sep.adps.find? fun a => a.2.st == 2 && a.2.id == c.adapter && a.2.version == c.version with
  | none => (Code.adapterNotReady, s)
  | some a =>
    let s := retireAdp s c.adapter
    (Code.ok, setAdp s a.1 { getAdp s a.1 with st := 3 })

/-- R205: DROP. -/
def sepDrop (s : State) (c : SepCmd) : Status × State :=
  if (currentAdp s c.adapter).isNone then (Code.adapterNotReady, s) else (Code.ok, retireAdp s c.adapter)

/-! ### Running, R201, R210 -/

/-- The head of a queue. -/
def sepHead (s : State) (urgent : Bool) : Option SepCmd := if urgent then s.sep.urgent.head? else s.sep.bulk.head?

/-- The head of a queue replaced. -/
def sepSetHead (s : State) (urgent : Bool) (c : SepCmd) : State :=
  if urgent then setSep s { s.sep with urgent := c :: s.sep.urgent.tail } else setSep s { s.sep with bulk := c :: s.sep.bulk.tail }

/-- R201, R210: a queue's head may work: urgent work goes ahead, and a job's command works only while the job is held here. -/
def sepMay (s : State) (urgent : Bool) (c : SepCmd) : Bool :=
  isReady s && (urgent || s.sep.urgent.isEmpty) && (c.job == 0 || (c.job == s.jobc.id && jobHeld s))

/-- R212: a failure of a command is recorded; a lost stripe has been recorded as it was read. -/
def sepFail (s : State) (c : SepCmd) (st : Status) : State :=
  if st = Code.ok ∨ st = Code.stripeLost then s else noteSep s st c.op 0 0 c.id

/-- R201, R202: the command at the head of a queue begins to run. -/
def sepStart (s : State) (urgent : Bool) (nand : Nand) : State :=
  match sepHead s urgent with
  | none => s
  | some c =>
    if c.running || !sepMay s urgent c then s
    else if c.op = 2 then
      let r := loadStart (nandReads (sepSetHead s urgent { c with running := true }) nand) c
      sepFail (sepSetHead r.2.2 urgent { c with running := true, result := r.1, slot := r.2.1 }) c (r.1.getD Code.ok)
    else sepSetHead s urgent { c with running := true }

def execSepCommandStart (turn : SepTurn) (s : State) : Host.Outcome State Fault Refusal :=
  .next (sepStart s turn.urgent turn.nand)

/-- The work of a running command of one OP, where it is at the head of its queue, with what the NAND reports meanwhile. -/
def sepWork (s : State) (op : Nat) (nand : Nand) (f : State → SepCmd → Status × State) : State :=
  let urgent := op == 3 || op == 4
  match sepHead s urgent with
  | none => s
  | some c =>
    if c.op != op || !c.running || c.result.isSome || !sepMay s urgent c || (op == 4 && !restoreFits s c) then s
    else
      let r := f (nandReads s nand) c
      sepFail (nandWorn (sepSetHead r.2 urgent { c with result := some r.1 }) nand) c r.1

/-- R206, R201: the command at the head of a queue ends: it leaves the queue, and its status goes to its program. -/
def sepComplete (s : State) (urgent : Bool) : State :=
  match sepHead s urgent with
  | none => s
  | some c =>
    match c.result with
    | none => s
    | some st =>
      let s := if urgent then setSep s { s.sep with urgent := s.sep.urgent.tail } else setSep s { s.sep with bulk := s.sep.bulk.tail }
      let s := match c.slot with
        | none => s
        | some a => settleAdp s a
      opDone s c.forOp st

/-! ### The scrub, R192 -/

def dayPp : Nat := 86400 * 1600000000

/-- R192: the next written stripe of the pass is read, all its shards, with what the NAND reports. -/
def storeScrub (s : State) (nand : Nand) : State :=
  if !isReady s || !s.sep.bulk.isEmpty then s
  else match s.sep.stripes.find? fun x => decide (s.sep.scrubPos ≤ x.1) with
    | none => setSep s { s.sep with scrubPos := 0, passDays := (s.now - s.sep.scrubSince) / dayPp % 256, scrubSince := s.now }
    | some x =>
      let s := nandReads (setSep s { s.sep with scrubPos := x.1 + 1 }) nand
      nandWorn (readStripe s 0 x.1 (Tbl.get {} s.sep.dir x.2.dir).id true).2 nand

def execStoreScrub (nand : Nand) (s : State) : Host.Outcome State Fault Refusal := .next (storeScrub s nand)

end Sys2Proof.Machine
end

