-- ==== Sys2Proof/Machine/Cellar.lean ====
section
/-! DEFINITION. The Cellar and the Skimmer at work (file 11): sequence entries, pool blocks and copies, slot maps and token records,
sampling, speculative trees. -/

namespace Sys2Proof.Machine

/-! ### Registers of a service, Table 11.6 -/

def Service.poolPage (x : Service) : Nat := bits x.pool.toNat 0 27
def Service.poolPages (x : Service) : Nat := bits x.pool.toNat 27 20
def Service.areaPage (x : Service) : Nat := bits x.area.toNat 0 27
def Service.span (x : Service) : Nat := bits x.area.toNat 27 5
def Service.logitAddr (x : Service) : Nat := bits x.logit.toNat 0 48
def Service.logitBf (x : Service) : Bool := bit x.logit.toNat 48
def Service.mapAddr (x : Service) : Nat := bits x.slotmap.toNat 0 48
def Service.tokenAddr (x : Service) : Nat := bits x.token.toNat 0 48
def Service.vocab (x : Service) : Nat := bits x.skm.toNat 0 19
def Service.trigger (x : Service) : Nat := bits x.skm.toNat 19 11
def Service.treeTrigger (x : Service) : Nat := bits x.skm.toNat 30 11
def Service.treeOn (x : Service) : Bool := bit x.skm.toNat 41
def Service.maskFmt (x : Service) : Nat := bits x.skm.toNat 42 3
/-- R235: the slot base of slot `k`, a page. -/
def Service.slotBase (x : Service) (k : Nat) : Nat := x.areaPage + k * 2 ^ x.span

/-- R233: the length of a sequence. -/
def SeqEnt.length (e : SeqEnt) : Nat := e.stored + (if e.pending.isSome then 1 else 0)

/-- Whether `n` bytes of device memory can be read. -/
def readable (s : State) (a n : Nat) : Bool := (pagesBad s (pagesOf a n)).isNone

/-! ### Pool blocks, R236, R240 -/

/-- R236: the blocks a pool divides into, beside the block lists of its resident sequences. -/
def poolCap (s : State) (job v : Nat) : Nat :=
  let x := getSvc s v
  let lists := ((s.adm.seqs.filter fun e => e.2.st == 2 && e.2.job == job && e.2.svc == v).map fun e => e.2.pool.length).foldl (· + ·) 0
  if x.blockBytes = 0 then 0 else (x.poolPages * pageBytes - 8 * lists) / x.blockBytes

/-- The device address of a pool block. -/
def poolAddr (x : Service) (i : Nat) : Nat := x.poolPage * pageBytes + i * x.blockBytes

/-- The smaller of two blocks by last use. -/
def older (a b : PBlock) : PBlock := if b.last < a.last then b else a

/-- R237, R240, R447: a block for a copy: the module's choice among the free ones, else the unreferenced indexed block used least
recently; none where there is neither. -/
def takeBlock (s : State) (job v : Nat) : Option (Nat × State) :=
  let mine := s.adm.blocks.filter fun b => b.job == job && b.svc == v
  let used := mine.foldl (fun t b => Tbl.insert t b.idx ()) ([] : List (Nat × Unit))
  let free := poolCap s job v - (used.filter fun x => decide (x.1 < poolCap s job v)).length
  if 0 < free then
    let c := choose s free
    some (nthFree c.1 0 (used.map Prod.fst), c.2)
  else
    match mine.filter fun b => b.refs == 0 && b.hash.isSome && !b.busy with
    | [] => none
    | b :: bs =>
      let o := bs.foldl older b
      some (o.idx, dropBlock s job v o.idx)

/-- R237: a pool block's pages hold frames. -/
def poolReady (s : State) (v i : Nat) : Bool :=
  let x := getSvc s v
  readable s (poolAddr x i) x.blockBytes

/-! ### The prefix hash, R238 -/

/-- R238: the chain's root for a service, an adapter identity and version. -/
def prefixRoot (image : Nat) (adapter version block : Nat) : List Byte :=
  (sha256 ([0x56, 0x58, 0x50, 0x52] ++ leBytes 8 image ++ leBytes 2 adapter ++ leBytes 2 version ++ leBytes 2 block ++ [0, 0])).take 16

def prefixHash (parent : List Byte) (toks : List Nat) : List Byte :=
  (sha256 (parent ++ toks.flatMap (leBytes 4))).take 16

/-- R238: the hashes of the first blocks of a prompt. -/
def prefixChain (parent : List Byte) : List (List Nat) → List (List Byte)
  | [] => []
  | b :: bs => let h := prefixHash parent b; h :: prefixChain h bs

/-- `n` prompt tokens from index `i`; none where a page cannot be read. -/
def promptTokens (s : State) (d : List Byte) (i n : Nat) : Option (List Nat) :=
  let a := dPromptAddr d + 4 * i
  if readable s a (4 * n) then some ((pieces 4 n (devAll s a (4 * n))).map leNat) else none

/-- R238: the root for a request under an adapter version. -/
def reqRoot (s : State) (d : List Byte) (version : Nat) : List Byte :=
  let x := getSvc s (dSvc d)
  prefixRoot (getWset s x.wset).image.toNat (if dAdpValid d then dAdp d else 0xFFFF) (if dAdpValid d then version else 0) x.block

/-! ### Where positions lie, R234 -/

/-- The device address of block `j` of a request's sequence. -/
def blockAddr (s : State) (r : Req) (e : SeqEnt) (j : Nat) : Nat :=
  let x := getSvc s r.svc
  if j < e.pool.length then poolAddr x (nth 0 e.pool j)
  else x.slotBase r.slot * pageBytes + (j - e.pool.length) * x.blockBytes

/-- The device address of a position's keys and values. -/
def posAddr (s : State) (r : Req) (e : SeqEnt) (p : Nat) : Nat :=
  let x := getSvc s r.svc
  blockAddr s r e (p / x.block) + p % x.block * x.kvBytes

/-- R246: the keys and values of a candidate moved. -/
def moveKv (s : State) (r : Req) (e : SeqEnt) (src dst : Nat) : State :=
  devStore s (posAddr s r e dst) (devAll s (posAddr s r e src) (getSvc s r.svc).kvBytes)

/-! ### Copies, R237, R240 -/

/-- R237: KEEP lapses: the request's pool copies are freed, but for those that the index holds. -/
def lapseKeep (s : State) (v k : Nat) : State :=
  match reqAt s v k with
  | none => s
  | some r =>
    if r.lapsed || !r.holdsSeq then s
    else
      let s := modReq s v k fun r => { r with lapsed := true, kept := [] }
      let s := setAdm s { s.adm with
        notKept := s.adm.notKept + 1
        copies := s.adm.copies.map fun c =>
          if c.svc == v && c.slot == k && c.job == r.job && c.keep && !c.orphan
          then { c with keep := false, orphan := c.hash.isNone } else c }
      let s := r.kept.foldl (fun s i => unrefBlock s r.job v i) s
      let s := match r.seq with
        | none => s
        | some q => setSeq s q { getSeq s q with lost := true }
      noteCel s Code.keepLapsed (r.seq.getD 0) v k

/-- R237: a copy of own block `m` begins, for the index under a hash, for KEEP, or for both; what cannot be had skips the
publication and lapses KEEP. -/
def startCopy (s : State) (v k m n : Nat) (hash : Option (List Byte)) (toks : List Nat) (keep : Bool) : State :=
  match reqAt s v k with
  | none => s
  | some r =>
    let fail := fun (s : State) =>
      let s := if hash.isSome then setAdm s { s.adm with skipped := s.adm.skipped + 1 } else s
      if keep then lapseKeep s v k else s
    match takeBlock s r.job v with
    | none => fail s
    | some b =>
      if !poolReady b.2 v b.1 then fail b.2
      else
        let s := setAdm b.2 { b.2.adm with
          blocks := b.2.adm.blocks ++ [{ job := r.job, svc := v, idx := b.1, refs := if keep then 1 else 0, tokens := toks, last := s.now, busy := true }]
          copies := b.2.adm.copies ++ [{ job := r.job, svc := v, slot := k, own := m, idx := b.1, n := n, hash := hash, keep := keep }] }
        if keep then modReq s v k fun r => { r with kept := r.kept ++ [b.1] } else s

/-- R237: the own blocks that have become full are copied where KEEP or PUBLISH asks for it. -/
def startCopies (s : State) (v k : Nat) : Nat → State
  | 0 => s
  | f + 1 =>
    match reqAt s v k with
    | none => s
    | some r =>
      match r.seq with
      | none => s
      | some q =>
        let e := getSeq s q
        let b := (getSvc s v).block
        let m := r.copied
        if e.stored < (e.pool.length + m + 1) * b then s
        else
          let j := e.pool.length + m
          let s := modReq s v k fun r => { r with copied := m + 1 }
          let toks := if r.publish ∧ !dCont r.desc ∧ (j + 1) * b ≤ dPrompt r.desc then promptTokens s r.desc 0 ((j + 1) * b) else none
          let hash := toks.map fun t => (prefixChain (reqRoot s r.desc r.version) (pieces b (j + 1) t)).getLastD []
          let keep := r.keep && !r.lapsed
          let s := if hash.isSome || keep then startCopy s v k m b hash ((toks.getD []).drop (j * b)) keep else s
          startCopies s v k f

/-- R237: positions have been stored. -/
def noteStored (s : State) (v k stored : Nat) : State :=
  match reqAt s v k with
  | none => s
  | some r =>
    match r.seq with
    | none => s
    | some q => startCopies (setSeq s q { getSeq s q with stored := stored, ver := r.version }) v k (stored / 16 + 1)

/-- R237, R240: a copy completes: its bytes are written, and its block enters the index or the kept list. -/
def blockCopyComplete (s : State) (i : Nat) : State :=
  match s.adm.copies[i]? with
  | none => s
  | some c =>
    if c.job != s.jobc.id || !jobHeld s then s
    else
      let s := setAdm s { s.adm with copies := s.adm.copies.eraseIdx i }
      let s := modBlock s c.job c.svc c.idx fun b => { b with busy := false }
      let x := getSvc s c.svc
      if c.orphan then settleBlock (modBlock s c.job c.svc c.idx fun b => { b with refs := 0 }) c.job c.svc c.idx
      else if !poolReady s c.svc c.idx then
        let s := if c.hash.isSome then setAdm s { s.adm with skipped := s.adm.skipped + 1 } else s
        let s := if c.keep then lapseKeep s c.svc c.slot else s
        settleBlock s c.job c.svc c.idx
      else
        let s := devStore s (poolAddr x c.idx) (devAll s (x.slotBase c.slot * pageBytes + c.own * x.blockBytes) (c.n * x.kvBytes))
        let s := match c.hash with
          | none => s
          | some h =>
            if s.adm.blocks.any fun b => b.job == c.job && b.svc == c.svc && b.hash == some h then s
            else if 65536 ≤ (s.adm.blocks.filter fun b => b.hash.isSome).length then setAdm s { s.adm with skipped := s.adm.skipped + 1 }
            else
              let s := setAdm s { s.adm with published := s.adm.published + 1 }
              modBlock s c.job c.svc c.idx fun b => { b with hash := some h, last := s.now }
        settleBlock s c.job c.svc c.idx

def execBlockCopyComplete (copy : Nat) (s : State) : Host.Outcome State Fault Refusal := .next (blockCopyComplete s copy)

/-- R237: the bytes of KEEP copies that a request has outstanding. -/
def keepBytes (s : State) (r : Req) : Nat :=
  ((s.adm.copies.filter fun c => c.svc == r.svc && c.slot == r.slot && c.job == r.job && c.keep).map fun c => c.n * (getSvc s r.svc).kvBytes).foldl (· + ·) 0

/-- R237, R254: a request ends COMPLETED or CANCELLED: with KEEP its final partial block is copied too. -/
def finishReq (s : State) (v k outcome : Nat) (status : Status) : State :=
  match reqAt s v k with
  | none => s
  | some r =>
    if r.ended.isSome then s
    else
      let s := if !r.keep || r.lapsed then s
        else if 32 * 1048576 < keepBytes s r then lapseKeep s v k
        else match r.seq with
          | none => s
          | some q =>
            let e := getSeq s q
            let full := (e.pool.length + r.copied) * (getSvc s v).block
            if full < e.stored then startCopy s v k r.copied (e.stored - full) none [] true else s
      endReq s v k outcome status

/-! ### Slot maps and token records, R241, R242 -/

/-- A slot map entry. -/
def slotEntry (s : State) (v k : Nat) : Nat := leNat (devAll s ((getSvc s v).mapAddr + 64 * k) 64)

/-- R242: the transfers that KV_READ makes in the step of round `n`: one for each stored block, none before the request's first round. -/
def readBlocks (r : Req) (e : SeqEnt) (b n : Nat) : Nat := if n < r.rFirst then 0 else (e.stored + b - 1) / b

/-- R242: the token record of a slot in round `n`: TOKEN, POSITION, BLOCKS. -/
def tokenRecord (s : State) (v n k : Nat) : List Byte :=
  match reqAt s v k with
  | none => leBytes 16 0xFFFFFFFF
  | some r =>
    match r.seq, r.ended with
    | some q, none =>
      let e := getSeq s q
      leBytes 4 (e.pending.getD 0xFFFFFFFF) ++ leBytes 4 e.stored ++ leBytes 8 (readBlocks r e (getSvc s v).block n)
    | _, _ => leBytes 16 0xFFFFFFFF

/-- R242: the token records of a service's slots for the step of round `n`. -/
def writeTokens (s : State) (v n : Nat) : State :=
  let x := getSvc s v
  devStore s x.tokenAddr ((List.range x.slots).flatMap (tokenRecord s v n))

/-- R241, R242: the re-arms of the step that a request runs in round `n`: stored blocks, the blocks that the step writes, its
prefill chunk's tokens, and a TENSOR request's output. Kinds 0 KV_READ, 1 KV_WRITE, 2 PROMPT_DESC, 3 OUT_DESC. -/
def stepRearms (s : State) (r : Req) (n : Nat) : List (Nat × Nat) :=
  let x := getSvc s r.svc
  let prefill := decide (r.rFirst ≤ n) && decide (n ≤ r.rLast)
  let prompt := if prefill then [(2, dPromptAddr r.desc + 4 * (r.reused + (n - r.rFirst) * x.chunk))] else []
  match r.seq with
  | none => prompt ++ (if n = r.rFirst then [(3, dOut r.desc)] else [])
  | some q =>
    let e := getSeq s q
    let chunk := min x.chunk (dPrompt r.desc - r.reused - (n - r.rFirst) * x.chunk) + (if n = r.rFirst ∧ e.pending.isSome then 1 else 0)
    let writes := if prefill then chunk else if r.rLast < n then 1 else 0
    (List.range (readBlocks r e x.block n)).map (fun j => (0, blockAddr s r e j)) ++
    (if writes = 0 then [] else (List.range ((e.stored + writes - 1) / x.block + 1 - e.stored / x.block)).map fun j =>
      (1, blockAddr s r e (e.stored / x.block + j))) ++ prompt

/-- Kinds of re-arm by name. -/
def mapKind : MapDesc → Nat
  | .kvRead => 0
  | .kvWrite => 1
  | .prompt => 2
  | .out => 3

/-- R241, R242: the Cellar issues the next re-arm of one kind for a slot, once the one before has taken effect. -/
def slotMapRearm (s : State) (v k : Nat) (w : Nat) : State :=
  match reqAt s v k with
  | none => s
  | some r =>
    match r.rearms.find? fun x => x.1 == w with
    | none => s
    | some x =>
      if r.job != s.jobc.id || !jobRuns s then s
      else if !readable s ((getSvc s v).mapAddr + 64 * k) 64 then faultReq s v k Code.requestPage
      else
        let d := bits (slotEntry s v k) (16 * w) 11
        if (getStr s d).shadow.isSome then s
        else
          let t := strRearm s d x.2 none
          if t.1 != Code.ok then faultReq s v k Code.slotMapInvalid
          else modReq t.2 v k fun r => { r with
            rearms := r.rearms.erase x
            issued := (r.issued.filter fun y => y.1 != d) ++ (if (getStr t.2 d).shadow.isSome then [(d, w, x.2)] else []) }

def execSlotMapRearm (svc : Svc) (k : Win) (which : MapDesc) (s : State) : Host.Outcome State Fault Refusal :=
  .next (slotMapRearm s svc k (mapKind which))

/-! ### Reading what a request names, R247, R251 -/

/-- A request's sampling block, bias table and grammar. -/
structure SkCtx where
  samp : Samp
  bias : List (Nat × F32)
  gram : Option Gram

/-- R247, R251: the sampling block, bias table and grammar of a request, with what is wrong with them: a page that cannot be
read, a broken rule. -/
def skRead (s : State) (r : Req) : Except Status SkCtx :=
  let vocab := (getSvc s r.svc).vocab
  let a := dSampling r.desc
  if !readable s a 128 then .error Code.requestPage
  else
    let bs := devAll s a 128
    let x := sampOf bs
    if !sampOk bs vocab then .error Code.badSamplingBlock
    else if !readable s x.biasAddr (8 * x.biasCount) then .error Code.requestPage
    else
      let bias := biasOf x.biasCount (devAll s x.biasAddr (8 * x.biasCount))
      if !bias.all (biasOk vocab) then .error Code.badSamplingBlock
      else if x.grammar = 0 then .ok ⟨x, bias, none⟩
      else if !readable s x.grammar 64 then .error Code.requestPage
      else match gramHead (devAll s x.grammar 64) with
        | none => .error Code.grammarFormat
        | some h =>
          if h.1 ≠ vocab then .error Code.grammarFormat
          else if !readable s x.grammar (gramLen h.1 h.2.1 h.2.2) then .error Code.requestPage
          else
            let g := gramOf h (devAll s x.grammar (gramLen h.1 h.2.1 h.2.2))
            if gramOk g x.gramStart then .ok ⟨x, bias, some g⟩ else .error Code.grammarFormat

/-- R247, R257: in round r_first the Skimmer checks what a request names; the automaton is in GRAMMAR_START. -/
def skCheck (s : State) (v k : Nat) : State :=
  match reqAt s v k with
  | none => s
  | some r =>
    if r.checked || r.tensor || r.ended.isSome then s
    else match skRead s r with
      | .error c => faultReq s v k c
      | .ok cx =>
        let s := modReq s v k fun r => { r with checked := true, keep := cx.samp.keep, publish := cx.samp.publish, gram := cx.samp.gramStart }
        match r.seq with
        | none => s
        | some q => setSeq s q { getSeq s q with gram := cx.samp.gramStart }

/-! ### Deadlines, R222, R227 -/

/-- R224: every pending request of a service is refused: `f` writes one refusal. -/
def refusePending (f : State → Pend → State) (s : State) (v : Nat) : State :=
  let ps := s.adm.pending.filter fun p => dSvc p.desc == v
  ps.foldl f (setAdm s { s.adm with pending := s.adm.pending.filter fun p => dSvc p.desc != v })

/-- A record field that saturates. -/
def sat (w v : Nat) : Nat := min v (2 ^ w - 1)

/-- R225, Table 10.2: the fields common to every record of a request; `fields` adds the rest. -/
def recordBytes (tag outcome status time fields : Nat) : List Byte :=
  leBytes 64 (fld 0 tag + fld 64 outcome + fld 72 status + fld 192 (time % 2 ^ 64) + fields)

/-- R225, R228: a refusal is counted and recorded; one for a closed service carries REOPEN_AT_MS. -/
def refuse (s : State) (host : Nat) (d : List Byte) (c : Status) : State :=
  let reopen := if c = Code.admissionClosed then bits (getSvc s (dSvc d)).ctrl.toNat 1 40 else 0
  postRecord (setAdm s { s.adm with refused := s.adm.refused + 1 }) host
    (recordBytes (dTag d) 1 c.toNat s.now (fld 320 reopen))

/-- R227, R224: a service is suspended, one that its owner has closed too, and its pending requests are refused. -/
def suspendSvc (s : State) (v : Nat) : State :=
  let x := getSvc s v
  if x.st == 2 then s
  else refusePending (fun s p => refuse s p.host p.desc Code.serviceSuspended) (setSvc s v { x with st := 2 }) v

/-- R227, R229: a request's promise is broken. -/
def breakPromise (s : State) (v k : Nat) : State :=
  match reqAt s v k with
  | none => s
  | some r =>
    if r.broken then s
    else
      let s := modReq s v k fun r => { r with broken := true, excused := s.power.trip && !s.power.inRating }
      let s := setAdm s { s.adm with broken := s.adm.broken + 1 }
      suspendSvc (noteAdm s Code.promiseBroken v k) v

/-- R222, R225: a token, or a TENSOR result, is produced now. -/
def produced (s : State) (v k : Nat) : State :=
  match reqAt s v k with
  | none => s
  | some r =>
    let s := if r.due < s.now then breakPromise s v k else s
    modReq s v k fun r =>
      let late := max r.late (s.now - r.due)
      if r.produced = 0 then { r with produced := 1, first := s.now - r.base, last := s.now, due := s.now + r.interval, late := late }
      else { r with produced := r.produced + 1, worst := max r.worst (s.now - r.last), last := s.now, due := s.now + r.interval, late := late }

/-- R227: a token has missed its deadline. -/
def promiseBroken (s : State) (v k : Nat) : State :=
  match reqAt s v k with
  | none => s
  | some r => if r.ended.isNone ∧ r.job = s.jobc.id ∧ jobOn s ∧ r.due < s.now then breakPromise s v k else s

def execPromiseBroken (svc : Svc) (k : Win) (s : State) : Host.Outcome State Fault Refusal := .next (promiseBroken s svc k)

/-! ### Sampling, R245, R248, R252 -/

/-- R248: the address of logit row `i` of slot `k`, and a row's bytes. -/
def rowBytes (x : Service) : Nat := x.vocab * (if x.logitBf then 2 else 4)
def rowAddr (x : Service) (k i : Nat) : Nat := x.logitAddr + (65 * k + i) * rowBytes x

/-- R248: a row of logits in FP32. -/
def logitRow (s : State) (x : Service) (k i : Nat) : List F32 :=
  let bs := devAll s (rowAddr x k i) (rowBytes x)
  if x.logitBf then (pieces 2 x.vocab bs).map fun b => f32from .bf16 (leNat b) else (pieces 4 x.vocab bs).map fun b => BitVec.ofNat 32 (leNat b)

/-- R249: the last WINDOW tokens of prompt and committed tokens; none where the prompt cannot be read. -/
def windowOf (s : State) (r : Req) (w : Nat) : Option (List Nat) :=
  let n := w - r.tokens.length
  let n := min n (dPrompt r.desc)
  (if n = 0 then some [] else promptTokens s r.desc (dPrompt r.desc - n) n).map fun p =>
    let all := p ++ r.tokens
    all.drop (all.length - w)

/-- R252: a token goes to the output, then PRODUCED; none where a page of the output cannot be written. -/
def emitToken (s : State) (v k t : Nat) : Option State :=
  match reqAt s v k with
  | none => none
  | some r =>
    let a := dOut r.desc
    if !readable s a 64 || !readable s (a + 64 + 4 * r.produced) 4 then none
    else
      let s := devStore s (a + 64 + 4 * r.produced) (leBytes 4 t)
      some (produced (devStore s a (leBytes 64 (r.produced + 1))) v k)

/-- What a walk of R245 leaves: the tokens committed, the candidates accepted, and whether the request ended COMPLETED. -/
structure Walk where
  toks : List Nat := []
  acc : List Nat := []
  gram : Nat := 0
  ended : Bool := false
  fault : Option Status := none

/-- R245, R249, R252: the walk from a node (0xFF the root): row, position, the tokens committed so far in `w`. -/
def skWalk (cx : SkCtx) (v k l : Nat) (tree : List Byte) : Nat → State → Nat → Walk → Walk × State
  | 0, s, _, w => (w, s)
  | f + 1, s, node, w =>
    match reqAt s v k with
    | none => (w, s)
    | some r =>
      let x := getSvc s v
      let row := if node = 0xFF then 0 else node + 1
      match readable s (rowAddr x k row) (rowBytes x), windowOf s r cx.samp.window with
      | true, some win =>
        let ls := skLogits cx.samp cx.bias win (cx.gram.map fun g => (g, w.gram)) (logitRow s x k row)
        let pick : Option (Nat × State) := match skSample cx.samp ls (l + w.toks.length + 1) with
          | .token t => some (t, s)
          | .none => none
          | .anyOf ts => let c := choose s ts.length; some (nth 0 ts c.1, c.2)
        match pick with
        | none => ({ w with fault := some Code.sampleNoToken }, s)
        | some p =>
          let t := p.1
          let stop := cx.samp.stops.contains t
          let out := if stop && !cx.samp.stopEmit then some p.2 else emitToken p.2 v k t
          match out with
          | none => ({ w with fault := some Code.requestPage }, p.2)
          | some s =>
            let s := modReq s v k fun r => { r with tokens := r.tokens ++ [t] }
            let gst := match cx.gram with
              | none => 0
              | some g => (gramStep g w.gram t).getD 0
            let fin := match cx.gram with
              | none => false
              | some g => gramEnd g gst
            let full := match reqAt s v k with
              | some r => decide (dMaxNew r.desc ≤ r.produced)
              | none => true
            let w := { w with toks := w.toks ++ [t], gram := gst }
            if stop || fin || full then ({ w with ended := true }, s)
            else match treeChild tree node t with
              | none => (w, s)
              | some c => skWalk cx v k l tree f s c { w with acc := w.acc ++ [c] }
      | _, _ => ({ w with fault := some Code.requestPage }, s)

/-- R248: whether a slot is due a token: a GENERATE request whose last chunk's round has come, not sampled in this round. -/
def isDue (s : State) (r : Req) : Bool :=
  let x := getSvc s r.svc
  r.ended.isNone && !r.tensor && r.job == s.jobc.id && decide (r.rLast ≤ x.ctr) && decide (r.rFirst ≤ x.ctr) && r.sampled != some x.ctr

/-- R245, R246, R252: one slot sampled: its tokens, the moves of accepted candidates, its sequence, and its end. -/
def sampleSlot (s : State) (v k : Nat) : State :=
  match reqAt s v k with
  | none => s
  | some r =>
    match r.seq with
    | none => s
    | some q =>
      if !isDue s r then s
      else match skRead s r with
        | .error c => faultReq s v k c
        | .ok cx =>
          let x := getSvc s v
          let e := getSeq s q
          let decode := r.sampled.isSome
          let l := if decode then e.stored else r.startLen + dPrompt r.desc - 1
          let tree := if decode && x.treeOn then r.tree else []
          let s := modReq s v k fun r => { r with sampled := some x.ctr, tree := [] }
          let w := skWalk cx v k l tree (tree.length / 8 + 1) s 0xFF { gram := r.gram }
          let m := w.1.toks.length
          let acc := w.1.acc.take (m - 1)
          let s := acc.zipIdx.foldl (fun s a => if a.1 = a.2 then s else moveKv s r (getSeq s q) (l + 1 + a.1) (l + 1 + a.2)) w.2
          let s := setSvc s v { getSvc s v with accepted := (getSvc s v).accepted + acc.length }
          let s := modReq s v k fun r => { r with gram := w.1.gram }
          let s := setSeq s q { getSeq s q with pending := if m = 0 then e.pending else w.1.toks.getLast?, gram := w.1.gram }
          let s := noteStored s v k (if m = 0 then l + 1 else l + m)
          match w.1.fault with
          | some c => faultReq s v k c
          | none => if w.1.ended then finishReq s v k 2 Code.ok else s

/-- R248, R242: TRIGGER's descriptor completes a transfer: due slots are sampled in slot order, then the token records of the next
step are written. -/
def skTrigger (s : State) (d : Nat) : State :=
  (List.range 16).foldl (fun s v =>
    let x := getSvc s v
    if x.trigger = d ∧ s.adm.reqs.any (fun r => r.svc == v && isDue s r) then
      let s := (List.range 64).foldl (fun s k => sampleSlot s v k) s
      setSvc (writeTokens s v (x.ctr + 1)) v { getSvc s v with steps := x.steps + 1 }
    else s) s

/-- R243, R244: the verify block of one slot. -/
def buildVerify (s : State) (v k : Nat) : State :=
  match reqAt s v k with
  | none => s
  | some r =>
    match r.seq with
    | none => s
    | some q =>
      if !isDue s r || r.sampled.isNone then s
      else
        let x := getSvc s v
        if !readable s (x.mapAddr + 64 * k) 64 then faultReq s v k Code.requestPage
        else
          let ent := slotEntry s v k
          let ta := bits ent 64 48
          if !readable s ta 512 || !readable s (bits ent 128 48) (512 + 4096 * (if x.maskFmt = 0 then 4 else if x.maskFmt = 1 then 2 else 1)) then faultReq s v k Code.requestPage
          else
            let tree := devAll s ta 512
            if !treeOk tree x.spec x.vocab then faultReq s v k Code.specTreeInvalid
            else
              let e := getSeq s q
              let last := (e.stored + treeN tree) / x.block
              let more := (List.range (last - e.stored / x.block)).map fun j => (1, blockAddr s r e (e.stored / x.block + 1 + j))
              let s := modReq s v k fun r => { r with tree := tree, rearms := r.rearms ++ more }
              devStore s (bits ent 128 48) (verifyBlock tree e.stored x.maskFmt)

/-- R244: TREE_TRIGGER's descriptor completes a transfer. -/
def treeTrigger (s : State) (d : Nat) : State :=
  (List.range 16).foldl (fun s v =>
    let x := getSvc s v
    if x.treeOn ∧ x.treeTrigger = d then (List.range 64).foldl (fun s k => buildVerify s v k) s else s) s

/-- R172, R244, R248: a stream's transfer completes, with what its completion starts. -/
def streamTransferComplete (s : State) (d : Nat) : State :=
  let r := strComplete s d
  if r.1 then skTrigger (treeTrigger r.2 d) d else r.2

def execStreamTransferComplete (d : Desc) (s : State) : Host.Outcome State Fault Refusal := .next (streamTransferComplete s d)

end Sys2Proof.Machine
end

