-- ==== Sys2Proof/Machine/Admit.lean ====
section
/-! DEFINITION. Admission (file 10): the decision, the bound, the set-aside, rounds, completion records, closing and reopening; and the
registers of the Cellar that commands write (R232, R235, R236, R240). -/

namespace Sys2Proof.Machine

def ceilDiv (a b : Nat) : Nat := (a + b - 1) / b

/-- R220: one interruption of 40 µs per window of 10 ms. -/
def allow (t : Nat) : Nat := 64000 * ceilDiv t 16000000

/-- R208: a restored page's first and further times. -/
def restoreFirst : Nat := 480000
def restoreNext : Nat := 155345
/-- R220: a SPILL page: 2 MiB over 7.2 GB/s, in planning periods rounded up. -/
def spillPage : Nat := 466034

/-- R220: the work of every SPILL and RESTORE in the urgent queue. -/
def urgentAhead (s : State) : Nat :=
  (s.sep.urgent.map fun c => if c.op = 3 then c.count * spillPage
    else let n := (restorePages s c).length; if n = 0 then 0 else restoreFirst + (n - 1) * restoreNext).foldl (· + ·) 0

/-! ### Prefix reuse, R239 -/

/-- R239: the leading blocks that the index holds, and whether the miss that ends them is a collision. -/
def matchBlocks (s : State) (v b : Nat) (parent : List Byte) : List (List Nat) → List PBlock × Bool
  | [] => ([], false)
  | t :: ts =>
    let h := prefixHash parent t
    match s.adm.blocks.find? fun x => x.job == s.jobc.id && x.svc == v && x.hash == some h with
    | none => ([], false)
    | some x => if x.tokens = t then let r := matchBlocks s v b h ts; (x :: r.1, r.2) else ([], true)

/-- The adapter version a request would bind. -/
def wouldBind (s : State) (d : List Byte) : Nat :=
  if dAdpValid d then ((currentAdp s (dAdp d)).map fun a => (getAdp s a).version).getD 0 else 0

/-- R239: what a request reuses. -/
def reuseOf (s : State) (d : List Byte) : List PBlock × Bool :=
  if dClass d = 1 ∨ dCont d then ([], false)
  else
    let b := (getSvc s (dSvc d)).block
    let n := (dPrompt d - 1) / b
    match promptTokens s d 0 (n * b) with
    | none => ([], false)
    | some t => matchBlocks s (dSvc d) b (reqRoot s d (wouldBind s d)) (pieces b n t)

/-- The pages of pool blocks. -/
def poolPages (s : State) (v : Nat) (is : List Nat) : List Nat :=
  let x := getSvc s v
  (is.flatMap fun i => pagesOf (poolAddr x i) x.blockBytes).eraseDups

def isAbsent (s : State) (p : Nat) : Bool :=
  match (getPage s p).st with
  | .absent _ => true
  | _ => false

/-! ### The decision, R218 to R224 -/

/-- R218: a descriptor with a reserved bit, a reserved encoding or a field out of its range. -/
def descBad (d : List Byte) : Bool :=
  let v := dNat d
  bits v 97 31 != 0 || bits v 176 16 != 0 || bits v 304 16 != 0 || bits v 368 16 != 0 || bits v 432 80 != 0 ||
  decide (1 < dClass d) ||
  (if dClass d = 0 then dPrompt d == 0 || dMaxNew d == 0
   else dCont d || dAdpValid d || dMaxNew d != 0 || dSampling d != 0)

/-- What a request would be admitted with. -/
structure Grant where
  slot : Nat
  seq : Option Nat
  blocks : List PBlock
  absent : List Nat
  pages : Nat
  first : Nat
  last : Nat
  ttft : Nat
  interval : Nat
  collision : Bool
  deriving DecidableEq, Repr

/-- A decision: refused, lacking only a slot or a set-aside, held up for zeroed frames, or admitted. -/
inductive Decision where
  | refused (c : Status)
  | lacks (c : Status)
  | waits
  | admits (g : Grant)
  deriving DecidableEq, Repr

/-- R219, check 4: the sequence that CONTINUE names. -/
def seqHeld (s : State) (d : List Byte) : Bool :=
  let e := getSeq s (dSeq d)
  e.st != 2 || e.job != s.jobc.id || e.svc != dSvc d

/-- The free candidates below `n` that a list does not hold. -/
def freeBelow (n : Nat) (used : List Nat) : List Nat := (List.range n).filter fun i => !used.contains i

/-- R223: the pages set aside. -/
def setAside (x : Service) (d : List Byte) (reused : Nat) : Nat :=
  if dClass d = 1 then 0
  else ceilDiv (ceilDiv (dPrompt d - reused + dMaxNew d + x.spec) x.block * x.block * x.kvBytes) pageBytes

/-- R235: some page of a run of `n` is mapped, or named by an accepted MAP. -/
def rangeTaken (s : State) (lo n : Nat) : Bool :=
  (s.tiers.pages.any fun p => decide (lo ≤ p.1) && decide (p.1 < lo + n)) ||
  s.tiers.maps.any fun m => decide (m.first < lo + n) && decide (lo < m.first + m.count)

/-- R219, check 8, with R235: the KV area, the span, the slot's pages, the reservation and the page map. -/
def kvShort (s : State) (x : Service) (slot : Option Nat) (gen : Bool) (pages more : Nat) : Bool :=
  let vat := x.tier == 1
  (gen && (!x.areaSet || decide (2 ^ x.span < pages) || match slot with
    | none => false
    | some k => rangeTaken s (x.slotBase k) (2 ^ x.span))) ||
  (decide (0 < pages + more) && overReserved s vat (pages + more)) || decide (maxMapped < mappedPages s + pages)

/-- R219, R220: the decision on a descriptor as the state stands. -/
def decideReq (s : State) (d : List Byte) : Decision :=
  let v := dSvc d
  let x := getSvc s v
  let gen := dClass d == 0
  if x.st = 0 then .refused Code.admissionClosed
  else if x.st = 2 then .refused Code.serviceSuspended
  else if (getWset s x.wset).st ≠ 2 then .refused Code.serviceNotReady
  else if dAdpValid d && (currentAdp s (dAdp d)).isNone then .refused Code.adapterNone
  else if dCont d && seqHeld s d then .refused Code.sequenceBusy
  else if gen && decide (16777216 < (if dCont d then (getSeq s (dSeq d)).length else 0) + dPrompt d + dMaxNew d) then .refused Code.positionLimit
  else if gen && !dCont d && decide (4096 ≤ s.adm.seqs.length) then .refused Code.noSequence
  else
    let m := reuseOf s d
    let reused := m.1.length * x.block
    let held := if dCont d then (getSeq s (dSeq d)).pool else m.1.map PBlock.idx
    let absent := (poolPages s v held).filter (isAbsent s)
    let n := absent.length
    let rOk := if n = 0 then x.idx + 1
      else x.idx + 1 + ceilDiv (urgentAhead s + restoreFirst + (n - 1) * restoreNext) x.round
    let first := max x.prefillNext rOk
    let last := first + max 1 (ceilDiv (dPrompt d - reused) x.chunk) - 1
    let t := (last - x.idx + 1) * x.round
    let ttft := t + allow t
    let interval := if gen then x.round + allow x.round else 0
    if (dTtft d ≠ 0 ∧ dTtft d * us < ttft) ∨ (dInterval d ≠ 0 ∧ dInterval d * us < interval) then .refused Code.boundUnmet
    else
      let free := freeBelow x.slots ((s.adm.reqs.filter fun r => r.svc == v).map Req.slot)
      let slot := if free.isEmpty then none else some (nth 0 free (Config.choice s.free % free.length))
      let pages := setAside x d reused
      let bring := (absent.filter fun p => isBacked (getPage s p).st && !(restoring s s.jobc.id (x.tier == 1)).contains p).length
      if kvShort s x slot gen pages bring then .lacks Code.noKvSpace
      else match slot with
        | none => .lacks Code.noSlot
        | some k =>
          if !mapFits s x.tier pages then .waits
          else
            let seqs := freeBelow 4096 (s.adm.seqs.map Prod.fst)
            let q := if !gen then none else if dCont d then some (dSeq d)
              else some (nth 0 seqs (Config.choice (s.free + 1) % seqs.length))
            .admits ⟨k, q, m.1, absent, pages, first, last, ttft, interval, m.2⟩

/-- Consecutive numbers of a rising list as runs. -/
def runsOf : List Nat → List (Nat × Nat)
  | [] => []
  | p :: ps =>
    match runsOf ps with
    | (q, n) :: rs => if q = p + 1 then (p, n + 1) :: rs else (p, 1) :: (q, n) :: rs
    | [] => [(p, 1)]

/-- R220: admission issues a restore itself; one that is refused ends the request. -/
def issueRestore (v k tier : Nat) (s : State) (run : Nat × Nat) : State :=
  let r := sepAccept s { op := 4, tier := tier, addr := run.1 * pageBytes, count := run.2, job := s.jobc.id, req := some (v, k) }
  if r.1 = Code.ok then r.2 else endReq r.2 v k 5 r.1

/-- R219, R220, R225: a request is admitted, in one indivisible step. -/
def admitGrant (s : State) (host : Nat) (d : List Byte) (g : Grant) : State :=
  let v := dSvc d
  let x := getSvc s v
  let adp := if dAdpValid d then currentAdp s (dAdp d) else none
  let version := (adp.map fun a => (getAdp s a).version).getD 0
  let s := { s with free := s.free + 2 }
  let s := (mapRun s (x.slotBase g.slot) g.pages x.tier s.jobc.id true).getD s
  let s := setSvc s v { x with prefillNext := g.last + 1 }
  let s := g.blocks.foldl (fun s b => modBlock s b.job b.svc b.idx fun b => { b with refs := b.refs + 1, last := s.now }) s
  let s := match adp with
    | none => s
    | some a => setAdp s a { getAdp s a with refs := (getAdp s a).refs + 1 }
  let start := if dCont d then (getSeq s (dSeq d)).length else 0
  let s := match g.seq with
    | none => s
    | some q =>
      let e := getSeq s q
      if dCont d then setSeq s q { e with st := 1, slot := g.slot, lost := false }
      else setSeq s q { st := 1, job := s.jobc.id, svc := v, slot := g.slot, ver := version, stored := g.blocks.length * x.block
                        pool := g.blocks.map PBlock.idx }
  let r : Req := { svc := v, slot := g.slot, host := host, job := s.jobc.id, desc := d, seq := g.seq, adp := adp, version := version
                   reused := g.blocks.length * x.block, startLen := start, pages := g.pages
                   rFirst := x.ctr + (g.first - x.idx), rLast := x.ctr + (g.last - x.idx), ttft := g.ttft, interval := g.interval
                   base := s.now, last := s.now, due := s.now + g.ttft, gram := match g.seq with
                     | some q => (getSeq s q).gram
                     | none => 0 }
  let s := setAdm s { s.adm with
    reqs := s.adm.reqs ++ [r], admitted := s.adm.admitted + 1, promised := s.adm.promised + r.bound
    reused := s.adm.reused + g.blocks.length, collisions := s.adm.collisions + (if g.collision then 1 else 0) }
  let s := postRecord s host (recordBytes (dTag d) 0 0 s.now
    (fld 88 (g.seq.getD 0) + fld 100 version + fld 128 r.reused + fld 152 g.pages + fld 256 (sat 40 g.ttft) + fld 296 (sat 24 g.interval)))
  (runsOf g.absent).foldl (issueRestore v g.slot x.tier) s

/-! ### Pending requests, R224 -/

/-- R163: the decision that waits still stands: its program runs the same ADMIT, or its request is still pending. -/
def decidingLive (s : State) (x : Deciding) : Bool :=
  match x with
  | .ctx c prog => (getCtx s c).st != 0 && (getCtx s c).prog == prog
  | .pend p => s.adm.pending.contains p && p.job == s.jobc.id

/-- R163: no admission is decided while another decision than `x` waits for zeroed frames. -/
def mayDecide (s : State) (x : Deciding) : Bool :=
  match s.adm.deciding with
  | none => true
  | some y => y == x || !decidingLive s y || !jobOn s

def setDeciding (s : State) (x : Option Deciding) : State := setAdm s { s.adm with deciding := x }

/-- R163, R224: the oldest pending request of a service of the running job is decided again; one that is decided makes room for the
next, and one whose decision waits for zeroed frames holds up every other decision. -/
def recheck (v : Nat) : Nat → State → State
  | 0, s => s
  | f + 1, s =>
    match s.adm.pending.find? fun p => dSvc p.desc == v && p.job == s.jobc.id with
    | none => s
    | some p =>
      if !jobOn s || !mayDecide s (.pend p) then s
      else
        let out := setAdm s { s.adm with pending := s.adm.pending.erase p, deciding := none }
        match decideReq s p.desc with
        | .refused c => recheck v f (refuse out p.host p.desc c)
        | .admits g => recheck v f (admitGrant out p.host p.desc g)
        | .waits => setDeciding s (some (.pend p))
        | .lacks _ => setDeciding s none

/-- The service whose pending request's decision waits. -/
def waitingSvc (s : State) : List Nat :=
  match s.adm.deciding with
  | some (.pend p) => [dSvc p.desc]
  | _ => []

def recheckAll (s : State) : State :=
  (waitingSvc s ++ List.range 16).foldl (fun s v => recheck v s.adm.pending.length s) s

/-- What of the job's reservations and of the page map is in use. -/
def pagesUsed (s : State) : Nat × Nat × Nat := (tierUsed s s.jobc.id false, tierUsed s s.jobc.id true, mappedPages s)

/-- R224: pages have been freed since `was`: the pending requests are decided again. -/
def recheckFreed (was s : State) : State :=
  let a := pagesUsed was
  let b := pagesUsed s
  if b.1 < a.1 ∨ b.2.1 < a.2.1 ∨ b.2.2 < a.2.2 then recheckAll s else s

/-- R163: a frame is zeroed, which the decision on a pending request may have waited for. -/
def execFrameZeroDone (vat : Bool) (f : Nat) (s : State) : Host.Outcome State Fault Refusal :=
  let t := frameZeroDone s vat f
  .next (if (waitingSvc t).isEmpty then t else recheckAll t)

/-- R161, R224: a move that completes frees the frame it read. -/
def execPageMoveComplete (page : Nat) (s : State) : Host.Outcome State Fault Refusal := .next (recheckFreed s (pageMoveComplete s page))

/-- R201, R224: a Separator command that ends may free pages. -/
def execSepCommandComplete (urgent : Bool) (s : State) : Host.Outcome State Fault Refusal := .next (recheckFreed s (sepComplete s urgent))

/-- R219, R330: ADMIT of a descriptor for a host slot: none where the decision has to wait for zeroed frames; else the status, the
QUEUED bit and SEQ of its result, and the state. -/
def admitDesc (s : State) (d : List Byte) (host : Nat) : Option (Status × Bool × Nat × State) :=
  if descBad d then some (Code.badArgument, false, 0, refuse s host d Code.badArgument)
  else match decideReq s d with
    | .waits => none
    | .refused c => some (c, false, 0, refuse s host d c)
    | .lacks c =>
      if !dQueue d then some (c, false, 0, refuse s host d c)
      else if 1024 ≤ s.adm.pending.length then some (Code.pendingFull, false, 0, refuse s host d Code.pendingFull)
      else some (Code.ok, true, 0, setAdm s { s.adm with pending := s.adm.pending ++ [⟨host, s.jobc.id, d⟩] })
    | .admits g => some (Code.ok, false, g.seq.getD 0, admitGrant s host d g)

/-! ### Completion, R225 -/

/-- Table 10.2: the completion record. -/
def completionBytes (r : Req) (outcome : Nat) (status : Status) : List Byte :=
  recordBytes (dTag r.desc) outcome status.toNat r.endAt
    (flg 67 r.broken + flg 68 r.overrun + fld 88 (r.seq.getD 0) + fld 100 r.version + fld 128 (sat 24 r.produced) +
     fld 152 (sat 24 r.pages) + fld 176 (sat 16 r.faults) + fld 256 (sat 40 r.ttft) + fld 296 (sat 24 r.interval) +
     fld 320 (sat 40 r.first) + fld 360 (sat 24 r.worst) + fld 384 (sat 40 r.susp) + fld 424 (sat 40 r.late))

/-- Table 11.1, R237, R240: what becomes of the sequence entry of a request that ended COMPLETED or CANCELLED; one that ended
otherwise has freed its own (R255). -/
def closeSeq (s : State) (r : Req) : State :=
  match r.seq with
  | none => s
  | some q =>
    if !r.holdsSeq then s
    else
      let e := getSeq s q
      if r.keep && !r.lapsed then setSeq s q { e with st := 2, slot := 0, pool := e.pool ++ r.kept } else freeSeq s r.job r.svc q r.kept

/-- R225, R223, R205: a request's completion record is written, and all that it holds is released. -/
def writeCompletion (s : State) (r : Req) (outcome : Nat) (status : Status) : State :=
  let s := postRecord s r.host (completionBytes r outcome status)
  let s := setAdm s { s.adm with
    reqs := s.adm.reqs.filter fun y => !(y.svc == r.svc && y.slot == r.slot)
    copies := s.adm.copies.map fun c =>
      if c.svc == r.svc && c.slot == r.slot && c.job == r.job then { c with orphan := true, keep := false, hash := none } else c }
  let x := getSvc s r.svc
  let s := ((List.range r.pages).map (x.slotBase r.slot + ·)).foldl (fun s p => if (getPage s p).aside then unmapPage s p else s) s
  let s := closeSeq s r
  match r.adp with
  | none => s
  | some a => unrefAdp s a

/-- R225, R224: the completion of a request that has ended, once the copies of a request that ended COMPLETED or CANCELLED are done. -/
def requestCompletion (s : State) (v k : Nat) : State :=
  match reqAt s v k with
  | none => s
  | some r =>
    match r.ended with
    | none => s
    | some o =>
      let busy := (o.1 == 2 || o.1 == 3) && s.adm.copies.any fun c => c.svc == v && c.slot == k && c.job == r.job && !c.orphan
      if busy then s else recheckAll (writeCompletion s r o.1 o.2)

def execRequestCompletion (svc : Svc) (k : Win) (s : State) : Host.Outcome State Fault Refusal := .next (requestCompletion s svc k)

/-! ### Rounds, R215, R217, R331 -/

/-- The slots of a service, in order. -/
def eachSlot (f : State → Nat → State) (s : State) : State := (List.range 64).foldl f s

/-- R331, R217: ROUND: its status and the state. -/
def roundBegin (s : State) (v idx timer : Nat) : Status × State :=
  if 16 ≤ v ∨ 2 ^ 32 ≤ idx ∨ 8 ≤ timer then (Code.badArgument, s)
  else
    let x := getSvc s v
    let held := s.adm.reqs.any fun r => r.svc == v
    if x.st = 0 then (Code.admissionClosed, s)
    else if held ∧ idx ≠ (x.idx + 1) % 2 ^ 32 then (Code.badArgument, s)
    else
      let y := if held then { x with idx := x.idx + 1 } else { x with idx := idx, prefillNext := idx + 1 }
      let s := setSvc s v { y with
        ctr := x.ctr + 1, inRound := true, gone := [], start := s.now, timer := timer, job := s.jobc.id, rounds := x.rounds + 1
        beats := (getTimer s timer).beats }
      let mine := fun (s : State) (k : Nat) => match reqAt s v k with
        | some r => r.ended.isNone && r.job == s.jobc.id && decide (r.rFirst ≤ x.ctr + 1)
        | none => false
      let s := eachSlot (fun s k => if mine s k then skCheck s v k else s) s
      let s := eachSlot (fun s k => if mine s k then modReq s v k fun r => { r with rearms := r.rearms ++ stepRearms s r (x.ctr + 1) } else s) s
      (Code.ok, writeTokens s v (x.ctr + 1))

/-- R233, R237: a prefill chunk that is not the last has been stored; a TENSOR request's last chunk completes it (R220). -/
def chunkDone (s : State) (v k : Nat) : State :=
  match reqAt s v k with
  | none => s
  | some r =>
    let x := getSvc s v
    if r.ended.isSome || r.job != s.jobc.id || decide (x.ctr < r.rFirst) then s
    else if r.tensor then (if r.rLast ≤ x.ctr then endReq (produced s v k) v k 2 Code.ok else s)
    else if r.rLast ≤ x.ctr then s
    else match r.seq with
      | none => s
      | some q =>
        let from_ := if dCont r.desc then r.startLen else r.reused
        let s := setSeq s q { getSeq s q with pending := none }
        noteStored s v k (from_ + min (dPrompt r.desc - r.reused) ((x.ctr - r.rFirst + 1) * x.chunk))

/-- R254: the cancellations of a service take effect at the end of its round. -/
def cancelDue (s : State) (v k : Nat) : State :=
  match reqAt s v k with
  | none => s
  | some r => if r.cancels.isEmpty then s else finishReq s v k 3 Code.cancelled

/-- R215, R331: the round's beat timer has completed its beats: the round ends and ROUND is raised. -/
def roundEnd (s : State) (v : Nat) : State :=
  let x := getSvc s v
  let beats := (getTimer s x.timer).beats
  if !x.inRound || x.job != s.jobc.id || !jobRuns s || decide (beats < x.beats + x.roundBeats) then s
  else
    let s := setSvc s v { x with inRound := false, gone := [], long := x.long + (if x.round < s.now - x.start then 1 else 0) }
    let s := eachSlot (fun s k => chunkDone s v k) s
    let s := eachSlot (fun s k => cancelDue s v k) s
    raiseAll s jobCtxs 2 (evRecord Code.ok 0 (v + fld 4 (x.idx % 2 ^ 28)))

def execRoundEnd (svc : Svc) (s : State) : Host.Outcome State Fault Refusal := .next (roundEnd s svc)

/-- R34, R231: BEAT_OVERRUN is charged to the open requests that the round in progress of their service carries, and recorded. -/
def chargeOverrun (s : State) : State :=
  let carried := fun (r : Req) =>
    let x := getSvc s r.svc
    r.job == s.jobc.id && r.ended.isNone && x.inRound && decide (r.rFirst ≤ x.ctr)
  let hit := fun (r : Req) => carried r && !r.overrun
  let t := setAdm s { s.adm with
    overruns := s.adm.overruns + (s.adm.reqs.filter hit).length
    reqs := s.adm.reqs.map fun r => if hit r then { r with overrun := true } else r }
  (s.adm.reqs.filter carried).foldl (fun t r => noteAdm t Code.beatOverrun r.svc r.slot) t

/-! ### Opening and closing, R228, R231 -/

/-- R231, R438: a service may open; none does once a removal has begun. -/
def canOpen (s : State) (x : Service) : Bool :=
  s.panel.removal == 0 && (getWset s x.wset).st == 2 && decide (1 ≤ x.slots) && decide (x.slots ≤ 64) && decide (1 ≤ x.beatPp) && decide (x.beatPp ≤ 25600) &&
  decide (1 ≤ x.roundBeats) && decide (1 ≤ x.chunk) && decide (x.round ≤ 16000000)

/-- R228, R224: a service closes. -/
def svcShut (s : State) (v : Nat) (ctrl : Word) : State :=
  let x := getSvc s v
  refusePending (fun s p => refuse s p.host p.desc Code.admissionClosed) (setSvc s v { x with st := 0, ctrl := ctrl }) v

/-- R217, R228, R231: a write of SVC_CTRL: the status it records, if any, and the state. -/
def svcCtrlWrite (s : State) (v : Nat) (value : Word) : Option Status × State :=
  let x := getSvc s v
  let ctrl := value &&& 0x1FFFFFFFFFF
  if value.getLsbD 0 then
    if x.st = 1 then (none, setSvc s v { x with ctrl := ctrl })
    else if !canOpen s x then (some Code.serviceNotReady, s)
    else (none, setSvc s v { x with
      st := 1, ctrl := ctrl, idx := 0, inRound := false, prefillNext := 1, rounds := 0, long := 0, steps := 0, accepted := 0 })
  else (none, svcShut s v ctrl)

/-- R231, R257: whether the configuration fields of a service may be written. -/
def svcLocked (s : State) (v : Nat) : Bool := (getSvc s v).st != 0 || s.adm.reqs.any fun r => r.svc == v

/-- R257: a resident sequence or an indexed block of a service. -/
def svcHolds (s : State) (v : Nat) : Bool :=
  (s.adm.seqs.any fun e => e.2.st == 2 && e.2.svc == v) || s.adm.blocks.any fun b => b.svc == v && b.hash.isSome

/-! ### The Cellar's registers, R232, R235, R236, R240 -/

/-- Two runs overlap. -/
def overlap (a n b m : Nat) : Bool := decide (a < b + m) && decide (b < a + n)

/-- R235, R257: a write of CS_KVAREA. -/
def kvAreaWrite (s : State) (v : Nat) (value : Word) : Option Status × State :=
  let a := bits value.toNat 0 27
  let sh := bits value.toNat 27 5
  let n := 64 * 2 ^ sh
  let clash := (List.range 16).any fun t =>
    let y := getSvc s t
    t != v && ((y.areaSet && overlap a n y.areaPage (64 * 2 ^ y.span)) || (y.poolPages != 0 && overlap a n y.poolPage y.poolPages))
  if svcLocked s v || svcHolds s v then (some Code.busy, s)
  else if sh < 10 ∨ 20 < sh ∨ a % n ≠ 0 ∨ clash then (some Code.badArgument, s)
  else (none, setSvc s v { getSvc s v with area := value &&& 0xFFFFFFFF, areaSet := true })

/-- R236, R257: a write of CS_POOL. -/
def poolWrite (s : State) (v : Nat) (value : Word) : Option Status × State :=
  let p := bits value.toNat 0 27
  let n := bits value.toNat 27 20
  if svcLocked s v || svcHolds s v then (some Code.busy, s)
  else if (List.range n).any fun i => (getPage s (p + i)).st == .unmapped then (some Code.pageState, s)
  else (none, setSvc s v { getSvc s v with pool := value &&& 0x7FFFFFFFFFFF })

/-- R232, R233: RELEASE of a sequence entry, of the running job or a saved one. -/
def releaseSeq (s : State) (q : Nat) : Status × State :=
  let e := getSeq s q
  if e.st ≠ 2 then (Code.sequenceBusy, s) else (Code.ok, freeSeq s e.job e.svc q [])

/-- R240: DROP_PREFIX: every unreferenced indexed block of a service leaves. -/
def dropPrefix (s : State) (v : Nat) : State :=
  setAdm s { s.adm with blocks := s.adm.blocks.filter fun b => !(b.svc == v && b.refs == 0 && b.hash.isSome && !b.busy) }

/-- R232, R240, R448: a write of CEL_CMD; its STATUS field reads the result. -/
def celCmdWrite (s : State) (value : Word) : Option Status × State :=
  let op := bits value.toNat 0 2
  let low := value.toNat % 2 ^ 18
  let put := fun (s : State) (low : Nat) (c : Status) => setAdm s { s.adm with cmd := BitVec.ofNat 64 (low + fld 32 c.toNat) }
  if op = 1 then
    let r := releaseSeq s (bits value.toNat 2 12)
    (none, put r.2 low r.1)
  else if op = 2 then (none, put (dropPrefix s (bits value.toNat 14 4)) low Code.ok)
  else (some Code.badArgument, put s (s.adm.cmd.toNat % 2 ^ 18) Code.badArgument)

/-! ### Cancelling, R254 -/

/-- R254: CANCEL of a tag of a host slot by a context: its status at once, or none where it waits for open requests. -/
def cancelReq (s : State) (ctx : Nat) (tag : Word) (host : Nat) : Option Status × Bool × State :=
  let ps := s.adm.pending.filter fun p => p.host == host && dTag p.desc == tag.toNat
  let open_ := s.adm.reqs.filter fun r => r.host == host && r.tag == tag && r.ended.isNone
  let known := (getHost s host).recent.contains tag
  let s := setAdm s { s.adm with pending := s.adm.pending.filter fun p => !(p.host == host && dTag p.desc == tag.toNat) }
  let s := ps.foldl (fun s p => noteRecent (postRecord s host (recordBytes (dTag p.desc) 3 Code.cancelled.toNat s.now 0)) host tag) s
  let got := !ps.isEmpty
  if open_.isEmpty then (some (if got then Code.cancelled else if known then Code.alreadyComplete else Code.unknownRequest), got, s)
  else
    (none, got, setAdm s { s.adm with reqs := s.adm.reqs.map fun r =>
      if r.host == host && r.tag == tag && r.ended.isNone then { r with cancels := r.cancels ++ [ctx] } else r })

end Sys2Proof.Machine
end

