-- ==== Sys2Proof/Machine/Image.lean ====
section
/-! DEFINITION. Configuration images (file 07): their format, and the checks of every record (R26, R33, R61, R87, R111, R130,
R151, R171, R180, R261). -/

namespace Sys2Proof.Machine

/-! ### The switch record, R26 -/

def swSelOk (v : Nat) : Bool := decide (v < 6) || (decide (8 ≤ v) && decide (v < 12)) || v == 15

/-- The network and output of every select. -/
def swAll : List (Nat × Nat) :=
  (List.range 3).flatMap fun n => (List.range (swOuts n)).map fun o => (n, o)

def swOk (c : Nat) (r : CellRec) : Bool :=
  swAll.all fun p =>
    let v := swSelect r.sw p.1 p.2
    swSelOk v && (decide (4 ≤ p.2) || (neighbour c p.2).isSome || v == 15) && (swActive r.sw || v == 15) &&
    (!(decide (8 ≤ v) && decide (v < 12)) || (suRec r.su (v - 8)).op != 0)

/-- R61, R87, R111: whether the record names source `src` of a network anywhere, so that the port it comes from is connected. -/
def srcUsed (r : CellRec) (n src : Nat) : Bool := !(feeds r n src).isEmpty

/-- Whether an output of the switch selects anything. -/
def outUsedSel (r : CellRec) (n o : Nat) : Bool := swSelect r.sw n o != 15

/-! ### The steering record, R130 -/

/-- The inputs that an operation uses: D0, D1, T. -/
def suInputs (op : Nat) : List Bool :=
  match op with
  | 1 => [true, false, true]
  | 2 => [true, true, true]
  | 3 => [true, true, true]
  | 4 => [true, false, true]
  | 5 => [true, false, true]
  | 6 => [true, false, false]
  | 7 => [false, false, true]
  | _ => [false, false, false]

/-- The units of the same switch that feed unit `k`. -/
def suFrom (r : CellRec) (k : Nat) : List Nat :=
  let u := suRec r.su k
  (((List.range 3).filter fun i => nth false (suInputs u.op) i).map (suSrc u)).filterMap fun v =>
    if 8 ≤ v ∧ v < 12 then some (v - 8) else none

/-- The units that reach a unit of the list in `n` steps or fewer. -/
def suReach (r : CellRec) : Nat → List Nat → List Nat
  | 0, l => l
  | n + 1, l => suReach r n (l ++ l.flatMap (suFrom r)).eraseDups

/-- R130: the source of input `i` of unit `k`. -/
def suSrcOk (r : CellRec) (k i : Nat) : Bool :=
  let u := suRec r.su k
  let v := suSrc u i
  let net := if i = 2 then 2 else u.dnet
  if !nth false (suInputs u.op) i then v == 15
  else if v = 14 then i == 1 && u.dnet != 2
  else if v < 6 then true
  else if 8 ≤ v ∧ v < 12 then
    let w := suRec r.su (v - 8)
    v != 8 + k && w.op != 0 && suOutNet w == net
  else false

/-- R130: the destinations of a ROUTE unit; nothing asks whether a unit among them takes the output. -/
def suDestOk (r : CellRec) (k : Nat) : Bool :=
  let u := suRec r.su k
  let l := u.dest.take (u.dcount + 1)
  l.eraseDups.length == l.length && (u.dest.drop (u.dcount + 1)).all (· == 0) &&
  (l.all fun d => if d < 8 then decide (d < swOuts u.dnet) && swSelect r.sw u.dnet d == 8 + k
    else decide (d < 12)) &&
  ((List.range (swOuts u.dnet)).all fun o => swSelect r.sw u.dnet o != 8 + k || l.contains o)

def suUnitOk (r : CellRec) (k : Nat) : Bool :=
  let u := suRec r.su k
  if u.op = 0 then leAt r.su (16 * k) 16 == 0
  else
    decide (u.op < 8) && decide (u.dnet < 3) && decide (u.grain < 3) && bits (leAt r.su (16 * k) 16) 103 25 == 0 &&
    ((List.range 3).all (suSrcOk r k)) && (u.dnet != 2 || u.grain == 0) && decide (u.glen ≤ 1024) &&
    (u.glen != 0 || !(u.grain == 2 || (u.grain == 1 && u.d1 == 14))) && (u.op != 5 || u.grain == 0) &&
    (u.op != 6 || (u.cmode == 0 && u.dnet != 2 && u.grain == 1) || (u.cmode == 1 && u.dnet == 1 && u.grain == 0) ||
      (u.cmode == 2 && u.dnet != 2 && u.grain == 0)) && u.cmode != 3 &&
    (u.op != 7 || u.dnet == 2) && (u.op != 1 || suDestOk r k) &&
    decide (u.initN ≤ 8) && (u.initN == 0 || nth false (suInputs u.op) 2) &&
    (swAll.all fun p => swSelect r.sw p.1 p.2 != 8 + k || p.1 == suOutNet u) &&
    !(suReach r 4 (suFrom r k)).contains k

def suOk (r : CellRec) : Bool := (List.range 4).all (suUnitOk r)

/-! ### The matrix record, R61 -/

/-- Table 3.1: the B_HOLD limit on K_BLOCKS. -/
def matHold (fmt : Nat) : Nat := nth 0 [48, 48, 48, 46, 46, 61, 61, 90, 24, 24] fmt

def matOk (r : CellRec) : Bool :=
  let w := leAt r.mat 0 16
  let m := matRec r.mat
  if !m.enable then w == 0
  else
    bits w 30 2 == 0 && bits w 58 70 == 0 && decide (m.op < 2) && decide (m.fmtA < 10) && decide (m.fmtB < 10) &&
    decide (m.outMode < 3) && decide (m.outFmt < 5) &&
    (if matFp m.fmtA || matFp m.fmtB then m.fmtA == m.fmtB else true) &&
    !(m.outMode == 1 && matFp m.fmtA) && (m.outMode != 0 || m.outFmt == 0) &&
    (!m.bHold || decide (m.kBlocks ≤ matHold m.fmtB)) &&
    (m.op != 1 || (m.fmtA == 0 && m.fmtB == 0 && !m.bHold)) &&
    outUsedSel r 0 4 && outUsedSel r 0 5 && (m.outMode == 0 || srcUsed r 0 4)

/-! ### The vector record, R87 -/

/-- R80: finite bounds with LO below HI. -/
def tabOk (t : FTab) : Bool :=
  let fin := fun (x : F32) => x.toNat / 2 ^ 23 % 256 != 255
  fin t.lo && fin t.hi && f32lt t.lo t.hi

/-- R85: the tile registers written by the stages and the sink. -/
def vecWrites (v : VecRec) : List Nat :=
  (((v.stages.filter fun g => g.opc == 8 || g.opc == 9 || g.opc == 10 || g.opc == 11).map VStage.treg) ++
    (if v.sinkTreg then [v.treg] else [])).eraseDups

def vstageOk (v : VecRec) (g : VStage) : Bool :=
  let noF := g.opc == 0 || g.opc == 4 || decide (8 ≤ g.opc)
  decide (g.opc < 14) && (decide (g.func < 5) || (decide (8 ≤ g.func) && decide (g.func < 12))) &&
  (!noF || g.func == 0) && (decide (g.func < 8) || bit v.tabs (g.func - 8)) && (g.opc != 12 || decide (g.srcA < 2))

/-- R83: at most one COMPRESS and one EXPAND, the EXPAND later; an EXPAND without a COMPRESS is in no later stage than one, and is
refused (log entry 94). -/
def vecPackOk (v : VecRec) : Bool :=
  let at' := fun opc => (List.range 6).filter fun i => (v.stages.map VStage.opc).getD i 0 == opc
  decide ((at' 12).length ≤ 1) && decide ((at' 13).length ≤ 1) &&
  ((at' 13).all fun e => (at' 12).any fun c => decide (c < e))

def vecOk (r : CellRec) : Bool :=
  let v := vecRec r.vec
  let m := matRec r.mat
  let w := leAt r.vec 0 16
  if !v.enable then r.vec.all (· == 0)
  else
    bits w 57 71 == 0 && decide (v.src < 3) && decide (v.inFmt < 5) && decide (v.outFmt < 5) && decide (v.loadTreg < 9) &&
    (if v.src = 0 then m.enable && m.outMode == 0 &&
        (if v.vtiles = 0 ∨ m.tileCount = 0 then v.vtiles == m.tileCount
         else m.tileCount == v.vtiles + if v.loadTreg < 8 then 1 else 0)
      else !m.enable) &&
    (!vecUsesSide v || !(v.src == 2 || m.enable)) && (!v.sinkCuo || m.outMode == 0) &&
    decide (1 ≤ v.laneCount) && decide (v.laneCount ≤ 64) && decide (1 ≤ v.rowCount) && decide (v.rowCount ≤ 64) &&
    v.stages.all (vstageOk v) && vecPackOk v && decide ((vecWrites v).length ≤ 2) &&
    ((List.range 4).all fun n => !bit v.tabs n || tabOk (vecTab v n)) &&
    (vecScalars v == 0 || outUsedSel r 1 4) && (!v.sinkScalar || srcUsed r 1 4) && (!v.tokenOut || srcUsed r 2 4) &&
    (v.src != 1 || outUsedSel r 0 4) && (!(v.src == 2 || vecUsesSide v) || outUsedSel r 0 5) &&
    (!v.sinkCuo || srcUsed r 0 4)

/-! ### The MU record, R111 -/

def regionOk (mu : List Byte) (i : Nat) : Bool :=
  let r := region mu i
  bits (leAt mu (4 * i) 4) 25 7 == 0 && decide (r.kind < 2) &&
  (!r.valid || (decide (1 ≤ r.banks) && decide (r.first + r.banks ≤ 32))) &&
  (!r.double || (r.banks % 2 == 0 && r.kind == 0)) && (r.double || (r.token == 0 && !r.ack))

/-- Valid regions do not overlap. -/
def regionsApart (mu : List Byte) : Bool :=
  (List.range 8).all fun i => (List.range i).all fun j =>
    let a := region mu i
    let b := region mu j
    !a.valid || !b.valid || decide (a.first + a.banks ≤ b.first) || decide (b.first + b.banks ≤ a.first)

def genOk (mu : List Byte) (off : Nat) (g p : GenRec) (isWrite : Bool) : Bool :=
  let w := leAt mu off 32
  let r := region mu g.region
  !bit w 11 && bits w 192 64 == 0 && decide (g.mode < 3) && decide (g.width < 5) &&
  (!g.enable ||
    (r.valid && !(isWrite && g.mode == 2) &&
     (if g.mode = 1 then r.kind == 1 && p.enable && p.mode == 1 && p.region == g.region && p.net == g.net else r.kind == 0) &&
     (if g.net = 1 then g.width == 4 else isWrite || g.width == 0) &&
     (g.mode != 2 || (bits w 48 16 == 1 && bits w 64 16 == 1 && bits w 80 16 == 1))))

def muOk (r : CellRec) : Bool :=
  let g := rdGen r.mu
  let w := wrGen r.mu
  ((List.range 8).all (regionOk r.mu)) && regionsApart r.mu && genOk r.mu 32 g w false && genOk r.mu 64 w g true &&
  !(g.enable && g.mode == 2 && w.enable && w.net == 1) &&
  (!g.enable || srcUsed r g.net 5) && (!(g.enable && g.mode == 2) || outUsedSel r 1 5) &&
  (!w.enable || (if w.net = 0 then outUsedSel r 0 6 else outUsedSel r 1 5)) &&
  ((List.range 8).all fun i =>
    let x := region r.mu i
    !x.valid || ((x.token == 0 || outUsedSel r 2 5) && (!x.ack || srcUsed r 2 5)))

/-- The records of a cell in the order of Table 7.1: the kind of Table 7.5, the status and the offset of the first malformed. -/
def cellBad (c : Nat) (r : CellRec) : Option (Nat × Status × Nat) :=
  if !swOk c r then some (1, Code.badSwitchRecord, 0)
  else if !suOk r then some (2, Code.badSteeringRecord, 16)
  else if !matOk r then some (3, Code.badMatrixRecord, 80)
  else if !muOk r then some (4, Code.badMuRecord, 96)
  else if !vecOk r then some (5, Code.badVectorRecord, 192)
  else none

/-! ### Timers, wait bytes, streams, the schedule -/

def recAt (recs : List (Nat × CellRec)) (c : Nat) : CellRec := Tbl.get {} recs c

/-- R33: an armed timer is at most 16 µs long and names active switches. -/
def timerOk (recs : List (Nat × CellRec)) (w : Nat) : Bool :=
  !bit w 0 || (decide (bits w 32 15 ≤ 25600) && decide (bits w 1 2 < 2) && bits w 15 1 == 0 && bits w 28 4 == 0 &&
    bits w 47 17 == 0 && swActive (recAt recs (bits w 3 9)).sw && swActive (recAt recs (bits w 16 9)).sw)

/-- The neighbours that a wait byte names (R148): bits 0 to 3 are N, E, S, W. -/
def waitCells (c w : Nat) : List (Option Nat) :=
  ((List.range 4).filter fun o => bit w o).map fun o => (neighbour c o).map Prod.fst

/-- R151: one wait byte alone. -/
def waitOk (c w : Nat) : Bool := w != 0 && decide (w < 32) && (waitCells c w).all Option.isSome

/-- R151: the cells that the wave reaches when those of `met` are met. -/
def waitStep (wait : Nat → Nat) (met : List Nat) : List Nat :=
  (List.range 512).filter fun c => (waitCells c (wait c)).all fun d => d.all met.contains

def waitRounds (wait : Nat → Nat) : Nat → List Nat → List Nat
  | 0, met => met
  | n + 1, met =>
    let next := waitStep wait met
    if next.length = met.length then met else waitRounds wait n next

/-- R151: no cycle of waits. -/
def waitAcyclic (wait : Nat → Nat) : Bool := (waitRounds wait 513 []).length == 512

/-- R171: the STREAMS header. -/
def pinsOk (hd : List Byte) : Bool :=
  let w := leAt hd 0 64
  decide (bits w 0 4 ≤ 12) && decide (bits w 4 4 ≤ 12) && w / 256 == 0

/-- R171: a stream descriptor. -/
def streamOk (recs : List (Nat × CellRec)) (pins : Nat) (d : Nat) (bs : List Byte) : Bool :=
  let w := leAt bs 0 64
  let r := strRec bs
  if !r.enable then w == 0
  else
    let g := region (recAt recs (d / 4)).mu r.region
    bits w 9 7 == 0 && bits w 37 27 == 0 && bits w 112 16 == 0 && bits w 143 17 == 0 && bits w 272 240 == 0 &&
    decide (r.cache < 3) && decide (1 ≤ r.words) && decide (r.words ≤ 24576) && r.off % 64 == 0 && r.addr % 64 == 0 &&
    r.stride1 % 64 == 0 && r.stride2 % 64 == 0 && g.valid && g.kind == 0 &&
    decide (r.off + 64 * strTotal r ≤ regionSize g) && (!(d / 2 % 2 == 1) || r.cache == 0) &&
    (r.cache != 2 || bits pins (4 * dieOf (d / 4)) 4 != 0)

/-- R180: the SCHEDULE section of `n` entries. -/
def schedOk (timers : List (Nat × Word)) (sec : List Byte) (n : Nat) : Bool :=
  let h := leAt sec 0 16
  decide (n ≤ 8192) && bits h 4 12 == 0 && h / 2 ^ 32 == 0 && bits h 16 16 != 0 &&
  (!bit h 3 || (Tbl.get 0 timers (bits h 0 3)).getLsbD 0) &&
  (List.range n).all fun k =>
    let w := leAt sec (16 + 16 * k) 16
    bits w 22 10 == 0 && bits w 96 32 == 0 && decide (bits w 16 2 < 2) && bits w 64 16 != 0 &&
    (bits w 0 16 == 0xFFFF || decide (bits w 0 16 < bits h 16 16))

/-! ### The LADLE section, R261 -/

/-- The bytes of an element of a Ladle format: EXA, FP32, BF16, FP16, E4M3, E5M2. -/
def ladWidth (fmt : Nat) : Nat := nth 1 [16, 4, 2, 2, 1, 1] fmt

def isDouble (recs : List (Nat × CellRec)) (c r : Nat) : Bool :=
  let g := region (recAt recs c).mu r
  g.valid && g.double

def ladDispOk (recs : List (Nat × CellRec)) (sec : List Byte) (d : Nat) : Bool :=
  let w := leAt sec (ladDispAt sec + 64 * d) 64
  let x := ladDispOf w
  let route := region (recAt recs x.src).mu x.routeReg
  let half := fun c r => regionSize (region (recAt recs c).mu r)
  let queues := fun t => ((List.range 4096).map fun b => (ladBucket sec t b).2).eraseDups
  w / 2 ^ 143 == 0 && decide (1 ≤ x.rows) && decide (x.rows ≤ 1024) && decide (1 ≤ x.rowUnits) && decide (x.rowUnits ≤ 16) &&
  decide (1 ≤ x.ansUnits) && decide (x.ansFmt < 4) && decide (x.outFmt < 6) && x.routeOff % 4 == 0 &&
  (x.tables.all fun t => decide (t < ladTables sec)) && isDouble recs x.src x.srcReg && isDouble recs x.ans x.ansReg &&
  isDouble recs x.ans x.resReg && route.valid && !route.double && route.kind == 0 &&
  decide (x.routeOff + 8 * x.rows ≤ regionSize route) &&
  decide (x.rows * x.tables.length * x.ansUnits * 512 ≤ half x.ans x.ansReg) &&
  decide (x.rows * (x.ansUnits * 512 * ladWidth x.outFmt / ladWidth x.ansFmt) ≤ half x.ans x.resReg) &&
  (x.ansFmt == 0 || x.outFmt == x.ansFmt) &&
  ((List.range x.tables.length).all fun i => (List.range i).all fun j =>
    (queues (nth 0 x.tables i)).all fun q => !(queues (nth 0 x.tables j)).contains q)

def ladCollOk (recs : List (Nat × CellRec)) (sec : List Byte) (c : Nat) : Bool :=
  let w := leAt sec (ladCollAt sec + 32 * c) 32
  let x := ladCollOf w
  w / 2 ^ 52 == 0 && decide (1 ≤ x.tileRows) && decide (x.tileRows ≤ 64) && decide (1 ≤ x.rowUnits) &&
  decide (x.rowUnits ≤ 16) && decide (1 ≤ x.ansUnits) && isDouble recs x.cell x.reg && isDouble recs x.ans x.ansReg

/-- R261: in one table an expert has one queue and a queue one expert, below QUEUES. -/
def ladTableOk (sec : List Byte) (t : Nat) : Bool :=
  let l := ((List.range 4096).map (ladBucket sec t)).eraseDups
  (leAt sec (ladTabAt t) 16) / 2 ^ 80 == 0 &&
  ((List.range 4096).all fun b => (leAt sec (ladTabAt t + 16 + 4 * b) 4) / 2 ^ 20 == 0) &&
  (l.all fun p => decide (p.2 < ladQueues sec)) &&
  (l.map Prod.fst).eraseDups.length == l.length && (l.map Prod.snd).eraseDups.length == l.length

/-- R261. -/
def ladleOk (recs : List (Nat × CellRec)) (sec : List Byte) : Bool :=
  let h := leAt sec 0 64
  decide (ladEnd sec ≤ sec.length) && bits h 7 9 == 0 && bits h 27 5 == 0 && bits h 37 3 == 0 && h / 2 ^ 47 == 0 &&
  decide (1 ≤ ladTables sec) && decide (ladTables sec ≤ 64) && decide (1 ≤ ladQueues sec) && decide (ladQueues sec ≤ 1024) &&
  decide (ladDisps sec ≤ 16) && decide (ladColls sec ≤ 64) && ((List.range (ladTables sec)).all (ladTableOk sec)) &&
  ((List.range (ladQueues sec)).all fun q => (leAt sec (ladMapAt sec + 8 * q) 8) / 256 == 0) &&
  ((List.range (ladDisps sec)).all (ladDispOk recs sec)) && ((List.range (ladColls sec)).all (ladCollOk recs sec))

/-! ### Preload blocks, R146 -/

/-- The blocks of a PRELOAD section of `n` blocks; none where it is malformed. -/
def preBlocks (recs : List (Nat × CellRec)) : Nat → List Byte → Option (List PreBlock)
  | 0, _ => some []
  | n + 1, bs =>
    let h := leAt bs 0 16
    let len := bits h 64 32
    let b : PreBlock := ⟨bits h 0 9, bits h 9 3, bits h 32 32, (bs.drop 16).take len⟩
    let g := region (recAt recs b.cell).mu b.region
    if bits h 12 20 != 0 || h / 2 ^ 96 != 0 || decide (bs.length < 16 + up64 len) || !g.valid ||
       decide (regionSize g < b.off + len) then none
    else (preBlocks recs n (bs.drop (16 + up64 len))).map (b :: ·)

/-! ### The image, R138 to R141 -/

/-- The failure of a registration: status, cell, kind and image offset. -/
structure ImgBad where
  code : Status
  cell : Nat := 0
  kind : Nat := 0
  off : Nat := 0
  deriving DecidableEq, Repr

/-- The image header, Table 7.2. -/
structure ImgHd where
  overlay : Bool
  sections : Nat
  bytes : Nat
  check : Nat
  id : Nat
  base : Nat
  index : Nat
  deriving DecidableEq, Repr

def imgHd (bs : List Byte) : ImgHd :=
  let w := leAt bs 0 64
  { overlay := bit w 48, sections := bits w 56 8, bytes := bits w 64 32, check := bits w 96 32, id := bits w 128 64,
    base := bits w 192 64, index := bits w 256 4 }

/-- R138: the header; the first failure. -/
def hdBad (bs : List Byte) : Option ImgBad :=
  let w := leAt bs 0 64
  let h := imgHd bs
  if bits w 0 32 ≠ 0x56584346 ∨ bits w 32 16 ≠ 1 ∨ bits w 49 7 ≠ 0 ∨ w / 2 ^ 260 ≠ 0 ∨ h.sections = 0 ∨ 16 < h.sections ∨
     h.id = 0 ∨ h.bytes % 64 ≠ 0 ∨ h.bytes = 0 ∨ (!h.overlay && (h.base != 0 || h.index != 0)) then
    some { code := Code.imageFormat }
  else if (if h.overlay then 2 ^ 20 else 2 ^ 25) < h.bytes then some { code := Code.imageSize, off := 8 }
  else none

/-- The CHECK of an image: the CRC-32C with the CHECK field as zero. -/
def imgCrc (img : List Byte) : Nat := crc32c (splice img 12 [0, 0, 0, 0])

/-- A section entry, Table 7.3, with the place of the entry. -/
structure Sect where
  type : Nat
  count : Nat
  off : Nat
  len : Nat
  entry : Nat
  deriving DecidableEq, Repr

def sectOf (img : List Byte) (j : Nat) : Sect :=
  let w := leAt img (64 + 16 * j) 16
  ⟨bits w 0 8, bits w 32 32, bits w 64 32, bits w 96 32, 64 + 16 * j⟩

def sects (img : List Byte) : List Sect := (List.range (imgHd img).sections).map (sectOf img)

/-- The section of a type, if the image holds one. -/
def sectFind (img : List Byte) (t : Nat) : Option Sect := (sects img).find? fun x => x.type == t
def sectBytes (img : List Byte) (x : Sect) : List Byte := (img.drop x.off).take x.len
def sectData (img : List Byte) (t : Nat) : List Byte := (sectFind img t).elim [] (sectBytes img)
def sectCount (img : List Byte) (t : Nat) : Nat := (sectFind img t).elim 0 Sect.count
def sectOff (img : List Byte) (t : Nat) : Nat := (sectFind img t).elim 0 Sect.off

/-- R139, R140: one section entry. -/
def sectBad (img : List Byte) (overlay : Bool) (x : Sect) : Option ImgBad :=
  let l := sects img
  let w := leAt img x.entry 16
  let others := l.filter fun y => y.entry != x.entry
  if x.type = 0 ∨ 8 < x.type ∨ bits w 8 24 ≠ 0 ∨ x.off % 64 ≠ 0 ∨ others.any (fun y => y.type == x.type) ∨
     (if overlay then x.type ≠ 6 ∧ x.type ≠ 8 else x.type = 8) then some { code := Code.imageFormat, off := x.entry }
  else if img.length < x.off + x.len then some { code := Code.imageSize, off := x.entry }
  else if x.off < 64 + 16 * l.length ∨
      others.any (fun y => decide (y.entry < x.entry) && decide (x.off < y.off + y.len) && decide (y.off < x.off + x.len)) then
    some { code := Code.imageFormat, off := x.entry }
  else none

def sectsBad (img : List Byte) (overlay : Bool) : Option ImgBad :=
  match (sects img).findSome? (sectBad img overlay) with
  | some b => some b
  | none =>
    if (if overlay then [8] else [1, 3]).all fun t => (sectFind img t).isSome then none
    else some { code := Code.imageFormat, off := 64 }

/-- The length of a vector record with its function tables, R137. -/
def vecLen (hd : List Byte) : Nat := 64 + 784 * ((List.range 4).filter fun i => bit (leAt hd 0 16) (53 + i)).length

/-- R137: the cell record at the head of the bytes, without its wait byte. -/
def cellRecOf (bs : List Byte) : CellRec :=
  { sw := bs.take 16, su := (bs.drop 16).take 64, mat := (bs.drop 80).take 16, mu := (bs.drop 96).take 96,
    vec := (bs.drop 192).take (vecLen (bs.drop 192)) }

/-- R140: the records of cells `c` upwards with their offsets; none where the section ends early. -/
def cellsOf : Nat → Nat → Nat → List Byte → Option (List (Nat × CellRec) × List (Nat × Nat))
  | 0, _, _, _ => some ([], [])
  | n + 1, c, off, bs =>
    let len := up64 (192 + vecLen (bs.drop 192))
    if bs.length < len then none
    else (cellsOf n (c + 1) (off + len) (bs.drop len)).map fun t => ((c, cellRecOf bs) :: t.1, (c, off) :: t.2)

/-- A patch entry, R141. -/
structure Patch where
  kind : Nat
  index : Nat
  body : List Byte
  off : Nat
  deriving DecidableEq, Repr

/-- Table 7.5: the length that a kind's body must have, given the body. -/
def patchLen (kind : Nat) (body : List Byte) : Nat :=
  match kind with
  | 1 => 16
  | 2 => 64
  | 3 => 16
  | 4 => 96
  | 5 => vecLen body
  | 6 => 1
  | 7 => 8
  | 8 => 64
  | _ => body.length

/-- Table 7.5: the indices of a kind. -/
def patchIdx (kind : Nat) : Nat := nth 0 [0, 512, 512, 512, 512, 512, 512, 8, 2048, 1, 1] kind

/-- R141: the entries of a PATCH section; none where one is malformed. -/
def patches : Nat → Nat → List Byte → Option (List Patch)
  | 0, _, _ => some []
  | n + 1, off, bs =>
    let h := leAt bs 0 8
    let len := bits h 24 32
    let p : Patch := ⟨bits h 0 8, bits h 8 16, (bs.drop 8).take len, off⟩
    let whole := 8 + (len + 7) / 8 * 8
    if h / 2 ^ 56 != 0 || decide (patchIdx p.kind ≤ p.index) || decide (bs.length < whole) || len != patchLen p.kind p.body ||
       !(((bs.drop (8 + len)).take (whole - 8 - len)).all (· == 0)) then
      none
    else (patches n (off + whole) (bs.drop whole)).map (p :: ·)

/-- What an image holds: cells, tables, and where each record of a kind and index stands in the image. -/
structure Conf where
  recs : List (Nat × CellRec) := []
  tables : ConfTables := {}
  offs : List (Nat × Nat) := []
  deriving DecidableEq, Repr

def offKey (kind index : Nat) : Nat := 4096 * kind + index
def confOff (c : Conf) (kind index : Nat) : Nat := Tbl.get 0 c.offs (offKey kind index)

/-- A table from a list, in key order, without its defaults. -/
def tblOf {α : Type} [DecidableEq α] (d : α) (l : List (Nat × α)) : List (Nat × α) :=
  l.foldl (fun t p => Tbl.set d t p.1 p.2) []

/-- The timers of a TIMERS section. -/
def timersOf (bs : List Byte) (n : Nat) : List (Nat × Word) :=
  tblOf 0 ((List.range n).map fun t => (t, BitVec.ofNat 64 (leAt bs (8 * t) 8)))

/-- The descriptors of a STREAMS section, and its header at index 2048. -/
def streamsOf (bs : List Byte) : List (Nat × List Byte) :=
  if bs.isEmpty then []
  else tblOf [] (((List.range 2048).map fun d =>
      let x := (bs.drop (64 + 64 * d)).take 64
      (d, if x.all (· == 0) then [] else x)) ++ [(2048, bs.take 64)])

/-- The whole of a base image, R140; the failure is that of a malformed section. -/
def baseConf (img : List Byte) : Except ImgBad Conf :=
  let at' := sectOff img
  if sectCount img 1 ≠ 512 then .error { code := Code.imageFormat, off := at' 1 }
  else match cellsOf 512 0 (at' 1) (sectData img 1) with
  | none => .error { code := Code.imageFormat, off := at' 1 }
  | some (cells, offs) =>
    let waits := sectData img 3
    if sectCount img 3 ≠ 512 ∨ waits.length < 512 then .error { code := Code.imageFormat, off := at' 3 }
    else if 8 < sectCount img 2 ∨ (sectData img 2).length < 8 * sectCount img 2 then .error { code := Code.imageFormat, off := at' 2 }
    else if (sectFind img 4).isSome ∧ (sectData img 4).length ≠ 131136 then .error { code := Code.badStream, kind := 8, off := at' 4 }
    else if (sectFind img 5).isSome ∧ (sectData img 5).length < 16 + 16 * sectCount img 5 then
      .error { code := Code.badTable, kind := 9, off := at' 5 }
    else .ok {
      recs := tblOf {} (cells.map fun p => (p.1, { p.2 with wait := nth 0 waits p.1 }))
      tables := {
        timers := timersOf (sectData img 2) (sectCount img 2), streams := streamsOf (sectData img 4),
        sched := (sectData img 5).take (16 + 16 * sectCount img 5), ladle := sectData img 7 }
      offs := tblOf 0 (
        (offs.flatMap fun p => [(offKey 1 p.1, p.2), (offKey 2 p.1, p.2 + 16), (offKey 3 p.1, p.2 + 80),
          (offKey 4 p.1, p.2 + 96), (offKey 5 p.1, p.2 + 192), (offKey 6 p.1, at' 3 + p.1)]) ++
        ((List.range 8).map fun t => (offKey 7 t, at' 2 + 8 * t)) ++
        ((List.range 2049).map fun d => (offKey 8 d, if d = 2048 then at' 4 else at' 4 + 64 + 64 * d)) ++
        [(offKey 9 0, at' 5), (offKey 10 0, at' 7)]) }

/-- R142: one record replaced. -/
def patchApply (c : Conf) (p : Patch) : Conf :=
  let r := recAt c.recs p.index
  let put := fun (r : CellRec) => { c with recs := Tbl.set {} c.recs p.index r }
  match p.kind with
  | 1 => put { r with sw := p.body }
  | 2 => put { r with su := p.body }
  | 3 => put { r with mat := p.body }
  | 4 => put { r with mu := p.body }
  | 5 => put { r with vec := p.body }
  | 6 => put { r with wait := nth 0 p.body 0 }
  | 7 => { c with tables := { c.tables with timers := Tbl.set 0 c.tables.timers p.index (BitVec.ofNat 64 (leNat p.body)) } }
  | 8 =>
    let b := if p.body.all (· == 0) then [] else p.body
    { c with tables := { c.tables with streams := Tbl.set [] c.tables.streams p.index b } }
  | 9 => { c with tables := { c.tables with sched := p.body } }
  | 10 => { c with tables := { c.tables with ladle := p.body } }
  | _ => c

/-- R142: an overlay's patch composed onto its base's configuration; offsets are those of the overlay's own entries. -/
def composeConf (base : Conf) (ps : List Patch) : Conf :=
  { ps.foldl patchApply base with offs := tblOf 0 (ps.map fun p => (offKey p.kind p.index, p.off)) }

/-- R141: the patch of an overlay. -/
def overlayPatch (img : List Byte) : Except ImgBad (List Patch) :=
  match patches (sectCount img 8) (sectOff img 8) (sectData img 8) with
  | none => .error { code := Code.imageFormat, off := sectOff img 8 }
  | some ps =>
    let keys := ps.map fun p => offKey p.kind p.index
    if keys.eraseDups.length = keys.length then .ok ps else .error { code := Code.imageFormat, off := sectOff img 8 }

/-- R144: the checks of a whole configuration: its records, wait bytes, timers, streams, schedule and LADLE section. -/
def confBad (c : Conf) : Option ImgBad :=
  let recBad := (List.range 512).findSome? fun i => (cellBad i (recAt c.recs i)).map fun b =>
    ({ code := b.2.1, cell := i, kind := b.1, off := confOff c b.1 i } : ImgBad)
  let waitAt := fun i => (recAt c.recs i).wait.toNat
  let waitBad := (List.range 512).findSome? fun i => if waitOk i (waitAt i) then none
    else some ({ code := Code.waveCycle, cell := i, kind := 6, off := confOff c 6 i } : ImgBad)
  let timerBad := (List.range 8).findSome? fun t => if timerOk c.recs (Tbl.get 0 c.tables.timers t).toNat then none
    else some ({ code := Code.badBeatTimer, kind := 7, off := confOff c 7 t } : ImgBad)
  let hd := Tbl.get [] c.tables.streams 2048
  let strBad := if !pinsOk hd then some ({ code := Code.badStream, kind := 8, off := confOff c 8 2048 } : ImgBad)
    else (c.tables.streams.filter fun p => decide (p.1 < 2048)).findSome? fun p =>
      if streamOk c.recs (leAt hd 0 1) p.1 p.2 then none
      else some { code := Code.badStream, cell := p.1 / 4, kind := 8, off := confOff c 8 p.1 }
  let n := (c.tables.sched.length - 16) / 16
  let schedBad := if c.tables.sched.isEmpty || schedOk c.tables.timers c.tables.sched n then none
    else some ({ code := Code.badTable, kind := 9, off := confOff c 9 0 } : ImgBad)
  let ladBad := if c.tables.ladle.isEmpty || ladleOk c.recs c.tables.ladle then none
    else some ({ code := Code.badTable, kind := 10, off := confOff c 10 0 } : ImgBad)
  [recBad, timerBad, if waitBad.isSome then waitBad
    else if waitAcyclic waitAt then none else some { code := Code.waveCycle, kind := 6, off := confOff c 6 0 },
   strBad, schedBad, ladBad].findSome? id

/-- R146: the PRELOAD section of an image as blocks of its configuration. -/
def imgPreload (recs : List (Nat × CellRec)) (img : List Byte) : Option (List PreBlock) :=
  if (sectFind img 6).isSome then preBlocks recs (sectCount img 6) (sectData img 6) else some []

/-- R138 to R141: header, CHECK and section table of an image. -/
def imgShape (img : List Byte) : Option ImgBad :=
  match hdBad img with
  | some b => some b
  | none =>
    if imgCrc img ≠ (imgHd img).check then some { code := Code.imageCheck, off := 12 } else sectsBad img (imgHd img).overlay

end Sys2Proof.Machine
end

