-- ==== Sys2Proof/Machine/Churn.lean ====
section
/-! DEFINITION. The Churn (file 07): registering and loading images, the swap, the wave and the cells' commits. -/

namespace Sys2Proof.Machine

/-! ### The image table, R144 -/

def getImg (s : State) (i : Nat) : ImgSlot := nth {} s.job.churn.images i
def setImg (s : State) (i : Nat) (v : ImgSlot) : State :=
  setChurn s { s.job.churn with images := s.job.churn.images.set i v }

/-- R144: the first page of an image that a registration cannot read. -/
def imgPages (s : State) (addr n : Nat) : Option ImgBad :=
  (List.range ((addr % pageBytes + n + pageBytes - 1) / pageBytes)).findSome? fun i =>
    let p := addr / pageBytes + i
    let off := if i = 0 then 0 else p * pageBytes - addr
    match addrState s (p * pageBytes) with
    | .unmapped => some { code := Code.unmappedAddress, off := off }
    | .absent _ => some { code := Code.pageState, off := off }
    | _ => none

def imgBytes (s : State) (addr n : Nat) : List Byte := devReadAll s addr (n / 64)

/-- R144: the slot of the registered base with an identity. -/
def baseOf (s : State) (id : Nat) : Option Nat :=
  (List.range 64).find? fun j => (getImg s j).st == 2 && !(getImg s j).overlay && (getImg s j).id == id

/-- R144, Table 7.9: a register operation: its status, the image slot and the state. -/
def imgRegister (s : State) (o : OpRef) (addr : Nat) : Status × Nat × State :=
  let free := (List.range 64).filter fun i => (getImg s i).st == 0
  if 2 ^ 48 ≤ addr ∨ addr % 4096 ≠ 0 then (Code.badArgument, 0, s)
  else if free.isEmpty then (Code.imageTableFull, 0, s)
  else
    let c := choose s free.length
    let i := nth 0 free c.1
    let hd := if (imgPages s addr 64).isSome then [] else imgBytes s addr 64
    let ok := (hdBad hd).isNone
    let h := imgHd hd
    let v : ImgSlot := { st := 1, addr := addr, bytes := if ok then h.bytes else 64, overlay := ok && h.overlay,
                         ovlIndex := if ok then h.index else 0, baseSlot := if ok && h.overlay then (baseOf s h.base).getD 0 else 0,
                         forOp := { o with imm := BitVec.ofNat 16 i } }
    (Code.ok, i, setImg c.2 i v)

/-- R144: what a registration finds: the slot as registered, or the failure. -/
def imgVet (s : State) (i : Nat) : Except ImgBad ImgSlot :=
  let v := getImg s i
  match imgPages s v.addr 64 with
  | some b => .error b
  | none =>
    let hd := imgBytes s v.addr 64
    let h := imgHd hd
    match hdBad hd with
    | some b => .error b
    | none => match imgPages s v.addr h.bytes with
    | some b => .error b
    | none =>
      let img := imgBytes s v.addr h.bytes
      match imgShape img with
      | some b => .error b
      | none =>
        let preBad := fun (c : Conf) => if (imgPreload c.recs img).isSome then none
          else some ({ code := Code.badTable, off := sectOff img 6 } : ImgBad)
        let done := { v with st := 2, bytes := h.bytes, overlay := h.overlay, ovlIndex := h.index, id := h.id }
        if !h.overlay then
          match baseConf img with
          | .error b => .error b
          | .ok c => match (confBad c).or (preBad c) with
            | some b => .error b
            | none => .ok done
        else
          match baseOf s h.base with
          | none => .error { code := Code.overlayBaseMismatch, off := 24 }
          | some j =>
            let sibs := (List.range 64).filter fun k => k != i && (getImg s k).st == 2 && (getImg s k).overlay && (getImg s k).baseSlot == j
            if 16 ≤ sibs.length ∨ sibs.any (fun k => (getImg s k).ovlIndex == h.index) then
              .error { code := Code.imageTableFull, off := 32 }
            else match overlayPatch img, baseConf (imgBytes s (getImg s j).addr (getImg s j).bytes) with
              | .error b, _ => .error b
              | _, .error _ => .error { code := Code.overlayBaseMismatch, off := 24 }
              | .ok ps, .ok base =>
                let c := composeConf base ps
                match (confBad c).or (preBad c) with
                | some b => .error b
                | none => .ok { done with baseSlot := j }

/-- R144: a registration ends. -/
def registrationComplete (s : State) (i : Nat) : State :=
  let v := getImg s i
  if v.st != 1 || !jobHeld s then s
  else match imgVet s i with
  | .ok w => opDone (setImg s i w) v.forOp Code.ok
  | .error b => opDone (noteCfg (setImg s i { v with st := 3 }) b.code b.cell b.kind i b.off) v.forOp b.code

def execRegistrationComplete (img : Fin 64) (s : State) : Host.Outcome State Fault Refusal :=
  .next (registrationComplete s img)

/-- Whether an image is part of the configuration in force. -/
def imgInForce (s : State) (i : Nat) : Bool :=
  let c := s.job.churn
  (c.baseValid && c.baseSlot == i) || (c.ovlValid && c.ovlSlot == i)

/-- Whether an image is held in the shadow. -/
def imgInShadow (s : State) (i : Nat) : Bool :=
  let h := s.job.churn.shadow
  h.st != 0 && (h.slot == i || ((getImg s h.slot).overlay && (getImg s h.slot).baseSlot == i))

/-- R144, R154: a release operation. -/
def imgRelease (s : State) (i : Nat) : Status × State :=
  let v := getImg s i
  if 64 ≤ i then (Code.badArgument, s)
  else if v.st = 0 then (Code.notRegistered, s)
  else if v.st = 1 then (Code.busy, s)
  else if v.st = 2 ∧ (imgInForce s i || imgInShadow s i ||
      ((!v.overlay) && (List.range 64).any fun k => (getImg s k).st == 2 && (getImg s k).overlay && (getImg s k).baseSlot == i)) then
    (Code.imageInUse, s)
  else (Code.ok, setImg s i {})

/-! ### The shadow, R145, R146 -/

/-- The cells of two record tables. -/
def bothCells (a b : List (Nat × CellRec)) : List Nat := ((a ++ b).map Prod.fst).eraseDups

/-- R145: the shadow is emptied; banks woken for it leave use. -/
def dropShadow (s : State) : State :=
  let h := s.job.churn.shadow
  let s := setChurn s { s.job.churn with shadow := { waiting := h.waiting } }
  (h.recs.map Prod.fst).foldl freeBanks s

/-- R145: a load operation. -/
def shadowLoad (s : State) (o : OpRef) (i : Nat) : Status × State :=
  let h := s.job.churn.shadow
  if 64 ≤ i then (Code.badArgument, s)
  else if (getImg s i).st ≠ 2 then (Code.notRegistered, s)
  else if h.st = 3 ∨ s.job.churn.wave.active then (Code.shadowBusy, s)
  else
    let s := if h.st = 1 then opDone s h.forOp Code.shadowBusy else s
    let s := dropShadow s
    (Code.ok, setChurn s { s.job.churn with shadow := { s.job.churn.shadow with st := 1, slot := i, forOp := o } })

/-- R145: whether a record set makes a switch or a unit of the cell active. -/
def cellActive (r : CellRec) : Bool :=
  swActive r.sw || ((List.range 4).any fun k => (suRec r.su k).op != 0) || (matRec r.mat).enable || (vecRec r.vec).enable ||
  (rdGen r.mu).enable || (wrGen r.mu).enable || recBanks r.mu != 0

/-- R21: a logical cell whose pair is marked FAILED. -/
def cellFailed (s : State) (c : Nat) : Bool := (nth {} s.dies (dieOf c)).failed.contains (physPair s c)

/-- R21, R145: the first cell of a footprint that lies on a failed pair. -/
def footprintBad (s : State) (recs : List (Nat × CellRec)) : Option Nat :=
  (recs.find? fun p => cellActive p.2 && cellFailed s p.1).map Prod.fst

/-- The configuration that an image slot names, with its preload blocks; the failure is that of R145. For an overlay CHECK is that of
the overlay, the image that is loaded; its base's bytes are read again without theirs (log entry 95). -/
def imgConf (s : State) (i : Nat) : Except ImgBad (Conf × List PreBlock) :=
  let v := getImg s i
  let img := imgBytes s v.addr v.bytes
  if imgCrc img ≠ (imgHd img).check then .error { code := Code.imageCheck, off := 12 }
  else
    let conf := if v.overlay then
        let b := getImg s v.baseSlot
        match overlayPatch img, baseConf (imgBytes s b.addr b.bytes) with
        | .ok ps, .ok base => some (composeConf base ps)
        | _, _ => none
      else match baseConf img with
        | .ok c => some c
        | .error _ => none
    match conf with
    | none => .error { code := Code.imageCheck, off := 12 }
    | some c => match imgPreload c.recs img with
      | none => .error { code := Code.imageCheck, off := 12 }
      | some pre => .ok (c, pre)

/-- The MU address of a preload block. -/
def preAddr (recs : List (Nat × CellRec)) (b : PreBlock) : Nat :=
  regionBase (region (recAt recs b.cell).mu b.region) false + b.off

/-- The banks that a preload block touches. -/
def preBanks (recs : List (Nat × CellRec)) (b : PreBlock) : List Nat :=
  let a := preAddr recs b
  (List.range 32).filter fun k => decide (a < (k + 1) * bankBytes) && decide (k * bankBytes < a + b.data.length)

/-- R106, R110, R146: the banks of a cell that stay in use while the shadow loads: those of regions in force and of open windows. -/
def heldBanks (s : State) (c : Nat) : BitVec 32 := recBanks (getRec s c).mu ||| windowBanks s c

/-- R146: a preload block cut at the bounds of banks. -/
def preCut (recs : List (Nat × CellRec)) (b : PreBlock) : List (Nat × PreBlock) :=
  let a := preAddr recs b
  (preBanks recs b).map fun k =>
    let lo := max a (k * bankBytes)
    let hi := min (a + b.data.length) ((k + 1) * bankBytes)
    (k, { b with off := b.off + (lo - a), data := (b.data.drop (lo - a)).take (hi - lo) })

/-- R110, R146: the banks of a cell that the new configuration needs and that are not in use are woken and zeroed; those that a preload
block fills are ready, the others as BANK_WAKE says. -/
def wakeCell (s : State) (new : List (Nat × CellRec)) (pre : List PreBlock) (c : Nat) : State :=
  let need := recBanks (recAt new c).mu &&& ~~~heldBanks s c
  if need = 0 then s
  else
    let now := need &&& bankMask ((pre.filter fun b => b.cell == c).flatMap (preBanks new))
    let s := muSet s c (coalFlush (getCell s c).mu fun w => now.getLsbD (w / 768))
    let m := (getCell s c).mu
    let banks := (List.range 32).filter fun k => now.getLsbD k && !(m.powered.getLsbD k && !m.dirty.getLsbD k)
    let z := banks.foldl (fun m k => muZero m (k * bankBytes) bankBytes) m
    { setMu s c { z with
        powered := m.powered ||| now, zeroing := (m.zeroing ||| (need &&& m.powered &&& m.dirty)) &&& ~~~now
        waking := (m.waking ||| (need &&& ~~~m.powered)) &&& ~~~now } with
      counts := { s.counts with zeroings := s.counts.zeroings + banks.length } }

/-- R146, R109: preload blocks of a cell, each within one bank, written. -/
def prePut (s : State) (recs : List (Nat × CellRec)) (pre : List PreBlock) (c : Nat) : State :=
  (pre.filter fun b => b.cell == c).foldl (fun s b =>
    let a := preAddr recs b
    let s := bankSettle s c a b.data.length
    setMu s c (muWrite b.data.length (getCell s c).mu a b.data)) s

/-- R154, R148: a swap begins. -/
def beginSwap (s : State) (o : OpRef) : State :=
  let c := s.job.churn
  setChurn s { c with
    shadow := { c.shadow with st := 3, waiting := none }
    wave := { active := true, first := !c.baseValid, start := s.now, forOp := o }
    committed := 0
    changed := c.shadow.changed.length }

/-- R154: a swap that waited for a load begins, or finds the shadow EMPTY. -/
def startWaiting (s : State) : State :=
  match s.job.churn.shadow.waiting with
  | none => s
  | some o =>
    if s.job.churn.shadow.st = 2 then beginSwap s o
    else opDone (setChurn s { s.job.churn with shadow := { s.job.churn.shadow with waiting := none } }) o Code.notLoaded

/-- R145: a load fails: the shadow is left EMPTY. -/
def loadFails (s : State) (b : ImgBad) : State :=
  let h := s.job.churn.shadow
  let s := noteCfg s b.code b.cell b.kind h.slot b.off
  startWaiting (opDone (dropShadow s) h.forOp b.code)

/-- R143, R145, R146: a load completes: the shadow is READY, its changed cells are known and the banks it needs are woken. -/
def loadComplete (s : State) : State :=
  let h := s.job.churn.shadow
  if h.st != 1 || !jobHeld s then s
  else match imgConf s h.slot with
  | .error b => loadFails s b
  | .ok (c, pre) =>
    match footprintBad s c.recs with
    | some cell => loadFails s { code := Code.footprintConflict, cell := cell }
    | none =>
      let changed := if s.job.churn.baseValid then
          (bothCells c.recs s.job.grid.recs).filter fun k => recAt c.recs k != getRec s k
        else List.range 512
      let cells := c.recs.map Prod.fst
      let cut := pre.flatMap (preCut c.recs)
      let isLate := fun (p : Nat × PreBlock) => (heldBanks s p.2.cell).getLsbD p.1
      let late := (cut.filter isLate).map Prod.snd
      let early := (cut.filter fun p => !isLate p).map Prod.snd
      let s := cells.foldl (fun s k => prePut (wakeCell s c.recs pre k) c.recs early k) s
      let s := setChurn s { s.job.churn with
        shadow := { h with st := 2, recs := c.recs, tables := c.tables, changed := changed, late := late } }
      startWaiting (opDone s h.forOp Code.ok)

def execShadowLoadComplete (s : State) : Host.Outcome State Fault Refusal := .next (loadComplete s)

/-- R154: a swap operation. -/
def swap (s : State) (o : OpRef) : Status × State :=
  let h := s.job.churn.shadow
  if h.st = 0 then (Code.notLoaded, s)
  else if h.st = 3 ∨ s.job.churn.wave.active ∨ h.waiting.isSome then (Code.busy, s)
  else if h.st = 1 then (Code.ok, setChurn s { s.job.churn with shadow := { h with waiting := some o } })
  else if (footprintBad s h.recs).isSome then (Code.footprintConflict, s)
  else (Code.ok, beginSwap s o)

/-! ### The wave, R147 to R150 -/

def setWave (s : State) (w : Wave) : State := setChurn s { s.job.churn with wave := w }

/-- R148: the tokens that a cell has. -/
def waveTokens (s : State) (c : Nat) : BitVec 5 := Tbl.get 0 s.job.churn.wave.tokens c

/-- R101, R106: the new configuration leaves the entry of region `i` as it is. -/
def regionSame (old new : List Byte) (i : Nat) : Bool := (old.drop (4 * i)).take 4 == (new.drop (4 * i)).take 4

/-- R106: the windows of the running job whose entry the new configuration changes or removes begin to close. -/
def tokenCloses (s : State) (c : Nat) : State :=
  (List.range 64).foldl (fun s w =>
    let v := getWin s w
    if v.opened && winHere s v && v.half.isNone && v.cell == c && !regionSame (getRec s c).mu (newRec s c).mu v.region then
      winClose s w
    else s) s

/-- R97: the token reaches the MU of a cell, and every line leaves its buffer. -/
def tokenFlush (s : State) (c : Nat) : State := muSet s c (coalFlush (getCell s c).mu fun _ => true)

/-- R148: a token reaches a cell; its wait may be met. -/
def tokenReach (s : State) (c bit : Nat) : State :=
  let w := s.job.churn.wave
  let t := waveTokens s c ||| (1#5 <<< bit)
  let s := setWave s { w with tokens := Tbl.set 0 w.tokens c t }
  let need := (getRec s c).wait.setWidth 5
  if w.met.contains c || !(w.first || need &&& t == need) then s
  else
    let w := s.job.churn.wave
    heldUpdate (tokenCloses (tokenFlush (setWave s { w with met := w.met ++ [c] }) c) c)

/-- R148, R149: the injection. -/
def tokenInject (s : State) : State :=
  let w := s.job.churn.wave
  if !jobRuns s || !w.active || w.stopped || w.injected then s
  else
    let s := setWave s { w with injected := true }
    ((List.range 512).filter fun c => w.first || (getRec s c).wait.getLsbD 4).foldl (fun s c => tokenReach s c 4) s

def execSwitchTokenInject (s : State) : Host.Outcome State Fault Refusal := .next (tokenInject s)

/-- R147, R148: a token arrives from a neighbour, after every entry sent before it. -/
def tokenArrive (s : State) (c side : Nat) (parityBad : Bool) : State :=
  let w := s.job.churn.wave
  let tr := Tbl.get 0 w.travel c
  let behind := (List.range 3).all fun n => !splits s c side ||
    decide (oldLeft s c n side ≤ (getQ (getCell s c) (inKey n side)).length)
  if !jobRuns s || !w.active || w.stopped || !tr.getLsbD side || !behind then s
  else if parityBad then
    unitFault (noteGrid s Code.tokenParity c (punit s c false) 2 side) c Code.tokenParity false false
  else
    let s := setWave s { w with travel := Tbl.set 0 w.travel c (tr &&& ~~~(1#4 <<< side)) }
    tokenReach s c side

def execSwitchTokenArrive (c : Cell) (side : Side) (parityBad : Bool) (s : State) : Host.Outcome State Fault Refusal :=
  .next (tokenArrive s c (sideNo side) parityBad)

/-! ### The commit of a cell, R150 -/

/-- What stands between a cell and its commit: nothing, work that will end, or part of an item (INCOMPLETE_PASS) in a record of
the kind given. -/
inductive CellIdle where
  | idle
  | busy
  | part (kind : Nat)
  deriving DecidableEq, Repr

/-- Two units of a cell: while one still works, it may complete what the other holds. -/
def CellIdle.both : CellIdle → CellIdle → CellIdle
  | .busy, _ => .busy
  | _, .busy => .busy
  | .part k, _ => .part k
  | .idle, b => b

/-- The 16 bytes of a steering entry. -/
def suBytes (r : CellRec) (k : Nat) : List Byte := (r.su.drop (16 * k)).take 16

/-- R121: whether a unit has the inputs of a firing, room for its output aside. -/
def suMay (u : SuRec) (x : SuSt) : Bool :=
  let has0 := !x.d0.isEmpty
  let has1 := (suD1 u x).isSome
  match x.busy with
  | .copies _ _ => true
  | .run _ _ => true
  | .group v _ _ e0 e1 =>
    if u.op = 2 then (!e0 && has0) || (!e1 && has1) else if u.op = 3 ∧ v ≠ 0 then has1 else has0
  | .idle =>
    if u.op = 6 then has0
    else match x.t, u.op with
    | [], _ => false
    | _ :: _, 2 => has0 && has1
    | tok :: _, 3 => if tok = 0 then has0 else has1 || decide (1 < tok.toNat)
    | _ :: _, 7 => true
    | _ :: _, _ => has0

/-- R136: a changed steering entry takes effect once its unit holds nothing but INIT_N tokens; a unit that holds more and can fire does
so first. -/
def suIdle (old new : CellRec) (k : Nat) (x : SuSt) : CellIdle :=
  let u := suRec old.su k
  if suBytes old k = suBytes new k ∨ u.op = 0 then .idle
  else if x.busy = .idle ∧ x.d0.isEmpty ∧ x.d1.isEmpty ∧ x.tally = 0 ∧ x.t.length = u.initN then .idle
  else if suMay u x then .busy
  else .part 2

/-- R150: old entries in the queues of a steering unit: those that came on sides whose token the cell awaited. -/
def suOld (r : CellRec) (k : Nat) (x : SuSt) : Bool :=
  let u := suRec r.su k
  let awaited := fun src => decide (src < 4) && r.wait.getLsbD src
  u.op != 0 && ((awaited u.d0 && !x.d0.isEmpty) || (awaited u.d1 && !x.d1.isEmpty) || (awaited u.t && decide (u.initN < x.t.length)))

/-- R63: a changed matrix engine: finished tiles drain; a tile with only some of its k-steps is part of an item once nothing more of
it can be taken. -/
def matIdle (old new : CellRec) (x : CellSt) : CellIdle :=
  let r := matRec old.mat
  if old.mat = new.mat ∨ !r.enable then .idle
  else if !x.done.isEmpty || tileReady x r || canTake x r false || canTake x r true ||
      (r.bHold && x.panel.isNone && x.takenB.length == matNeedB r) then .busy
  else if x.takenA.isEmpty && x.takenB.isEmpty then .idle
  else .part 3

/-- R88, R150: a changed vector pipeline: a tile whose rows have all entered, or whose next row has its inputs, goes on; a tile with
only some of its rows entered that lacks the next is part of an item. A tile of the finished-tile queue that lacks the inputs of
its first row has not begun, and waits for the new record (log entry 96). -/
def vecIdle (old new : CellRec) (x : CellSt) : CellIdle :=
  let r := vecRec old.vec
  if old.vec = new.vec ∨ !r.enable then .idle
  else if x.vec.row = 0 then (if r.src = 0 ∧ !x.vec.ftq.isEmpty ∧ rowInputs x r then .busy else .idle)
  else if rowInputs x r ∨ x.vec.row = vecRows r then .busy
  else .part 5

/-- R150: a changed MU: a nest or a flip in progress ends first. -/
def muIdle (old new : CellRec) (x : CellSt) : CellIdle :=
  if old.mu = new.mu then .idle
  else if x.mu.flip != 0 || !x.mu.flipQ.isEmpty || x.mu.rd.elem != 0 || x.mu.wr.elem != 0 || !x.mu.tokens.isEmpty then .busy
  else .idle

/-- R150, R181: a changed descriptor's transfer in progress. -/
def strIdle (s : State) (c : Nat) : CellIdle :=
  if (List.range 4).any fun k =>
      let d := 4 * c + k
      Tbl.get [] s.job.churn.shadow.tables.streams d != Tbl.get [] s.job.churn.tables.streams d &&
        ((getStr s d).st == 2 || (getStr s d).st == 3) then .busy
  else .idle

/-- R150: whether every unit of a cell that changes is idle. -/
def cellIdle (s : State) (c : Nat) : CellIdle :=
  let x := getCell s c
  let old := getRec s c
  let new := newRec s c
  ([(List.range 4).foldl (fun t k => t.both (suIdle old new k (nth {} x.su k))) .idle,
    matIdle old new x, vecIdle old new x, muIdle old new x, strIdle s c] : List CellIdle).foldl CellIdle.both .idle

/-- R129: a steering entry takes effect. -/
def suInit (r : CellRec) (k : Nat) : SuSt :=
  let u := suRec r.su k
  if u.op = 0 then {} else { t := List.replicate u.initN (BitVec.ofNat 8 u.initVal) }

/-- R150: the descriptor of a generator and the entry of its region stay as they are. -/
def genSame (old new : List Byte) (off : Nat) : Bool :=
  (old.drop off).take 32 == (new.drop off).take 32 && regionSame old new (genRec old off).region

/-- R99, R101, R150: an MU takes a changed record: what the swap leaves unchanged keeps its half, its FIFO and its position; a region
whose entry changes starts with half 0 as its fill half (log entry 21). -/
def muTake (m : MuSt) (old new : List Byte) : MuSt :=
  let m := coalFlush m fun _ => true
  let g := rdGen new
  let changed := (List.range 8).map fun i => !regionSame old new i
  { m with
    real := (m.real.zip (changed.zip ((List.range 8).map (fillHalf m)))).map fun x => if x.2.1 && x.2.2 then x.1 + 1 else x.1
    redo := (m.redo.zip changed).map fun x => if x.2 then 0 else x.1
    rd := if genSame old new 32 then m.rd else { waits := g.enable && (region new g.region).double }
    wr := if genSame old new 64 then m.wr else {}
    fifoRd := m.fifoRd.filter fun p => regionSame old new p.1
    fifoWr := m.fifoWr.filter fun p => regionSame old new p.1
    fillHalf := (List.range 8).foldl (fun h i => if regionSame old new i then h else h &&& ~~~(1#8 <<< i)) m.fillHalf }

/-- R150: the units of a cell take their new records; units whose records do not change keep their state. The finished-tile queue is
not the vector record's, and keeps its tiles. -/
def cellTake (x : CellSt) (old new : CellRec) : CellSt :=
  let su := (List.range 4).map fun k => if suBytes old k = suBytes new k then nth {} x.su k else suInit new k
  let x := { x with su := su }
  let x := if old.mat = new.mat then x
    else { x with takenA := [], takenB := [], panel := none, side := false, done := [], mtile := 0, drained := 0 }
  let x := if old.vec = new.vec then x else { x with vec := { ftq := x.vec.ftq } }
  if old.mu = new.mu then x else { x with mu := muTake x.mu old.mu new.mu }

/-- R36: a timer at the commit of cell `c`. The old timer disarms as the token passes its sink, unless the new one has armed before
(`armed`); a beat that runs then ends at its LAST. The new timer arms as the token passes its source, also where its entry is that
of the old; a beat of the old one that still runs goes on beside it. -/
def timerCommit (first : Bool) (c : Nat) (old new : Word) (armed : Bool) (t : Timer) : Timer :=
  let sink := !first && old.getLsbD 0 && bits old.toNat 16 9 == c && !armed
  let t := if !sink then t else if t.running then { t with disarm := true } else { t with armed := false, cfg := 0 }
  if new.getLsbD 0 && bits new.toNat 3 9 == c then
    { t with
      old := if t.running then t.old ++ [⟨t.cfg, t.start, t.overrun, t.replay, t.sinkLast⟩] else t.old
      cfg := new, armed := true, running := false, overrun := false, replay := false, srcSent := false, sinkLast := false
      disarm := false }
  else t

/-- R172, R181: the descriptors of a cell take effect; a shadow pending on a changed one is dropped. -/
def strCommit (s : State) (d : Nat) : State :=
  let new := Tbl.get [] s.job.churn.shadow.tables.streams d
  if new = Tbl.get [] s.job.churn.tables.streams d then s
  else
    let drop := if (getStr s d).shadow.isSome then 1 else 0
    let s := setStr s d (strTakeEffect s.now new)
    let t := s.job.churn.tables
    let s := setChurn s { s.job.churn with tables := { t with streams := Tbl.set [] t.streams d new } }
    let s := if drop = 0 then s else requeueRearm s d
    { s with job := { s.job with rearmDropped := s.job.rearmDropped + drop } }

/-- R150: the token goes out on every control output that faces a neighbour; what is on those links now is old. -/
def tokenForward (s : State) (c : Nat) : State :=
  (List.range 4).foldl (fun s o =>
    match neighbour c o with
    | none => s
    | some (d, i) =>
      let w := s.job.churn.wave
      let s := setWave s { w with travel := Tbl.set 0 w.travel d (Tbl.get 0 w.travel d ||| (1#4 <<< i)) }
      if w.committed.contains d then s
      else (List.range 3).foldl (fun s n =>
        setOld s d n i ((getQ (getCell s d) (inKey n i)).length + (getWire (getCell s d) (inKey n i)).length)) s) s

/-- R106, R110: the windows of the running job on a region whose entry the commit replaces keep the half in which late writes land. -/
def winLeave (s : State) (c : Nat) (old new : List Byte) : State :=
  { s with wins := s.wins.map fun v =>
      if v.opened && winHere s v && v.cell == c && v.half.isNone && !regionSame old new v.region then
        { v with half := some (fillHalf (getCell s c).mu v.region) }
      else v }

/-- R29: the entries that wait at the switch inputs of a cell and that its new record does not feed to anything. -/
def unroutedHeads (s : State) (c : Nat) : State :=
  (List.range 3).foldl (fun s n => (List.range 6).foldl (fun s i =>
    if !(getQ (getCell s c) (inKey n i)).isEmpty && (feeds (getRec s c) n i).isEmpty then unrouted s c n i else s) s) s

/-- R150, R149: the commit of a cell whose wait is met and whose units are idle. -/
def commitCell (s : State) (c : Nat) : State :=
  let ch := s.job.churn
  let first := ch.wave.first
  let old := getRec s c
  let new := newRec s c
  let s := winLeave s c old.mu new.mu
  let s := setCell s c (cellTake (getCell s c) old new)
  let s := (List.range 4).foldl (fun s k => strCommit s (4 * c + k)) s
  let timers := s.job.grid.timers.zipIdx.map fun p =>
    let entry := Tbl.get 0 ch.shadow.tables.timers p.2
    timerCommit first c (Tbl.get 0 ch.tables.timers p.2) entry
      (entry.getLsbD 0 && ch.wave.committed.contains (bits entry.toNat 3 9)) p.1
  let s := setGrid s { s.job.grid with recs := Tbl.set {} s.job.grid.recs c new, timers := timers }
  let s := prePut s ch.shadow.recs ch.shadow.late c
  let s := unroutedHeads (freeBanks s c) c
  let w := s.job.churn.wave
  let s := setChurn s { s.job.churn with wave := { w with committed := w.committed ++ [c] }, committed := w.committed.length + 1 }
  heldUpdate (if first then s else tokenForward s c)

/-- R150, R154: a cell commits once its old entries have left; part of an item left in it is INCOMPLETE_PASS. -/
def cellCommit (s : State) (c : Nat) : State :=
  let w := s.job.churn.wave
  let r := getRec s c
  let old := ((List.range 3).any fun n => (List.range 4).any fun i => r.wait.getLsbD i && oldLeft s c n i != 0) ||
    (List.range 4).any fun k => suOld r k (nth {} (getCell s c).su k)
  if !jobRuns s || !w.active || w.stopped || !w.met.contains c || w.committed.contains c || cellHeld s c then s
  else if w.first then commitCell s c
  else if old then s
  else match cellIdle s c with
  | .busy => s
  | .idle => commitCell s c
  | .part k =>
    let s := noteCfg s Code.incompletePass c k s.job.churn.shadow.slot 0
    let s := setWave s { w with stopped := true }
    raiseJobFault (opDone s w.forOp Code.incompletePass) Code.incompletePass

def execCellCommit (c : Cell) (s : State) : Host.Outcome State Fault Refusal := .next (cellCommit s c)

/-- R280: whether every dispatch and collector is between halves. -/
def ladBetween (s : State) : Bool :=
  (s.job.lad.disps.all fun d => d.flight.isEmpty) &&
  s.job.lad.colls.all fun c => c.markers.isEmpty && c.rows.isEmpty && decide (c.drained.length ≤ c.exposed) && c.answers.isEmpty

/-- R263, R280: a LADLE section takes effect: every dispatch starts with half A. -/
def ladTake (l : Ladle) : Ladle := { l with disps := l.disps.map fun d => { d with next := false, half := false } }

/-- R168: the pinned lines of the configuration that goes out of force become ordinary; those that cells of the new one have pinned
since their commit stay. -/
def unpin (t : Tiers) : Tiers :=
  { t with cache := t.cache.map fun die => die.map fun set =>
      (set.1, set.2.map fun l => { l with pinned := l.pinned && l.fresh, fresh := false }) }

/-- R152: the wave is complete: the shadow becomes the configuration in force. -/
def waveComplete (s : State) : State :=
  let ch := s.job.churn
  let w := ch.wave
  let ladNew := ch.shadow.tables.ladle != ch.tables.ladle
  if !jobRuns s || !w.active || w.stopped || w.committed.length != 512 || (ladNew && !ladBetween s) then s
  else
    let d := s.now - w.start
    let img := getImg s ch.shadow.slot
    let schedNew := ch.shadow.tables.sched != ch.tables.sched
    let s := setChurn s { ch with
      baseSlot := if img.overlay then img.baseSlot else ch.shadow.slot, baseValid := true
      ovlSlot := if img.overlay then ch.shadow.slot else 0, ovlValid := img.overlay
      tables := ch.shadow.tables, shadow := {}, wave := {}
      swaps := ch.swaps + 1, waveLast := d, waveMax := max ch.waveMax d }
    let lad := if ladNew then ladTake s.job.lad else s.job.lad
    let s := { s with tiers := unpin s.tiers, job := { s.job with ckpt := none, hazard := 0, banksRead := [], lad := lad } }
    let s := if schedNew then schedStart s else s
    opDone s w.forOp Code.ok

def execWaveComplete (s : State) : Host.Outcome State Fault Refusal := .next (waveComplete s)

/-- R152: the time that the wave has taken, HELD time excluded. -/
def waveTime (s : State) : Nat :=
  let w := s.job.churn.wave
  s.now - w.start - w.heldTime - (w.heldSince.elim 0 fun t => s.now - t)

/-- R152, R181, R280: what SWAP_LIMIT counts: a wait that is unmet, a HALTED transfer that holds a commit, the Ladle where a new LADLE
section waits for it. -/
def waveWaits (s : State) : Bool :=
  let ch := s.job.churn
  let w := ch.wave
  let halted := fun c => (List.range 4).any fun k =>
    Tbl.get [] ch.shadow.tables.streams (4 * c + k) != Tbl.get [] ch.tables.streams (4 * c + k) && (getStr s (4 * c + k)).st == 3
  ((List.range 512).any fun c => !w.met.contains c || (!w.committed.contains c && halted c)) ||
    (w.committed.length == 512 && ch.shadow.tables.ladle != ch.tables.ladle && !ladBetween s)

/-- R152, R181, R280: SWAP_STALLED; the record names the first cell whose wait is unmet and, in OFFSET, the tokens it lacks. Where every
wait is met it names the first cell that has not committed, or cell 0, and no token (log entry 97). -/
def swapStalled (s : State) : State :=
  let w := s.job.churn.wave
  if !jobRuns s || !w.active || w.stopped || !waveWaits s || decide (waveTime s ≤ s.limits.swapUs * us) then s
  else
    let c := (((List.range 512).find? fun c => !w.met.contains c).or
      ((List.range 512).find? fun c => !w.committed.contains c)).getD 0
    let lack := (getRec s c).wait.setWidth 5 &&& ~~~waveTokens s c
    let s := noteCfg s Code.swapStalled c 6 s.job.churn.shadow.slot lack.toNat
    let s := setWave s { w with stopped := true }
    raiseJobFault (opDone s w.forOp Code.swapStalled) Code.swapStalled

def execSwapStalled (s : State) : Host.Outcome State Fault Refusal := .next (swapStalled s)

end Sys2Proof.Machine
end

