-- ==== Sys2Proof/Machine/Rx.lean ====
section
/-! DEFINITION. How a frame for this module is taken from its port or the loopback (R289, R298, R302), and what every frame about a
window shares: refusals, grants, requests for credit (R103, R299). -/

namespace Sys2Proof.Machine

/-! ### The receiving side of a port, R289 to R291 -/

/-- R290: RELEASE_LSEQ passes the frames whose custody has ended, in order. -/
def releaseRun : BitVec 16 → List (BitVec 16 × Bool) → BitVec 16 × List (BitVec 16 × Bool)
  | r, [] => (r, [])
  | r, (l, done) :: t => if done then releaseRun l t else (r, (l, done) :: t)

def portRelease (x : PortSt) : PortSt :=
  let r := releaseRun x.released x.open_
  { x with released := r.1, open_ := r.2 }

/-- The key of a share: partition and DL. Partition 0 names the part of the transit buffer that serves CRED frames (R291); its key
is the highest, and it is granted last (log entry 104). -/
def shareKey (part : Nat) (dl : Bool) : Nat := 2 * (if part = 0 then 256 else part) + (if dl then 1 else 0)

/-- R291, R296: the share that a frame occupies and draws link credit from: its partition's, or for a CRED frame the CRED part. -/
def frameKey (f : Frame) (dl : Bool) : Nat := shareKey (if bodyData f.body then f.part.toNat else 0) dl

/-- R291: flits added to a table of shares. -/
def shareAdd (t : List (Nat × Nat)) (k n : Nat) : List (Nat × Nat) := Tbl.set 0 t k (Tbl.get 0 t k + n)
def shareSub (t : List (Nat × Nat)) (k n : Nat) : List (Nat × Nat) := Tbl.set 0 t k (Tbl.get 0 t k - n)

/-- R289: the next frame in order is accepted; any other is discarded. A delivered frame gives its credit back at once; one that
passes through occupies its share. -/
def portAccept (s : State) (p : Nat) (lseq : BitVec 16) (f : Frame) (deliver : Bool) : Option State :=
  let x := getPort s p
  if (x.st = 2 ∨ x.st = 4) ∧ lseq = x.rxSeq + 1 then
    let k := frameKey f f.dl
    let n := flits f.body
    some (setPort s p (portRelease { x with
      rxSeq := lseq, open_ := x.open_ ++ [(lseq, deliver)], lastRx := s.now
      ackAt := some (x.ackAt.getD s.now)
      owed := if deliver then shareAdd x.owed k n else x.owed
      used := if deliver then x.used else shareAdd x.used k n }))
  else none

/-- R298, R302: a frame for this module is taken from its port, or from the head of the loopback. -/
def rxTake (s : State) (rx : Rx) (b : Body) : Option State :=
  match rx.via with
  | .port p lseq => portAccept s p lseq ⟨rx.src, BitVec.ofNat 16 (myIndex s), rx.part, rx.dl, b⟩ true
  | .loopback =>
    match s.ring.loop with
    | [] => none
    | f :: rest => if f.src = rx.src ∧ f.part = rx.part ∧ f.body = b then some (setRing s { s.ring with loop := rest }) else none

/-- A frame for this module: its effect once it is taken and its partition is known (R298). -/
def rxFrame (s : State) (rx : Rx) (b : Body) (f : State → State) : State :=
  match rxTake s rx b with
  | none => s
  | some t =>
    if (findPt t rx.part.toNat).isNone then
      unknownPart t (match rx.via with
        | .port p _ => p
        | .loopback => 0) rx.part.toNat rx.src.toNat
    else f t

/-- An answer to the module that sent a frame. -/
def reply (s : State) (rx : Rx) (b : Body) : State := notify s rx.part.toNat rx.src.toNat b

/-! ### Windows across the ring, R103, R299 -/

def toWin (w : Nat) : Win := ⟨w % 64, Nat.mod_lt _ (by decide)⟩

/-- R103, R298: the refusal of a frame that names a window; a window of the running job takes only that job's partition. -/
def rxRefusal (s : State) (w : Nat) (gen part : Byte) : Option Status :=
  match winRefusal s w gen part with
  | some c => some c
  | none => if jobPart s = some part.toNat then none else some Code.windowPartition

/-- R103: a credit request is answered by a grant. -/
def grantReq (s : State) (h : HeldReq) : State :=
  let ans := fun s g c => notify s h.part.toNat h.src.toNat (.wgrant (toWin h.win) h.gen (BitVec.ofNat 8 g) c)
  match rxRefusal s h.win h.gen h.part with
  | some c => ans (winCount s h.win c h.src) 0 c
  | none =>
    let g := winGrant s h.win h.n
    let v := getWin s h.win
    ans (setWin s h.win { v with free := v.free - g, outstanding := v.outstanding + g }) g 0

/-! ### Requests for credit, R264, R273, R299, R302 -/

def setJob (s : State) (j : Job) : State := { s with job := j }
def setLad (s : State) (l : Ladle) : State := setJob s { s.job with lad := l }

/-- One request in flight. -/
def askOne (s : State) (a : Ask) : State :=
  let s := setJob s { s.job with asks := s.job.asks ++ [{ a with retry := none }] }
  originate s a.part.toNat a.dst.toNat (.wreq (toWin a.win) a.gen (BitVec.ofNat 8 a.n) a.epoch)

/-- R264: credit for `n` units is requested, in requests of at most 255. -/
def askCreditsIn : Nat → State → Asker → Nat → Nat → Byte → Option (BitVec 16) → Nat → State
  | 0, s, _, _, _, _, _, _ => s
  | m + 1, s, who, member, win, gen, epoch, n =>
    if n = 0 then s
    else askCreditsIn m (askOne s ⟨who, BitVec.ofNat 16 (jobModule s member), BitVec.ofNat 8 ((jobPart s).getD 0), win, gen, min n 255, epoch, none⟩)
      who member win gen epoch (n - 255)

/-- R264: as many requests as the units need. -/
def askCredits (s : State) (who : Asker) (member win : Nat) (gen : Byte) (epoch : Option (BitVec 16)) (n : Nat) : State :=
  askCreditsIn (n / 255 + 1) s who member win gen epoch n

/-- Whether a request of an asker is in flight. -/
def asking (s : State) (who : Asker) : Bool := s.job.asks.any fun a => a.who == who

/-- The requests of an asker are no longer needed. -/
def askGone (s : State) (p : Asker → Bool) : State :=
  setJob s { s.job with asks := s.job.asks.map fun a => if p a.who then { a with who := .gone } else a }

/-- Credits that this module's job returns. -/
def giveBack (s : State) (member win : Nat) (gen : Byte) (n : Nat) : State :=
  returnCredits s ((jobPart s).getD 0) (jobModule s member) win gen n

end Sys2Proof.Machine
end

