-- ==== Sys2Proof/Machine/Ladle.lean ====
section
/-! DEFINITION. The Ladle (file 12): routing by hash, half-batches, collectors, answers and the combine. -/

namespace Sys2Proof.Machine

def ladSec (s : State) : List Byte := s.job.churn.tables.ladle
def getDisp (s : State) (d : Nat) : DispSt := nth {} s.job.lad.disps d
def setDisp (s : State) (d : Nat) (x : DispSt) : State := setLad s { s.job.lad with disps := s.job.lad.disps.set d x }
def getColl (s : State) (c : Nat) : CollSt := nth {} s.job.lad.colls c
def setColl (s : State) (c : Nat) (x : CollSt) : State := setLad s { s.job.lad with colls := s.job.lad.colls.set c x }
def getBind (s : State) (q : Nat) : LqBind := Tbl.get {} s.job.lad.binds q
def setBind (s : State) (q : Nat) (b : LqBind) : State := setLad s { s.job.lad with binds := Tbl.set {} s.job.lad.binds q b }

/-- A half-batch of a dispatch changed. -/
def modHalf (s : State) (d : Nat) (ep : BitVec 16) (f : DispHalf → DispHalf) : State :=
  let x := getDisp s d
  setDisp s d { x with flight := x.flight.map fun h => if h.epoch == ep then f h else h }

/-- The window of the running job that is open on a region (R262). -/
def winAt (s : State) (c r : Nat) : Option Nat := (winsOn s c r).find? fun w => (getWin s w).job == s.jobc.id

/-- A flip that the module itself requests, as the buffer flip operation does (R275). -/
def requestFlip (s : State) (c r : Nat) (repeats : Bool) : State := flipAsk s c (1#8 <<< r) repeats

/-- A precise mapping fault of the Ladle; `detail` is what the record names beyond its register's fields. -/
def ladFault (s : State) (code : Status) (disp coll queue member epoch : Nat) (detail : List Nat := []) : State :=
  raiseJobFault (noteLad s code disp coll queue member epoch detail) code

/-! ### Routing, R259, R263 -/

/-- R259. -/
def expertBucket (key layer token : Nat) : Nat :=
  (skMix (BitVec.ofNat 64 key ^^^ skMix (BitVec.ofNat 64 (layer * 2 ^ 32 + token)))).toNat / 2 ^ 52

/-- The expert and queue of a token through table `t` of the section. -/
def tokenRoute (sec : List Byte) (t token : Nat) : Nat × Nat :=
  let h := leAt sec (ladTabAt t) 16
  ladBucket sec t (expertBucket (bits h 0 64) (bits h 64 16) token)

/-- The MU address of route word `p` of a half. -/
def routeAddr (s : State) (x : LadDisp) (letter : Bool) (p : Nat) : Nat :=
  regionBase (region (getRec s x.src).mu x.routeReg) false + x.routeOff + 4 * (p + if letter then x.rows else 0)

/-- R263: the request of a slot has ended FAULTED or REMOVED in the round in progress of its service (log entry 101). -/
def slotGone (s : State) (k : Nat) : Bool := s.adm.svcs.any fun x => x.inRound && x.job == s.jobc.id && x.gone.contains k

/-- R263: a position whose route word is `w` is void. -/
def wordVoid (s : State) (w : Nat) : Bool := bit w 31 || slotGone s (bits w 18 6)

/-- R265: the answer slot of table rank `i` at position `p`: the rank of its expert, ties by table. -/
def ansSlot (es : List Nat) (p i : Nat) : Nat :=
  let e := nth 0 es i
  p * es.length + ((es.zipIdx).filter fun x => decide (x.1 < e) || (x.1 == e && decide (x.2 < i))).length

/-- R264: the rows of a half: positions ascending, tables ascending. -/
def halfRows (s : State) (sec : List Byte) (x : LadDisp) (words : List Nat) : List LadRow :=
  (words.zipIdx).flatMap fun w =>
    if wordVoid s w.1 then []
    else
      let rs := x.tables.map fun t => tokenRoute sec t (bits w.1 0 18)
      (rs.zipIdx).map fun r => { p := w.2, t := r.2, queue := r.1.2, slot := ansSlot (rs.map Prod.fst) w.2 r.2 }

/-! ### Sending, R264 to R266 -/

/-- The queues of a dispatch's tables. -/
def dispQueues (sec : List Byte) (x : LadDisp) : List Nat :=
  (x.tables.flatMap fun t => (List.range 4096).map fun b => (ladBucket sec t b).2).eraseDups

/-- R266: the count marker of a queue. -/
def sendMarker (s : State) (q : Nat) (ep : BitVec 16) (n : Nat) : State :=
  let b := getBind s q
  if b.bound then
    originate s ((jobPart s).getD 0) (jobModule s b.member)
      (.marker (toWin b.win) b.gen (BitVec.ofNat 10 q) (BitVec.ofNat 8 (jobMember s)) ep (BitVec.ofNat 12 n) false)
  else s

/-- R275: a half whose awaited answers have all landed requests the flip of its answer region. -/
def dispCheck (s : State) (d : Nat) : State :=
  match (getDisp s d).flight with
  | [] => s
  | h :: _ =>
    let x := ladDisp (ladSec s) d
    let all := h.rows.all fun r => r.st != 1 || (List.range x.ansUnits).all fun k => h.landed.contains (r.slot * x.ansUnits + k)
    if h.phase == 2 && all then requestFlip (modHalf s d h.epoch fun h => { h with phase := 3 }) x.ans x.ansReg false else s

/-- R299: the credits kept for the units of a queue that are written again. -/
def redoCredit (h : DispHalf) (q : Nat) : Nat := ((h.rows.filter fun r => r.queue == q).map fun r => r.redo.length).foldl (· + ·) 0

/-- R264: the end of a half-batch: a marker to every queue not yet marked, and every unused credit returned. -/
def dispFinish (s : State) (d : Nat) (h : DispHalf) : State :=
  let marked := h.qs.filter fun q => q.marked
  let s := (dispQueues (ladSec s) (ladDisp (ladSec s) d)).foldl (fun s q =>
    if marked.any fun m => m.queue == q then s
    else sendMarker s q h.epoch (((h.qs.find? fun m => m.queue == q).map LadQ.sent).getD 0)) s
  let s := h.qs.foldl (fun s q => let b := getBind s q.queue; giveBack s b.member b.win b.gen (q.credit - redoCredit h q.queue)) s
  let s := askGone s fun a => match a with
    | .disp e _ ep => e == d && ep == h.epoch
    | _ => false
  let s := modHalf s d h.epoch fun h => { h with phase := 2, qs := h.qs.map fun q => { q with credit := min q.credit (redoCredit h q.queue), marked := true } }
  dispCheck s d

/-- R264: a half opens under the next epoch: its rows are routed and credit is requested on each queue. -/
def dispOpen (s : State) (d : Nat) (h : DispHalf) : Option DispHalf × State :=
  let sec := ladSec s
  let x := ladDisp sec d
  match muTry s x.src (routeAddr s x h.letter 0) (4 * x.rows) with
  | (none, s) => (none, s)
  | (some bs, s) =>
    let rows := halfRows s sec x (unpack 32 x.rows (leNat bs))
    let ep := (getDisp s d).epoch + 1
    match rows.find? fun w => !(getBind s w.queue).bound with
    | some w => (none, ladFault s Code.queueUnbound d 0 w.queue (getBind s w.queue).member ep.toNat [nth 0 x.tables w.t])
    | none =>
      let qs := (rows.map LadRow.queue).eraseDups
      let s := setDisp s d { getDisp s d with epoch := ep, half := h.letter }
      let s := qs.foldl (fun s q =>
        let b := getBind s q
        askCredits s (.disp d q ep) b.member b.win b.gen none ((rows.filter fun w => w.queue == q).length * x.rowUnits)) s
      (some { h with epoch := ep, phase := 1, rows := rows, qs := qs.map fun q => { queue := q }, landed := [], since := s.now }, s)

/-- R264: the markers of queues whose last routed position has passed; the half ends when no row is left. -/
def dispMarks (s : State) (d : Nat) (h : DispHalf) : State :=
  let due := h.qs.filter fun q => !q.marked && h.rows.all fun r => r.queue != q.queue || (r.st != 0 && r.redo.isEmpty)
  let s := due.foldl (fun s q => sendMarker s q.queue h.epoch q.sent) s
  let h := { h with qs := h.qs.map fun q => if due.contains q then { q with marked := true } else q }
  let s := modHalf s d h.epoch fun _ => h
  if h.rows.all fun r => r.st != 0 && r.redo.isEmpty then dispFinish s d h else s

/-- R264, R277: a half-batch begins after a flip, or again in a replay. -/
def dispBegin (s : State) (d : Nat) (h : DispHalf) (again : Bool) : State :=
  match dispOpen s d h with
  | (none, t) => t
  | (some h', t) =>
    let x := getDisp t d
    let x := { x with
      flight := if again then x.flight.map fun g => if g == h then h' else g else x.flight ++ [h']
      resent := if again || decide (0 < x.again) then x.resent + 1 else x.resent
      again := if again then x.again else x.again - 1
      next := if again then x.next else !h.letter }
    dispMarks (setDisp t d x) d h'

/-- R264: leading positions that have become void are skipped. -/
def skipVoid (void : Nat → Bool) : List LadRow → List LadRow
  | [] => []
  | r :: rs => if r.st != 0 then r :: skipVoid void rs
    else if void r.p then { r with st := 2 } :: skipVoid void rs
    else r :: rs

/-- R265, R301: the tag of a row. -/
def rowTag (s : State) (d : Nat) (x : LadDisp) (h : DispHalf) (r : LadRow) : RowTag :=
  let w := (winAt s x.ans x.ansReg).getD 0
  ⟨BitVec.ofNat 8 (jobMember s), ⟨d % 16, Nat.mod_lt _ (by decide)⟩, h.epoch, toWin w, (getWin s w).gen, BitVec.ofNat 13 r.slot⟩

/-- R265, R300: units of a row leave, a frame each, at the row's place among those sent to the queue; then `k` follows. -/
def sendUnits (s : State) (d : Nat) (x : LadDisp) (h : DispHalf) (r : LadRow) (us : List Nat) (k : State → State) : State :=
  let b := getBind s r.queue
  let a := regionBase (region (getRec s x.src).mu x.srcReg) h.side + r.p * x.rowUnits * 512
  muThen s x.src a (x.rowUnits * 512) fun bs s =>
    k (us.foldl (fun s u => originate s ((jobPart s).getD 0) (jobModule s b.member)
      (.row (toWin b.win) b.gen (BitVec.ofNat 21 (512 * (r.idx * x.rowUnits + u))) (rowTag s d x h r)
        (nth [] (pieces 512 x.rowUnits bs) u))) s)

/-- A half-batch with a row changed, and `n` credits of its queue used. -/
def DispHalf.rowUsed (h : DispHalf) (r : LadRow) (n sent : Nat) : DispHalf :=
  { h with
    rows := h.rows.map fun w => if w.slot == r.slot then r else w
    qs := h.qs.map fun w => if w.queue == r.queue then { w with credit := w.credit - n, sent := w.sent + sent } else w }

/-- R264, R265: one row leaves. -/
def rowGoes (s : State) (d : Nat) (x : LadDisp) (h : DispHalf) (r : LadRow) (q : LadQ) : State :=
  let r := { r with st := 1, idx := q.sent }
  sendUnits s d x h r (List.range x.rowUnits) fun s =>
    dispMarks (setLad s { s.job.lad with rows := s.job.lad.rows + 1 }) d (h.rowUsed r x.rowUnits 1)

/-- R280, R299: a unit whose write met a suspended window is written again, with the credit kept for it. -/
def unitGoes (s : State) (d : Nat) (x : LadDisp) (h : DispHalf) (r : LadRow) : State :=
  sendUnits s d x h r (r.redo.take 1) fun s =>
    let h := h.rowUsed { r with redo := r.redo.drop 1 } 1 0
    if h.phase = 1 then dispMarks s d h else modHalf s d h.epoch fun _ => h

/-- The first half-batch in flight that has a unit to write again, with its row. -/
def redoRow (fl : List DispHalf) : Option (DispHalf × LadRow) :=
  (fl.flatMap fun h => (h.rows.filter fun r => !r.redo.isEmpty).map fun r => (h, r)).head?

/-- R264: the first row of a half-batch that waits is sent when its queue's credit covers it; a queue that lacks credit is asked. -/
def rowSend (s : State) (d : Nat) (x : LadDisp) (h : DispHalf) : State :=
  match h.rows.find? fun r => r.st == 0 with
  | none => dispMarks s d h
  | some r =>
    let q := (h.qs.find? fun q => q.queue == r.queue).getD { queue := r.queue }
    if x.rowUnits ≤ q.credit then rowGoes s d x h r q
    else
      let who := Asker.disp d r.queue h.epoch
      let s := modHalf s d h.epoch fun _ => h
      if asking s who then s
      else
        let b := getBind s r.queue
        let left := (h.rows.filter fun w => w.queue == r.queue && w.st == 0).length * x.rowUnits
        askCredits s who b.member b.win b.gen none (left - q.credit)

/-- LADLE_ROW_SEND, R264: what a dispatch does next: a unit written again, a half-batch sent again, or the next row of the half-batch that
is being sent, once positions that have become void are skipped. -/
def ladleRowSend (s : State) (d : Nat) : State :=
  let x := ladDisp (ladSec s) d
  let fl := (getDisp s d).flight
  if !jobRuns s || decide (ladDisps (ladSec s) ≤ d) then s
  else match redoRow fl, fl.find? fun h => h.phase == 0, fl.find? fun h => h.phase == 1 with
    | some r, _, _ => unitGoes s d x r.1 r.2
    | none, some h, _ => dispBegin s d h true
    | none, none, none => s
    | none, none, some h =>
      muThen s x.src (routeAddr s x h.letter 0) (4 * x.rows) fun bs s =>
        let ws := unpack 32 x.rows (leNat bs)
        rowSend s d x { h with rows := skipVoid (fun p => wordVoid s (nth 0 ws p)) h.rows }

def execLadleRowSend (d : Fin 16) (s : State) : Host.Outcome State Fault Refusal := .next (ladleRowSend s d)

/-! ### Collectors, R267 to R272 -/

/-- R262: the collector that serves the window on a region. -/
def collAt (s : State) (c r : Nat) : Option (Nat × LadColl) :=
  (((List.range (ladColls (ladSec s))).map fun k => (k, ladColl (ladSec s) k)).find? fun x => x.2.cell == c && x.2.reg == r)

/-- A member's marker for the current half. -/
def markerOf (x : CollSt) (m : Nat) : Option (Nat × BitVec 16 × Nat) := x.markers.find? fun k => k.1 == m

/-- The members whose markers have arrived for the current half. -/
def markMembers (x : CollSt) : List Nat := (x.markers.map Prod.fst).eraseDups

/-- Rows of a member and epoch that have landed; `full` is the mask of a whole row. -/
def rowsLanded (x : CollSt) (m : Nat) (ep : BitVec 16) (full : Nat) : Nat :=
  (x.rows.filter fun r => r.1.home.toNat == m && r.1.epoch == ep && r.2 == full).length

/-- The queue that a collector serves: the one that markers name, else the one bound to its window (Table 12.6). -/
def collQueue (s : State) (c : Nat) (k : LadColl) : Nat :=
  let bound := (winAt s k.cell k.reg).bind fun w =>
    (s.job.lad.binds.find? fun b => b.2.bound && b.2.win == w && b.2.member == jobMember s).map Prod.fst
  ((getColl s c).queue <|> bound).getD 0

/-- R269: QUEUE_OVERFLOW names the queue and the last sender. -/
def queueOverflow (s : State) (c : Nat) (k : LadColl) (last epoch : Nat) : State :=
  ladFault s Code.queueOverflow 0 c (collQueue s c k) last epoch

/-- R269: the units of the zero rows that fill the last tile. -/
def fillUnits (k : LadColl) (n : Nat) : Nat := ((n + k.tileRows - 1) / k.tileRows * k.tileRows - n) * k.rowUnits

/-- R269: the fills take free units of the window, and count in HELD; none while too few are free. -/
def takeFills (s : State) (k : LadColl) (n : Nat) : Option State :=
  match winAt s k.cell k.reg with
  | none => some s
  | some w =>
    let v := getWin s w
    let u := fillUnits k n
    if v.free < u then none else some (setWin s w { v with free := v.free - u, held := v.held + u })

/-- R269: the half is complete: zero rows fill the last tile, once units for them are free, and the count token is sent. -/
def collComplete (s : State) (c : Nat) (k : LadColl) : State :=
  let x := getColl s c
  let n := x.rows.length
  let t := (n + k.tileRows - 1) / k.tileRows
  let r := region (getRec s k.cell).mu k.reg
  let row := k.rowUnits * 512
  let fill := fillUnits k n * 512
  if regionSize r < t * k.tileRows * row ∨ 255 < t then queueOverflow s c k x.last 0
  else match takeFills s k n with
    | none => s
    | some s =>
      let s := if fill = 0 then s
        else muPut s k.cell (regionBase r (fillHalf (getCell s k.cell).mu k.reg) + n * row) (List.replicate fill 0)
      let s := muToken s k.cell ⟨BitVec.ofNat 512 t, false⟩
      let x := getColl s c
      let s := setColl s c { x with token := some t, lastToken := t, halves := x.halves + 1 }
      if t = 0 then setLad s { s.job.lad with zeroHalves := s.job.lad.zeroHalves + 1 } else s

/-- R268: whether the half is complete, or has more rows than a marker counts. -/
def collCheck (s : State) (c : Nat) (k : LadColl) : State :=
  let x := getColl s c
  let full := 2 ^ k.rowUnits - 1
  let ms := (markMembers x).filterMap (markerOf x)
  match ms.find? fun m => decide (m.2.2 < rowsLanded x m.1 m.2.1 full) with
  | some m => ladFault s Code.markerMismatch 0 c (collQueue s c k) m.1 m.2.1.toNat
  | none =>
    if x.token.isNone && decide (k.senders ≤ ms.length) && ms.all fun m => rowsLanded x m.1 m.2.1 full == m.2.2 then
      collComplete s c k
    else s

/-- R267: the place of a row: the row that its tag began, or the next free one. -/
def rowPlace (rows : List (RowTag × Nat)) (tag : RowTag) : Nat :=
  (rows.findIdx? fun r => r.1.home == tag.home && r.1.dispatch == tag.dispatch && r.1.epoch == tag.epoch && r.1.aslot == tag.aslot).getD rows.length

/-- The refusal or fault of a window write, answered by a WNAK (R299); else `f`. -/
def writeChecked (s : State) (rx : Rx) (w : Nat) (gen : Byte) (off n : Nat) (f : State → State) : State :=
  let nak := fun s c => reply s rx (.wnak (toWin w) gen (BitVec.ofNat 21 off) c)
  match rxRefusal s w gen rx.part with
  | some c => nak (winCount s w c rx.src) c
  | none =>
    match winWriteFault s w off n with
    | some c => nak (winFault s w c rx.src off) c
    | none => f s

/-- A credited write's use of its credit (R103). -/
def winUse (s : State) (w : Nat) : State :=
  let v := getWin s w
  setWin s w { v with outstanding := v.outstanding - 1, writes := v.writes + 1,
                      free := if v.flip then v.free else v.free + 1, held := if v.flip then v.held + 1 else v.held }

/-- LADLE_ROW, R267: a row's unit lands in the queue, whatever its offset. -/
def ladleRow (s : State) (rx : Rx) (w : Nat) (gen : Byte) (off : Nat) (tag : RowTag) (data : List Byte) : State :=
  writeChecked s rx w gen off data.length fun s =>
    let v := getWin s w
    match collAt s v.cell v.region with
    | none => winLand s w off data
    | some (c, k) =>
      let x := getColl s c
      let i := rowPlace x.rows tag
      let u := off / 512 % k.rowUnits
      let r := region (getRec s k.cell).mu k.reg
      if regionSize r < (i + 1) * k.rowUnits * 512 then queueOverflow s c k tag.home.toNat tag.epoch.toNat
      else
        let a := regionBase r (fillHalf (getCell s k.cell).mu k.reg) + i * k.rowUnits * 512 + 512 * u + off % 512
        let s := winUse (muPut s k.cell a data) w
        let m := (x.rows[i]?.map Prod.snd).getD 0
        let m := if bit m u then m else m + 2 ^ u
        let x := { x with last := tag.home.toNat, rows := if i < x.rows.length then x.rows.set i (tag, m) else x.rows ++ [(tag, m)], since := some (x.since.getD s.now) }
        collCheck (setColl s c x) c k

def execLadleRow (rx : Rx) (win : Win) (gen : Byte) (offset : BitVec 21) (tag : RowTag) (data : List Byte) (s : State) :
    Host.Outcome State Fault Refusal :=
  .next (rxFrame s rx (.row win gen offset tag data) fun s => ladleRow s rx win gen offset.toNat tag data)

/-- R268: a count marker reaches its collector. -/
def collMarker (s : State) (c : Nat) (k : LadColl) (queue m : Nat) (ep : BitVec 16) (n : Nat) : State :=
  let x := getColl s c
  collCheck (setColl s c { x with markers := x.markers ++ [(m, ep, n)], queue := some queue }) c k

/-- R270: a flip of a queue's region waits for the count token of its half. -/
def collFlipReady (s : State) (c r : Nat) : Bool :=
  match collAt s c r with
  | none => true
  | some (k, _) => (getColl s k).token.isSome

/-- R271, R274: whether a credit request for a window waits, and at which of the two it waits. -/
def reqHeldBy (s : State) (h : HeldReq) : Option (Bool × Nat) :=
  let v := getWin s h.win
  match collAt s v.cell v.region with
  | some (c, _) =>
    let m := ((findPt s h.part.toNat).map fun e => memberOf s.ring.inForce e.1 h.src.toNat).getD 0
    if (markerOf (getColl s c) m).isSome then some (true, c) else none
  | none =>
    match (List.range (ladDisps (ladSec s))).find? fun d =>
        (ladDisp (ladSec s) d).ans == v.cell && (ladDisp (ladSec s) d).ansReg == v.region with
    | none => none
    | some d =>
      let x := getDisp s d
      let now := (x.flight.head?.map DispHalf.epoch).getD x.epoch
      match h.epoch with
      | none => none
      | some ep => let ahead := (ep - now).toNat; if 1 ≤ ahead ∧ ahead ≤ 32767 then some (false, d) else none

/-- R103, R271, R274: a credit request reaches its window. -/
def reqArrive (s : State) (h : HeldReq) : State :=
  if (rxRefusal s h.win h.gen h.part).isSome then grantReq s h
  else match reqHeldBy s h with
    | none => grantReq s h
    | some (true, c) => let x := getColl s c; setColl s c { x with held := x.held ++ [h], heldN := x.heldN + 1 }
    | some (false, d) => let x := getDisp s d; setDisp s d { x with held := x.held ++ [h] }

/-- Each member's first marker removed: they belonged to the half that has flipped. -/
def nextMarkers (x : CollSt) : List (Nat × BitVec 16 × Nat) := (markMembers x).foldl (fun l m => l.eraseP fun k => k.1 == m) x.markers

/-- R271, R273: the flip of a queue's region: the half is drained, the next one begins, and held requests reach the window. -/
def collFlipped (s : State) (c : Nat) (k : LadColl) : State :=
  let x := getColl s c
  let s := setColl s c { x with
    drained := x.drained ++ [x.rows.map Prod.fst], rows := [], markers := nextMarkers x, token := none, since := none,
    flips := x.flips + 1, held := [] }
  collCheck (x.held.foldl reqArrive s) c k

/-! ### Answers, R273, R274 -/

/-- R273: the flip of a collector's answer region exposes the answers to the next drained half, and their credit is requested. -/
def collExpose (s : State) (c : Nat) (k : LadColl) : State :=
  let x := getColl s c
  match x.drained[x.exposed]? with
  | none => s
  | some tags =>
    let s := x.ansQs.foldl (fun s q => giveBack s q.home q.win q.gen q.credit) s
    let keys := (tags.map fun t => (t.home, t.awin, t.agen, t.epoch)).eraseDups
    let qs : List AnsQ := keys.map fun y => { home := y.1.toNat, win := y.2.1.val, gen := y.2.2.1, epoch := y.2.2.2 }
    let keep := s.job.ckpt.isSome
    let s := setColl s c { x with
      drained := if keep then x.drained else x.drained.drop 1, exposed := if keep then x.exposed + 1 else x.exposed
      answers := (tags.zipIdx).map fun t => (t.2, t.1), past := [], ansQs := qs }
    (qs.zipIdx).foldl (fun s q =>
      let n := (tags.filter fun t => t.home.toNat == q.1.home && t.awin.val == q.1.win && t.agen == q.1.gen && t.epoch == q.1.epoch).length
      askCredits s (.coll c q.2) q.1.home q.1.win q.1.gen (some q.1.epoch) (n * k.ansUnits)) s

/-- The credit line of an answer. -/
def ansLine (x : CollSt) (t : RowTag) : Nat :=
  (x.ansQs.findIdx? fun q => q.home == t.home.toNat && q.win == t.awin.val && q.gen == t.agen && q.epoch == t.epoch).getD 0

/-- R273: after the last answer every unused credit returns. -/
def answersEnd (s : State) (c : Nat) : State :=
  let x := getColl s c
  if !x.answers.isEmpty then s
  else
    let s := x.ansQs.foldl (fun s q => giveBack s q.home q.win q.gen q.credit) s
    let s := setColl s c { x with ansQs := x.ansQs.map fun q => { q with credit := 0 } }
    askGone s fun a => match a with
      | .coll e _ => e == c
      | _ => false

/-- LADLE_ANSWER_SEND, R273: the first answer whose credit covers it is sent to its home slot. -/
def ladleAnswerSend (s : State) (c : Nat) : State :=
  if !jobRuns s || decide (ladColls (ladSec s) ≤ c) then s
  else
    let k := ladColl (ladSec s) c
    let x := getColl s c
    let line := fun (t : RowTag) => nth { home := 0, win := 0, gen := 0, epoch := 0 } x.ansQs (ansLine x t)
    match x.answers.find? fun a => decide (k.ansUnits ≤ (line a.2).credit) with
    | some a =>
      let q := line a.2
      let m := (getCell s k.ans).mu
      let addr := regionBase (region (getRec s k.ans).mu k.ansReg) (!beatHalf m k.ansReg) + a.1 * k.ansUnits * 512
      muThen s k.ans addr (k.ansUnits * 512) fun bs s =>
        let s := ((pieces 512 k.ansUnits bs).zipIdx).foldl (fun s y =>
          originate s ((jobPart s).getD 0) (jobModule s q.home)
            (.answer a.2.awin a.2.agen (BitVec.ofNat 21 (512 * (a.2.aslot.toNat * k.ansUnits + y.2))) a.2.epoch a.2.aslot y.1)) s
        let i := ansLine x a.2
        let s := setColl s c { x with
          answers := x.answers.erase a, past := x.past ++ [a], ansQs := x.ansQs.modify i fun q => { q with credit := q.credit - k.ansUnits } }
        answersEnd (setLad s { s.job.lad with answers := s.job.lad.answers + 1 }) c
    | none =>
      match x.answers.find? fun a => !asking s (.coll c (ansLine x a.2)) with
      | none => s
      | some a =>
        let q := line a.2
        let i := ansLine x a.2
        let n := (x.answers.filter fun b => ansLine x b.2 == i).length
        askCredits s (.coll c i) q.home q.win q.gen (some q.epoch) (n * k.ansUnits - q.credit)

def execLadleAnswerSend (c : Fin 64) (s : State) : Host.Outcome State Fault Refusal := .next (ladleAnswerSend s c)

/-- R274: a frame of a stale answer is dropped: its credit is used, STALE_DROPPED is recorded, and the answer counts once in STALE,
whatever its frames. -/
def staleDrop (s : State) (w d : Nat) (k : LadDisp) (ep : BitVec 16) (slot : Nat) : State :=
  let s := noteLad (winUse s w) Code.staleDropped d 0 0 0 ep.toNat
  let x := getDisp s d
  let n := ((x.dropped.find? fun y => y.1 == ep && y.2.1 == slot).map fun y => y.2.2).getD 0
  let rest := x.dropped.filter fun y => !(y.1 == ep && y.2.1 == slot)
  let s := setDisp s d { x with dropped := if k.ansUnits ≤ n + 1 then rest else rest ++ [(ep, slot, n + 1)] }
  if n = 0 then setLad s { s.job.lad with stale := s.job.lad.stale + 1 } else s

/-- R274: an answer reaches its home. -/
def ladleAnswer (s : State) (rx : Rx) (w : Nat) (gen : Byte) (off : Nat) (ep : BitVec 16) (slot : Nat) (data : List Byte) : State :=
  writeChecked s rx w gen off data.length fun s =>
    let v := getWin s w
    match (List.range (ladDisps (ladSec s))).find? fun d =>
        (ladDisp (ladSec s) d).ans == v.cell && (ladDisp (ladSec s) d).ansReg == v.region with
    | none => winLand s w off data
    | some d =>
      let x := getDisp s d
      match x.flight.head? with
      | none => staleDrop s w d (ladDisp (ladSec s) d) ep slot
      | some h =>
        if h.epoch != ep then staleDrop s w d (ladDisp (ladSec s) d) ep slot
        else if !(h.rows.any fun r => r.slot == slot && r.st == 1) then
          ladFault s Code.answerMismatch d 0 0 0 ep.toNat
        else
          let s := winLand s w off data
          let u := off / 512
          let s := modHalf s d ep fun h => { h with landed := if h.landed.contains u then h.landed else h.landed ++ [u] }
          dispCheck s d

def execLadleAnswer (rx : Rx) (win : Win) (gen : Byte) (offset : BitVec 21) (epoch : BitVec 16) (aslot : BitVec 13) (data : List Byte)
    (s : State) : Host.Outcome State Fault Refusal :=
  .next (rxFrame s rx (.answer win gen offset epoch aslot data) fun s => ladleAnswer s rx win gen offset.toNat epoch aslot.toNat data)

/-! ### The combine, R275, R276 -/

/-- An element of a Ladle format `fmt` (1 FP32, 2 BF16, 3 FP16) as FP32. -/
def ladFloat (fmt x : Nat) : F32 := f32from (outFmt (fmt - 1)) x

/-- R275: answers added element by element, in order, from zero. EXA: 128-bit words. -/
def addExa (rows : List (List Nat)) (n : Nat) : List Exa :=
  rows.foldl (fun acc r => List.zipWith (fun a x => exaAdd a (exaOf x)) acc r) (List.replicate n exaZero)

def addFloat (fmt : Nat) (rows : List (List Nat)) (n : Nat) : List F32 :=
  rows.foldl (fun acc r => List.zipWith (fun a x => f32add a (ladFloat fmt x)) acc r) (List.replicate n f32zero)

/-- R275, R276: the combined row of a position, and whether a word has SAT set. -/
def combineRow (k : LadDisp) (rows : List (List Byte)) : List Byte × Bool :=
  let wd := ladWidth k.ansFmt
  let n := k.ansUnits * 512 / wd
  let els := rows.map fun r => unpack (8 * wd) n (leNat r)
  if k.ansFmt = 0 then
    let acc := addExa els n
    ((acc.flatMap fun a => if k.outFmt = 0 then leBytes 16 (exaWord a)
        else leBytes (ladWidth k.outFmt) (exaConvert a k.anchor (outFmt (k.outFmt - 1)) k.outSat)), acc.any Exa.sat)
  else if k.tables.length = 1 ∧ rows.length = 1 then (rows.flatten, false)
  else ((addFloat k.ansFmt els n).flatMap fun a => leBytes wd (f32to (outFmt (k.outFmt - 1)) k.outSat a), false)

/-- Rows of `n` bytes of an MU at the addresses that `at_` gives; none at an uncorrectable word (R90). -/
def readRows (s : State) (c : Nat) (at_ : Nat → Nat) (n : Nat) : List Nat → List (List Byte) → Option (List (List Byte)) × State
  | [], acc => (some acc, s)
  | i :: is, acc =>
    match muTry s c (at_ i) n with
    | (none, s) => (none, s)
    | (some bs, s) => readRows s c at_ n is (acc ++ [bs])

/-- R275: the rows of the drain half, combined into the fill half of RES_REGION, position by position; a SAT names the dispatch and, in
the record's detail, the token slot (R276). -/
def combineRows (s : State) (d : Nat) (k : LadDisp) (h : DispHalf) : Nat → Nat → State
  | 0, _ => s
  | n + 1, p =>
    let ra := region (getRec s k.ans).mu k.ansReg
    let rr := region (getRec s k.ans).mu k.resReg
    let m := (getCell s k.ans).mu
    let row := k.ansUnits * 512
    let slots := (h.rows.filter fun r => r.p == p && r.st == 1).map LadRow.slot
    let slots := ((List.range k.tables.length).map fun i => p * k.tables.length + i).filter slots.contains
    match readRows s k.ans (fun sl => regionBase ra (!beatHalf m k.ansReg) + sl * row) row slots [] with
    | (none, s) => s
    | (some rows, s) =>
      let c := combineRow k rows
      if c.2 then ladFault s Code.exaSaturated d 0 0 0 h.epoch.toNat [p]
      else
        let out := row * ladWidth k.outFmt / ladWidth k.ansFmt
        combineRows (muPut s k.ans (regionBase rr (beatHalf m k.resReg) + p * out) c.1) d k h n (p + 1)

/-- R275: the answer region has flipped for the awaited half. -/
def dispCombine (s : State) (d : Nat) : State :=
  let x := getDisp s d
  match x.flight with
  | [] => s
  | h :: rest =>
    if h.phase != 3 then s
    else
      let k := ladDisp (ladSec s) d
      let s := setDisp s d { x with flight := rest, halves := x.halves + 1, held := [] }
      let t := combineRows s d k h k.rows 0
      if !jobRuns t then t
      else dispCheck (x.held.foldl reqArrive (requestFlip t k.ans k.resReg true)) d

/-! ### Flips, R264, R270, R273, R275, R278 -/

/-- R270, R278: the Ladle's conditions for a flip of a region: no half of it being sent, no answer of it waiting, and a queue's
count token sent. -/
def ladFlipReady (s : State) (c r : Nat) : Bool :=
  let sec := ladSec s
  (flipsOwed (getCell s c).mu r != 0 || collFlipReady s c r) &&
  ((List.range (ladDisps sec)).all fun d =>
    let k := ladDisp sec d
    !(k.src == c && k.srcReg == r) || (getDisp s d).flight.all fun h => decide (2 ≤ h.phase) && h.rows.all fun r => r.redo.isEmpty) &&
  (List.range (ladColls sec)).all fun q =>
    let k := ladColl sec q
    !(k.ans == c && k.ansReg == r) || (getColl s q).answers.isEmpty

/-- What a flip of a region does in the Ladle. With `again` a replay meets a flip that stands: the queue's half has been drained already
(R113, R277). -/
def ladFlipped (s : State) (c r : Nat) (again : Bool) : State :=
  let sec := ladSec s
  let ds := (List.range (ladDisps sec)).map fun d => (d, ladDisp sec d)
  let qs := (List.range (ladColls sec)).map fun q => (q, ladColl sec q)
  let s := (ds.filter fun x => x.2.ans == c && x.2.ansReg == r).foldl (fun s x => dispCombine s x.1) s
  let s := (qs.filter fun x => x.2.ans == c && x.2.ansReg == r).foldl (fun s x => collExpose s x.1 x.2) s
  let s := if again then s else (qs.filter fun x => x.2.cell == c && x.2.reg == r).foldl (fun s x => collFlipped s x.1 x.2) s
  (ds.filter fun x => x.2.src == c && x.2.srcReg == r).foldl (fun s x =>
    dispBegin s x.1 { letter := (getDisp s x.1).next, side := !beatHalf (getCell s c).mu r } false) s

/-! ### LADLE_STALLED, R279 -/

/-- R279: the members of a collector's half whose markers are missing while fewer than SENDERS have arrived, and those whose counted rows
are. -/
def collMissing (s : State) (k : LadColl) (x : CollSt) : List Nat :=
  let few := decide ((markMembers x).length < k.senders)
  (List.range (((jobPt s).map boxSize).getD 1)).filter fun m => match markerOf x m with
    | none => few
    | some y => decide (rowsLanded x m y.2.1 (2 ^ k.rowUnits - 1) < y.2.2)

/-- R279, R313: LADLE_STALLED, or SLICE_LOST where no way leads to the missing member. -/
def stallFault (s : State) (disp coll epoch : Nat) (missing : List Nat) : State :=
  let gone := missing.find? fun m => match jobPt s with
    | none => false
    | some e => jobModule s m != myIndex s && (route s e (jobModule s m) none).isNone
  match gone with
  | some m => raiseJobFault (noteMil s Code.sliceLost 0 0 ((jobPart s).getD 0) (jobModule s m)) Code.sliceLost
  | none => ladFault s Code.ladleStalled disp coll 0 (missing.headD 0) epoch missing

/-- R273, R274: an answer slot has landed: every unit of it has. -/
def slotLanded (k : LadDisp) (h : DispHalf) (slot : Nat) : Bool := (List.range k.ansUnits).all fun u => h.landed.contains (slot * k.ansUnits + u)

/-- R279: a half has been waiting longer than HALF_LIMIT, since its first landed row or since its source flip; of several of a dispatch
the first is recorded. The record's MEMBER is the first that is missing, and its detail is all of them (log entry 102). -/
def ladleStalled (s : State) (collector : Bool) (i : Nat) : State :=
  let late := fun t => decide (s.limits.halfUs * us < s.now - t)
  if !jobRuns s then s
  else if collector then
    let x := getColl s i
    match x.since with
    | some t =>
      if x.token.isNone && late t then
        stallFault s 0 i ((x.rows.head?.map fun r => r.1.epoch.toNat).getD 0) (collMissing s (ladColl (ladSec s) i) x)
      else s
    | none => s
  else match (getDisp s (i % 16)).flight.find? fun h => late h.since with
    | none => s
    | some h =>
      let k := ladDisp (ladSec s) (i % 16)
      let open_ := h.rows.filter fun r => r.st != 2 && (r.st == 0 || !slotLanded k h r.slot)
      stallFault s (i % 16) 0 h.epoch.toNat ((open_.map fun r => (getBind s r.queue).member).eraseDups)

def execLadleStalled (collector : Bool) (index : Fin 64) (s : State) : Host.Outcome State Fault Refusal :=
  .next (ladleStalled s collector index)

end Sys2Proof.Machine
end

