-- ==== Sys2Proof/Machine/Wins.lean ====
section
/-! DEFINITION. The frames about windows, messages and losses (R103, R299 to R305, R313), and the ring senders (R302). -/

namespace Sys2Proof.Machine

/-! ### Completion tokens, R304 -/

/-- R304: the units landed from a member in the fill half. -/
def wdLanded (w : WDone) (m : Nat) : Nat := Tbl.get 0 w.landed m

/-- R304: WDONE's token is sent when every marker has arrived and its units have landed. -/
def wdCheck (s : State) (w : Nat) : State :=
  let v := getWin s w
  let n := if v.wd.senders = 0 then 256 else v.wd.senders
  if !v.opened || !v.wd.enable then s
  else match v.wd.markers.find? fun m => decide (m.2 < wdLanded v.wd m.1) with
  | some m => ladFault s Code.markerMismatch 0 0 0 m.1 0
  | none =>
    if !v.wd.sent && decide (n ≤ v.wd.markers.length) && v.wd.markers.all fun m => wdLanded v.wd m.1 == m.2 then
      muToken (setWin s w { v with wd := { v.wd with sent := true } }) v.cell (tokenEntry v.wd.token)
    else s

/-- The member index of a frame's sender in the frame's partition. -/
def srcMember (s : State) (rx : Rx) : Nat :=
  ((findPt s rx.part.toNat).map fun e => memberOf s.ring.inForce e.1 rx.src.toNat).getD 0

/-- R303, R304: a unit of a window has been written by a module. -/
def unitLanded (s : State) (rx : Rx) (w off : Nat) : State :=
  let v := getWin s w
  let u := off / 512
  let m := srcMember s rx
  wdCheck (setWin s w { v with
    spent := if v.spent.contains u then v.spent else v.spent ++ [u]
    wd := { v.wd with landed := Tbl.set 0 v.wd.landed m (wdLanded v.wd m + 1) } }) w

/-! ### WRITE, REDUCE_FRAME, WREQ, WRETURN -/

def execWrite (rx : Rx) (win : Win) (gen : Byte) (offset : BitVec 21) (data : List Byte) (s : State) : Host.Outcome State Fault Refusal :=
  .next (rxFrame s rx (.write win gen offset data) fun s =>
    writeChecked s rx win gen offset.toNat data.length fun s => unitLanded (winLand s win offset.toNat data) rx win offset.toNat)

/-- R303: a unit's 32 EXA words added to what it holds, and whether an addition left SAT set. -/
def addUnit (old new : List Byte) : List Byte × Bool :=
  let a := (unpack 128 32 (leNat old)).map exaOf
  let b := (unpack 128 32 (leNat new)).map exaOf
  let c := List.zipWith exaAdd a b
  (c.flatMap fun x => leBytes 16 (exaWord x), c.any Exa.sat)

/-- R303: an ADD on a window: its alignment, then the first add of a unit stores and every later one adds. -/
def addLand (s : State) (rx : Rx) (w off : Nat) (data : List Byte) : State :=
  let v := getWin s w
  if off % 512 ≠ 0 ∨ data.length ≠ 512 ∨ v.flip = false then
    let s := winCount s w Code.addAlign rx.src
    let v := getWin s w
    let s := setWin s w { v with outstanding := v.outstanding - 1 }
    let s := raiseJobFault (noteMil s Code.addAlign 0 0 rx.part.toNat rx.src.toNat) Code.addAlign
    reply s rx (.wnak (toWin w) v.gen (BitVec.ofNat 21 off) Code.addAlign)
  else if v.spent.contains (off / 512) then muThen s v.cell (winAddr s w off) 512 fun bs s =>
    let x := addUnit bs data
    if x.2 then
      let v := getWin s w
      let s := setWin s w { v with lastCode := Code.exaSaturated, lastSrc := rx.src }
      raiseJobFault (noteMu s Code.exaSaturated v.cell 0 off w [off / 512, srcMember s rx]) Code.exaSaturated
    else unitLanded (winLand s w off x.1) rx w off
  else unitLanded (winLand s w off data) rx w off

/-- The checks of an ADD: the refusals, its credit, its alignment, its range. -/
def reduceFrame (s : State) (rx : Rx) (w : Nat) (gen : Byte) (off : Nat) (data : List Byte) : State :=
  if (rxRefusal s w gen rx.part).isNone && (getWin s w).outstanding != 0 && (off % 512 != 0 || data.length != 512) then
    addLand s rx w off data
  else writeChecked s rx w gen off data.length fun s => addLand s rx w off data

def execReduceFrame (rx : Rx) (win : Win) (gen : Byte) (offset : BitVec 21) (data : List Byte) (s : State) :
    Host.Outcome State Fault Refusal :=
  .next (rxFrame s rx (.add win gen offset data) fun s => reduceFrame s rx win gen offset.toNat data)

def execWreq (rx : Rx) (win : Win) (gen : Byte) (n : Byte) (epoch : Option (BitVec 16)) (s : State) : Host.Outcome State Fault Refusal :=
  .next (rxFrame s rx (.wreq win gen n epoch) fun s => reqArrive s ⟨rx.src, rx.part, win, gen, n.toNat, epoch⟩)

/-- R269: a queue's half whose fills wait for free units is looked at again. -/
def fillsAgain (s : State) (w : Nat) : State :=
  let v := getWin s w
  if !winHere s v then s
  else match collAt s v.cell v.region with
    | none => s
    | some (c, k) => collCheck s c k

/-- R103: the return of unused credits. -/
def wreturnArrive (s : State) (rx : Rx) (w : Nat) (gen : Byte) (n : Nat) : State :=
  match winRefusal s w gen rx.part with
  | some c => if c = Code.windowSuspended then winReturn s w n rx.src else winCount s w c rx.src
  | none => fillsAgain (winReturn s w n rx.src) w

/-! ### The jobs of a partition -/

/-- The partition entry of the running job (`none`) or of a saved one, by its place in the list. -/
def ownerPt (s : State) : Option Nat → Option PtEntry
  | none => jobPt s
  | some i => (s.saved[i]?).bind fun k => if k.ctl.noRing then none
      else (s.ring.inForce.pts[k.ctl.ptEntry]?).filter fun e => s.ring.inForce.valid && ptValid e

def ownerJob (s : State) : Option Nat → Job
  | none => s.job
  | some i => ((s.saved[i]?).map SavedJob.job).getD {}

def setOwner (s : State) (o : Option Nat) (j : Job) : State :=
  match o with
  | none => setJob s j
  | some i => { s with saved := s.saved.modify i fun k => { k with job := j } }

/-- A precise fault of the running job, or of a saved one (R104, R313). -/
def failOwner (s : State) (o : Option Nat) (code : Status) : State :=
  match o with
  | none => raiseJobFault s code
  | some i => { s with saved := s.saved.modify i fun k => savedFault k code }

/-- The jobs of a partition, the running one first. -/
def ownersOf (s : State) (part : Nat) : List (Option Nat) :=
  (none :: (List.range s.saved.length).map some).filter fun o => (ownerPt s o).map ptPart == some part

def execWreturn (rx : Rx) (win : Win) (gen : Byte) (n : Byte) (s : State) : Host.Outcome State Fault Refusal :=
  .next (rxFrame s rx (.wreturn win gen n) fun s => wreturnArrive s rx win gen n.toNat)

/-! ### WGRANT, WREQ_RETRY -/

/-- Credit granted to an asker. -/
def creditTo (j : Job) (who : Asker) (g : Nat) : Job :=
  match who with
  | .disp d q ep =>
    let x := nth {} j.lad.disps d
    let fl := x.flight.map fun h => if h.epoch == ep then
      { h with qs := h.qs.map fun k => if k.queue == q then { k with credit := k.credit + g } else k } else h
    { j with lad := { j.lad with disps := j.lad.disps.set d { x with flight := fl } } }
  | .coll c k =>
    let x := nth {} j.lad.colls c
    { j with lad := { j.lad with colls := j.lad.colls.set c { x with ansQs := x.ansQs.modify k fun q => { q with credit := q.credit + g } } } }
  | .sender n => { j with senders := j.senders.modify n fun x => { x with credit := x.credit + g } }
  | .gone => j

/-- R299: the time before a sender asks again after a grant of 0. -/
def askAgain : Nat := us / 2

/-- R262: the table through which a dispatch's half-batch reached a queue. -/
def tableOf (j : Job) (d q : Nat) (ep : BitVec 16) : List Nat :=
  let ts := (ladDisp j.churn.tables.ladle d).tables
  (((nth {} j.lad.disps d).flight.find? fun h => h.epoch == ep).bind fun h => h.rows.find? fun r => r.queue == q).toList.map fun r => nth 0 ts r.t

/-- R262: a refusal for a row's queue: with WINDOW_CLOSED the queue is bound no longer, and QUEUE_UNBOUND is a fault of the sending
job that names the dispatch, the table and the queue. -/
def queueRefused (s : State) (o : Option Nat) (d q : Nat) (ep : BitVec 16) (code : Status) : State :=
  let j := ownerJob s o
  let b := Tbl.get {} j.lad.binds q
  if code = Code.windowClosed then
    let s := setOwner s o { j with lad := { j.lad with binds := Tbl.set {} j.lad.binds q { b with bound := false } } }
    failOwner (noteLad s Code.queueUnbound d 0 q b.member ep.toNat (tableOf j d q ep)) o Code.queueUnbound
  else noteLad s code d 0 q b.member ep.toNat

/-- A request refused for good (R262, R299): the refusal reaches the sending job. -/
def askRefused (s : State) (o : Option Nat) (a : Ask) (code : Status) : State :=
  let j := ownerJob s o
  match a.who with
  | .disp d q ep => queueRefused s o d q ep code
  | .coll c k =>
    let x := nth {} j.lad.colls c
    let q := nth { home := 0, win := 0, gen := 0, epoch := 0 } x.ansQs k
    let s := noteLad s code 0 c 0 q.home q.epoch.toNat
    let x := { x with answers := x.answers.filter fun b => ansLine x b.2 != k }
    let s := setOwner s o { j with lad := { j.lad with colls := j.lad.colls.set c x } }
    if o.isNone then answersEnd s c else s
  | .sender n =>
    let s := noteMil s code 0 0 a.part.toNat a.dst.toNat
    setOwner s o { j with senders := j.senders.modify n fun x => { x with active := false, redo := [] } }
  | .gone => s

/-- The first request in flight that a grant answers. -/
def askFor (j : Job) (rx : Rx) (w : Nat) (gen : Byte) : Option Nat :=
  j.asks.findIdx? fun a => a.dst == rx.src && a.part == rx.part && a.win == w && a.gen == gen && a.retry.isNone

/-- R299: a grant for a request of a saved job: what it still needs waits for the restore (R315). -/
def savedGrant (now : Nat) (j : Job) (i g : Nat) : Job :=
  match j.asks[i]? with
  | none => j
  | some a =>
    let left := if g = 0 then a.n else a.n - g
    let asks := if left = 0 then j.asks.eraseIdx i else j.asks.set i { a with n := left, retry := some now }
    creditTo { j with asks := asks } a.who g

/-- WGRANT, R299. -/
def wgrantArrive (s : State) (rx : Rx) (w : Nat) (gen : Byte) (g : Nat) (status : Status) : State :=
  match askFor s.job rx w gen with
  | some i =>
    match s.job.asks[i]? with
    | none => s
    | some a =>
      let t := setJob s { s.job with asks := s.job.asks.eraseIdx i }
      if status ≠ 0 ∧ status ≠ Code.windowSuspended then askRefused t none a status
      else if a.who = .gone then returnCredits t rx.part.toNat rx.src.toNat (toWin w) gen g
      else if g = 0 then setJob s { s.job with asks := s.job.asks.set i { a with retry := some (s.now + askAgain) } }
      else
        let t := setJob t (creditTo t.job a.who g)
        if g < a.n then askOne t { a with n := a.n - g } else t
  | none =>
    match s.saved.findIdx? fun k => (askFor k.job rx w gen).isSome with
    | some i =>
      let j := ownerJob s (some i)
      let n := (askFor j rx w gen).getD 0
      if status ≠ 0 ∧ status ≠ Code.windowSuspended then
        match j.asks[n]? with
        | none => s
        | some a => askRefused (setOwner s (some i) { j with asks := j.asks.eraseIdx n }) (some i) a status
      else setOwner s (some i) (savedGrant s.now j n g)
    | none => returnCredits s rx.part.toNat rx.src.toNat (toWin w) gen g

def execWgrant (rx : Rx) (win : Win) (gen : Byte) (g : Byte) (status : Status) (s : State) : Host.Outcome State Fault Refusal :=
  .next (rxFrame s rx (.wgrant win gen g status) fun s =>
    if status = 0 ∨ Code.valid status then wgrantArrive s rx win gen g.toNat status else s)

/-- WREQ_RETRY, R299: a request that got nothing is made again after 0.5 µs. -/
def wreqRetry (s : State) (n : Nat) : State :=
  match s.job.asks[n]? with
  | none => s
  | some a =>
    match a.retry with
    | none => s
    | some t =>
      if !jobRuns s || decide (s.now < t) then s
      else
        let s := setJob s { s.job with asks := s.job.asks.eraseIdx n }
        if a.who = .gone then s else askOne s a

def execWreqRetry (n : Nat) (s : State) : Host.Outcome State Fault Refusal := .next (wreqRetry s n)

/-! ### WNAK -/

/-- What a refused write was: a row, with its dispatch, half-batch and answer slot; a unit of a queue whose row a replay has cancelled; a
unit of a ring sender; an answer of a collector. -/
inductive NakHit where
  | row (d q : Nat) (epoch : BitVec 16) (slot : Nat)
  | queue (q : Nat)
  | sender (n : Nat)
  | answer (c : Nat) (a : Nat × RowTag)
  deriving DecidableEq, Repr

/-- R299: the row of a job, in the latest half-batch that has one, whose units hold place `u` of a queue. -/
def nakRow (j : Job) (qs : List Nat) (u : Nat) : Option NakHit :=
  ((List.range 16).flatMap fun d =>
    let n := (ladDisp j.churn.tables.ladle d).rowUnits
    (nth {} j.lad.disps d).flight.reverse.flatMap fun h =>
      (h.rows.filter fun r => r.st == 1 && qs.contains r.queue && decide (r.idx * n ≤ u) && decide (u < (r.idx + 1) * n)).map fun r =>
        NakHit.row d r.queue h.epoch r.slot).head?

/-- R299: the answer of a job that a unit of an answer window belongs to. -/
def nakAnswer (j : Job) (mod : Nat → Nat) (m w : Nat) (gen : Byte) (u : Nat) : Option NakHit :=
  ((List.range 64).flatMap fun c =>
    let x := nth {} j.lad.colls c
    let n := (ladColl j.churn.tables.ladle c).ansUnits
    ((x.past ++ x.answers).filter fun a => mod a.2.home.toNat == m && a.2.awin.val == w && a.2.agen == gen && a.2.aslot.toNat == u / n).map fun a =>
      NakHit.answer c a).head?

/-- R299: which of a job's writes a refusal from window `w` of module `m` names, by its offset. -/
def nakHit (j : Job) (mod : Nat → Nat) (m w : Nat) (gen : Byte) (off : Nat) : Option NakHit :=
  let u := off / 512
  let qs := (j.lad.binds.filter fun b => b.2.bound && mod b.2.member == m && b.2.win == w && b.2.gen == gen).map Prod.fst
  let sends := j.senders.findIdx? fun x =>
    let c := x.cfg.toNat
    bit c 0 && mod (bits c 27 8) == m && bits c 35 6 == w && bits c 41 8 == gen.toNat &&
      decide (bits c 49 12 ≤ u) && decide (u < bits c 49 12 + bits c 15 12)
  nakRow j qs u <|> qs.head?.map NakHit.queue <|> sends.map NakHit.sender <|> nakAnswer j mod m w gen u

/-- A row of a job's half-batch changed, with one more credit on its queue. -/
def rowAgain (j : Job) (d q : Nat) (ep : BitVec 16) (slot u : Nat) : Job :=
  let x := nth {} j.lad.disps d
  let one := fun (h : DispHalf) => if h.epoch != ep then h else { h with
    rows := h.rows.map fun r => if r.slot == slot then { r with redo := r.redo ++ [u] } else r
    qs := h.qs.map fun k => if k.queue == q then { k with credit := k.credit + 1 } else k }
  { j with lad := { j.lad with disps := j.lad.disps.set d { x with flight := x.flight.map one } } }

/-- An answer that is sent again, with one more credit on its line. -/
def answerAgain (j : Job) (c : Nat) (a : Nat × RowTag) : Job :=
  let x := nth {} j.lad.colls c
  let y := { x with
    past := x.past.erase a, answers := if x.answers.contains a then x.answers else a :: x.answers
    ansQs := x.ansQs.modify (ansLine x a.2) fun q => { q with credit := q.credit + 1 } }
  { j with lad := { j.lad with colls := j.lad.colls.set c y } }

/-- R107, R280, R299: a write met a suspended window: its sender keeps the credit and writes the unit again. -/
def nakAgain (j : Job) (off : Nat) : NakHit → Job
  | .row d q ep slot => rowAgain j d q ep slot (off / 512 % (ladDisp j.churn.tables.ladle d).rowUnits)
  | .queue _ => j
  | .sender n => { j with senders := j.senders.modify n fun x =>
      { x with credit := x.credit + 1, redo := x.redo ++ [off / 512 - bits x.cfg.toNat 49 12] } }
  | .answer c a => answerAgain j c a

/-- R299: any other refusal of a write is recorded, and a closed window of a queue is a fault of the job (R262). -/
def nakRefused (s : State) (o : Option Nat) (rx : Rx) (status : Status) : NakHit → State
  | .row d q ep _ => queueRefused s o d q ep status
  | .queue q => queueRefused s o 0 q 0 status
  | _ => noteMil s status 0 0 rx.part.toNat rx.src.toNat

/-- The job of the frame's partition, the running one first, that has made a write, with the write. -/
def nakOwner (s : State) (rx : Rx) (w : Nat) (gen : Byte) (off : Nat) : Option (Option Nat × NakHit) :=
  (ownersOf s rx.part.toNat).findSome? fun o => (ownerPt s o).bind fun e =>
    (nakHit (ownerJob s o) (moduleOf s.ring.inForce e) rx.src.toNat w gen off).map fun h => (o, h)

/-- WNAK, R299: the refusal of a write reaches the sending job, running or saved. The credit of a unit that no write of a job accounts
for goes back. -/
def wnakArrive (s : State) (rx : Rx) (w : Nat) (gen : Byte) (off : Nat) (status : Status) : State :=
  match nakOwner s rx w gen off with
  | some (o, h) =>
    if status ≠ Code.windowSuspended then nakRefused s o rx status h
    else
      let s := setOwner s o (nakAgain (ownerJob s o) off h)
      match h with
      | .queue _ => returnCredits s rx.part.toNat rx.src.toNat w gen 1
      | _ => s
  | none => if status = Code.windowSuspended then returnCredits s rx.part.toNat rx.src.toNat w gen 1
    else noteMil s status 0 0 rx.part.toNat rx.src.toNat

def execWnak (rx : Rx) (win : Win) (gen : Byte) (offset : BitVec 21) (status : Status) (s : State) : Host.Outcome State Fault Refusal :=
  .next (rxFrame s rx (.wnak win gen offset status) fun s => if Code.valid status then wnakArrive s rx win gen offset.toNat status else s)

/-! ### CLOSE, R105 -/

/-- The unused credits that a job holds on a window of member `m`, and the job without them. -/
def takeCredits (j : Job) (m w : Nat) (gen : Byte) : Nat × Job :=
  let onQ := fun (q : LadQ) => let b := Tbl.get {} j.lad.binds q.queue; b.member == m && b.win == w && b.gen == gen
  let onA := fun (q : AnsQ) => q.home == m && q.win == w && q.gen == gen
  let onS := fun (x : Sender) => let c := x.cfg.toNat; bits c 27 8 == m && bits c 35 6 == w && bits c 41 8 == gen.toNat
  let n := ((j.lad.disps.flatMap fun d => d.flight.flatMap DispHalf.qs).filter onQ).foldl (fun t q => t + q.credit) 0 +
    ((j.lad.colls.flatMap CollSt.ansQs).filter onA).foldl (fun t q => t + q.credit) 0 +
    (j.senders.filter onS).foldl (fun t x => t + x.credit) 0
  let halves := fun (l : List DispHalf) => l.map fun h => { h with qs := h.qs.map fun q => if onQ q then { q with credit := 0 } else q }
  (n, { j with
    lad := { j.lad with
      disps := j.lad.disps.map fun d => { d with flight := halves d.flight }
      colls := j.lad.colls.map fun c => { c with ansQs := c.ansQs.map fun q => if onA q then { q with credit := 0 } else q } }
    senders := j.senders.map fun x => if onS x then { x with credit := 0 } else x })

/-- CLOSE, R105: this module returns every unused credit that its jobs hold on the window. -/
def closeArrive (s : State) (rx : Rx) (w : Nat) (gen : Byte) : State :=
  let m := srcMember s rx
  let r := if jobPart s = some rx.part.toNat then takeCredits s.job m w gen else (0, s.job)
  let ks := s.saved.map fun k => takeCredits k.job m w gen
  let n := r.1 + ks.foldl (fun t k => t + k.1) 0
  let s := { s with job := r.2, saved := List.zipWith (fun (k : SavedJob) r => { k with job := r.2 }) s.saved ks }
  returnCredits s rx.part.toNat rx.src.toNat w gen n

def execClose (rx : Rx) (win : Win) (gen : Byte) (s : State) : Host.Outcome State Fault Refusal :=
  .next (rxFrame s rx (.close win gen) fun s => closeArrive s rx win gen)

/-! ### MARKER, R268, R304 -/

/-- A count marker reaches a collector, or a window with a completion token; a closing window drops it (R280). -/
def markerArrive (s : State) (rx : Rx) (w : Nat) (gen : Byte) (queue : BitVec 10) (sender : Byte) (ep : BitVec 16) (count : BitVec 12)
    (plain : Bool) : State :=
  let v := getWin s w
  match rxRefusal s w gen rx.part with
  | some c =>
    if c = Code.windowSuspended then
      setWin s w { v with later := v.later ++
        [⟨rx.src, BitVec.ofNat 16 (myIndex s), rx.part, false, .marker (toWin w) gen queue sender ep count plain⟩] }
    else winCount s w c rx.src
  | none =>
    if v.closing then s
    else if plain then
      let m := sender.toNat
      if v.wd.markers.any fun k => k.1 == m then s
      else wdCheck (setWin s w { v with wd := { v.wd with markers := v.wd.markers ++ [(m, count.toNat)] } }) w
    else match collAt s v.cell v.region with
      | none => s
      | some (c, k) => collMarker s c k queue.toNat sender.toNat ep count.toNat

def execMarker (rx : Rx) (win : Win) (gen : Byte) (queue : BitVec 10) (sender : Byte) (epoch : BitVec 16) (count : BitVec 12)
    (plain : Bool) (s : State) : Host.Outcome State Fault Refusal :=
  .next (rxFrame s rx (.marker win gen queue sender epoch count plain) fun s =>
    markerArrive s rx win gen queue sender epoch count plain)

/-! ### MSG, MSGNAK, R305, R332 -/

/-- MSEND's answer: the first context that waits for one from a module goes on. -/
def msendEnd (cs : List CtxSt) (dst : Nat) (code : Status) : List CtxSt :=
  match cs.findIdx? fun x => match x.waits with
    | .msend _ d => d == dst
    | _ => false with
  | none => cs
  | some i => cs.modify i fun x => match x.waits with
    | .msend rd _ => { ctxPut x rd (code.setWidth 64) with waits := .none, st := if x.st = 2 then 1 else x.st }
    | _ => x

/-- R305: a message's fate reaches its sender, in a running or a saved context. -/
def msendAnswer (s : State) (dst : Nat) (code : Status) : State :=
  let cs := msendEnd s.raler.ctx dst code
  if cs = s.raler.ctx then { s with saved := s.saved.map fun k => { k with ctx := msendEnd k.ctx dst code } }
  else { s with raler := { s.raler with ctx := cs } }

/-- R332: a message enters the inbox, or is refused. -/
def msgArrive (s : State) (rx : Rx) (data : List Byte) : State :=
  if !jobHeld s || jobPart s != some rx.part.toNat then reply s rx (.msgnak Code.windowPartition)
  else if 64 ≤ s.job.inbox.length then
    reply (setJob s { s.job with refused := s.job.refused + 1 }) rx (.msgnak Code.msgRefused)
  else
    let s := setJob s { s.job with inbox := s.job.inbox ++ [(rx.src, data)] }
    let s := raiseAll s jobCtxs 3 (evRecord Code.ok 0 rx.src.toNat)
    if rx.via = .loopback then msendAnswer s rx.src.toNat Code.ok else s

def execMsg (rx : Rx) (data : List Byte) (s : State) : Host.Outcome State Fault Refusal :=
  .next (rxFrame s rx (.msg data) fun s => msgArrive s rx data)

def execMsgnak (rx : Rx) (status : Status) (s : State) : Host.Outcome State Fault Refusal :=
  .next (rxFrame s rx (.msgnak status) fun s => if Code.valid status then msendAnswer s rx.src.toNat status else s)

/-! ### LOST, R313 -/

/-- R229, R314: the module has announced on a port that it leaves. -/
def hasLeft (s : State) (module : Nat) : Bool := s.ring.ports.any fun x => x.farLeaving && x.farIndex.toNat == module

/-- R313: a cause is raised against a job: its fault, and for SLICE_LOST whether the module has been removed (R229). -/
def loseJob (s : State) (cause : Status) (removed : Bool) (o : Option Nat) : State :=
  match o with
  | none =>
    let t := raiseJobFault s cause
    if t.jobc.st = 2 ∧ s.jobc.st ≠ 2 then { t with jobc := { t.jobc with left := removed && cause == Code.sliceLost } } else t
  | some i => { s with saved := s.saved.modify i fun k =>
      let k' := savedFault k cause
      { k' with sliceLost := k.sliceLost || cause == Code.sliceLost
                ctl := { k'.ctl with left := if k.ctl.st = 1 then removed && cause == Code.sliceLost else k.ctl.left } } }

/-- R313: a cause is raised against the running job and the saved jobs of a partition. -/
def lostArrive (s : State) (part : Nat) (cause : Status) (module port : Nat) : State :=
  let s := noteMil s cause port 0 part module
  (ownersOf s part).foldl (fun s o => loseJob s cause (hasLeft s module) o) s

/-- LOST: its CAUSE is SLICE_LOST or PATH_LOST (R313). -/
def execLost (rx : Rx) (cause : Status) (module : BitVec 16) (s : State) : Host.Outcome State Fault Refusal :=
  .next (rxFrame s rx (.lost cause module) fun s =>
    if cause = Code.sliceLost ∨ cause = Code.pathLost then
      lostArrive s rx.part.toNat cause module.toNat (match rx.via with
        | .port p _ => p
        | .loopback => 0)
    else s)

/-! ### Ring senders, R302 -/

/-- RSND_CFG, Table 13.8. -/
structure SendCfg where
  valid : Bool
  add : Bool
  mark : Bool
  cell : Nat
  region : Nat
  units : Nat
  member : Nat
  win : Nat
  gen : Byte
  dst : Nat
  deriving DecidableEq, Repr

def sendCfg (w : Nat) : SendCfg :=
  { valid := bit w 0, add := bit w 1, mark := bit w 2, cell := bits w 3 9, region := bits w 12 3, units := bits w 15 12,
    member := bits w 27 8, win := bits w 35 6, gen := BitVec.ofNat 8 (bits w 41 8), dst := bits w 49 12 }

def getSender (s : State) (n : Nat) : Sender := nth {} s.job.senders n
def setSender (s : State) (n : Nat) (x : Sender) : State := setJob s { s.job with senders := s.job.senders.set n x }

/-- The senders bound to a region. -/
def sendersOn (s : State) (c r : Nat) : List Nat :=
  (List.range 64).filter fun n => let k := sendCfg (getSender s n).cfg.toNat; k.valid && k.cell == c && k.region == r

/-- R302: the region's next flip waits for the send, and for the units that are written again. -/
def sendFlipReady (s : State) (c r : Nat) : Bool := (sendersOn s c r).all fun n => !(getSender s n).active && (getSender s n).redo.isEmpty

/-- R302: a flip starts the sends of the region: credit is requested for every unit. -/
def sendFlipped (s : State) (c r : Nat) : State :=
  (sendersOn s c r).foldl (fun s n =>
    let x := getSender s n
    let k := sendCfg x.cfg.toNat
    askCredits (setSender s n { x with active := true, pos := 0 }) (.sender n) k.member k.win k.gen none (k.units - x.credit)) s

/-- R302: one unit of the drain half as one write; then `f` follows. -/
def sendUnit (s : State) (k : SendCfg) (u : Nat) (f : State → State) : State :=
  let m := (getCell s k.cell).mu
  let off := BitVec.ofNat 21 (512 * (k.dst + u))
  muThen s k.cell (regionBase (region (getRec s k.cell).mu k.region) (!beatHalf m k.region) + 512 * u) 512 fun bs s =>
    f (originate s ((jobPart s).getD 0) (jobModule s k.member)
      (if k.add then .add (toWin k.win) k.gen off bs else .write (toWin k.win) k.gen off bs))

/-- R302: the end of a send: its marker, and any unused credit back. -/
def sendEnd (s : State) (n : Nat) (k : SendCfg) : State :=
  let x := getSender s n
  let s := if k.mark then
    originate s ((jobPart s).getD 0) (jobModule s k.member)
      (.marker (toWin k.win) k.gen 0 (BitVec.ofNat 8 (jobMember s)) 0 (BitVec.ofNat 12 k.units) true) else s
  giveBack (setSender s n { x with active := false, sends := x.sends + 1, credit := 0 }) k.member k.win k.gen x.credit

/-- RING_SENDER_UNIT_SEND, R302. -/
def ringSend (s : State) (n : Nat) : State :=
  let x := getSender s n
  let k := sendCfg x.cfg.toNat
  if !jobRuns s || !k.valid then s
  else match x.redo with
  | u :: rest => if x.credit = 0 then s else sendUnit s k u fun s => setSender s n { x with redo := rest, credit := x.credit - 1 }
  | [] =>
    if !x.active then s
    else if x.credit = 0 then
      (if asking s (.sender n) then s else askCredits s (.sender n) k.member k.win k.gen none (k.units - x.pos))
    else sendUnit s k x.pos fun s =>
      let s := setSender s n { x with pos := x.pos + 1, credit := x.credit - 1 }
      if k.units ≤ x.pos + 1 then sendEnd s n k else s

def execRingSenderUnitSend (n : Fin 64) (s : State) : Host.Outcome State Fault Refusal := .next (ringSend s n)

/-! ### FLIP_TAKE_EFFECT, R101 -/

/-- R101, R174, R270, R278, R302: a pending flip takes effect when every unit that uses its regions is ready. -/
def flipTakeEffect (s : State) (c : Nat) : State :=
  let r := flipTake s c fun i => strFlipReady s c i && ladFlipReady s c i && sendFlipReady s c i
  let again := fun i => flipsOwed (getCell s c).mu i != 0
  r.1.foldl (fun s i => sendFlipped (ladFlipped (strFlipped s c i) c i (again i)) c i) r.2

def execFlipTakeEffect (c : Cell) (s : State) : Host.Outcome State Fault Refusal := .next (flipTakeEffect s c)

end Sys2Proof.Machine
end

