-- ==== Sys2Proof/Machine/Ring.lean ====
section
/-! DEFINITION. The Miled ports (file 13): training and identity (R307, R391), the reliable link (R289 to R291), regulators (R306),
pass-through (R298), lane swaps (R310, R311), breaks and departures (R312 to R314), bit-error tests (R309) and the plan (R294). -/

namespace Sys2Proof.Machine

/-- A frame put on a port's wire. -/
def portWire (s : State) (p : Nat) (w : Wire) : State :=
  let x := getPort s p
  setPort s p { x with wire := x.wire ++ [w] }

/-- The axis of a port, and whether it faces the plus neighbour (R292). -/
def portAxis (p : Nat) : Nat := p / 2
def portPlus (p : Nat) : Bool := p % 2 == 1
def otherPort (p : Nat) : Nat := if p % 2 = 0 then p + 1 else p - 1

/-- R292: the module that the plan in force places on a port. -/
def portNeighbour (s : State) (p : Nat) : Nat :=
  let a := portAxis p
  let me := myIndex s
  let l := axisLen s.ring.inForce a
  let i := axisPos me a
  let j := if portPlus p then (i + 1) % l else (i + l - 1) % l
  me - i * 16 ^ a + j * 16 ^ a

/-- R312: the position of the module on the minus side of a port's link. -/
def portBreak (s : State) (p : Nat) : Nat :=
  let a := portAxis p
  let l := axisLen s.ring.inForce a
  let i := axisPos (myIndex s) a
  if portPlus p then i else (i + l - 1) % l

/-- Whether frames run on a port: UP, or LEAVING. -/
def portRuns (x : PortSt) : Bool := x.st == 2 || x.st == 4

/-! ### Transit shares and buckets, R291, R306 -/

/-- The flits of a plan's transit buffer that serve an entry on one DL. -/
def shareFlits (p : Plan) (e : PtEntry) : Nat :=
  let sum := ((p.pts.filter ptValid).map ptRate).sum
  if sum = 0 then 0 else 63488 * ptRate e / sum / 2

/-- The shares of a plan by partition and DL, and the 64 KiB that serve CRED frames, split in the same way (log entry 104). -/
def planShares (p : Plan) : List (Nat × Nat) :=
  if p.valid then
    ((p.pts.filter ptValid).flatMap fun e => [(shareKey (ptPart e) false, shareFlits p e), (shareKey (ptPart e) true, shareFlits p e)]) ++
      [(shareKey 0 false, 1024), (shareKey 0 true, 1024)]
  else []

/-- R306: a bucket's full level, in sixteenths of a byte. -/
def bucketFull (e : PtEntry) : Int := ptBurst e * 1024 * 16

def getBucket (s : State) (p e : Nat) : Bucket := Tbl.get {} s.ring.buckets (32 * p + e)
def setBucket (s : State) (p e : Nat) (b : Bucket) : State := setRing s { s.ring with buckets := Tbl.set {} s.ring.buckets (32 * p + e) b }

/-- R306: the level of a bucket now. -/
def bucketLevel (now : Nat) (e : PtEntry) (b : Bucket) : Int := min (bucketFull e) (b.tokens + ptRate e * ((now - b.at_ : Nat) : Int))

/-- R306: every bucket of the plan in force starts full. -/
def bucketsFill (s : State) : State :=
  (List.range 8).foldl (fun s p => ((s.ring.inForce.pts.zipIdx).filter fun e => ptValid e.1).foldl (fun s e =>
    setBucket s p e.2 { getBucket s p e.2 with tokens := bucketFull e.1, at_ := s.now, waitAt := none }) s) s

/-- R306: the periods that a frame has waited while the bucket held no token. -/
def bucketStall (now : Nat) (e : PtEntry) (b : Bucket) : Nat :=
  match b.waitAt with
  | none => 0
  | some t =>
    let need := if 0 < b.tokens then 0 else ((1 - b.tokens).toNat + ptRate e - 1) / max 1 (ptRate e)
    min now (b.at_ + need) - t

/-! ### Custody, R290 -/

/-- R290: custody of a frame received on a port ends; its release is reported in order. -/
def custodyEnd (s : State) (o : Nat × BitVec 16 × Bool) : State :=
  let x := getPort s o.1
  setPort s o.1 (portRelease { x with open_ := x.open_.map fun e => if e.1 == o.2.1 then (e.1, true) else e })

/-- The flits of a frame leave the transit share, and their credit is owed (R291). -/
def shareLeave (s : State) (o : Nat × BitVec 16 × Bool) (f : Frame) : State :=
  let x := getPort s o.1
  let k := frameKey f o.2.2
  let n := flits f.body
  setPort s o.1 { x with used := shareSub x.used k n, owed := shareAdd x.owed k n }

/-- A queued frame is given up: a frame that passed through leaves its share, and its custody ends. -/
def dropFrame (s : State) (q : QFrame) : State :=
  match q.origin with
  | none => s
  | some o => custodyEnd (shareLeave s o q.f) o

/-- A queued frame takes the way that the routes now give, or is given up. -/
def requeue (s : State) (q : QFrame) : State :=
  match findPt s q.f.part.toNat with
  | none => dropFrame s q
  | some e =>
    match route s e.1 q.f.dst.toNat none with
    | none => dropFrame s q
    | some r => portQueue s r.1 { q with f := { q.f with dl := r.2 } }

/-- R312: frames queued on a port turn back where their way no longer leads through it. -/
def turnBack (s : State) (p : Nat) : State :=
  let x := getPort s p
  let stays := fun (q : QFrame) => x.st != 0 && !x.farLeaving && (match findPt s q.f.part.toNat with
    | none => false
    | some e => (route s e.1 q.f.dst.toNat (some (portAxis p, portPlus p, q.f.dl))).elim false fun r => r.1 == p)
  let s := setPort s p { x with queue := x.queue.filter stays }
  (x.queue.filter fun q => !stays q).foldl requeue s

/-! ### FRAME_TRANSMIT, R291, R306 -/

def replayFlits (x : PortSt) : Nat := (x.replay.map fun c => flits c.q.f.body).sum

/-- The frame starts: its LSEQ, its charge, its custody, and the share it leaves. -/
def frameStart (s : State) (p i : Nat) (q : QFrame) (e : PtEntry) (n : Nat) : State :=
  let x := getPort s p
  let l := x.txSeq + 1
  let k := frameKey q.f q.f.dl
  let m := flits q.f.body
  let b := getBucket s p n
  let s := setBucket s p n { b with
    tokens := bucketLevel s.now e b - 16 * 32 * m, at_ := s.now, waitAt := none,
    stalls := b.stalls + bucketStall s.now e b, bytes := b.bytes + 32 * m }
  let s := setPort s p { x with
    queue := x.queue.eraseIdx i, txSeq := l, replay := x.replay ++ [{ lseq := l, q := q }], credit := shareSub x.credit k m
    txBytes := x.txBytes + 32 * m, transitBytes := if q.origin.isSome then x.transitBytes + 32 * m else x.transitBytes
    wire := x.wire ++ [.frame l q.f] }
  let s := setRing s { s.ring with quietSince := s.ring.quietSince.set (portAxis p) s.now }
  match q.origin with
  | some o => shareLeave s o q.f
  | none =>
    match q.f.body with
    | .add .. => if jobPart s = some q.f.part.toNat then hazard s 5 else s
    | _ => s

/-- R314: a leaving module originates no frame but LOST. -/
def mayLeave (s : State) (q : QFrame) : Bool := q.origin.isSome || !s.ring.leaving || (match q.f.body with
  | .lost .. => true
  | _ => false)

/-- R297: the queued frames of a partition and class that may start: each the first of its partition, origin and destination. -/
def mayStart (s : State) (qs : List QFrame) (part : Nat) (data : Bool) : List (QFrame × Nat) :=
  qs.zipIdx.filter fun c => c.1.f.part.toNat == part && bodyData c.1.f.body == data && mayLeave s c.1 &&
    (qs.take c.2).all fun r => !mayLeave s r || r.f.part != c.1.f.part || r.f.src != c.1.f.src || r.f.dst != c.1.f.dst

/-- R291: the neighbour has granted its shares, this frame's partition among them, or not among them. -/
def shareHeld (x : PortSt) (f : Frame) : Bool := x.share.contains (shareKey f.part.toNat f.dl)
def shareDenied (x : PortSt) (f : Frame) : Bool :=
  !shareHeld x f && x.share.contains (shareKey 0 false) && x.share.contains (shareKey 0 true)

/-- R289, R291: the port holds link credit for every flit of a frame, and the replay buffer has room for it. -/
def frameCredit (x : PortSt) (f : Frame) : Bool :=
  shareHeld x f && decide (flits f.body ≤ Tbl.get 0 x.credit (frameKey f f.dl)) && decide (replayFlits x + flits f.body ≤ 16384)

/-- R291: a queued frame without an entry or a share is dropped and recorded. -/
def frameDrop (s : State) (p part : Nat) (c : QFrame × Nat) : State :=
  let x := getPort s p
  unknownPart (dropFrame (setPort s p { x with queue := x.queue.eraseIdx c.2 }) c.1) p part c.1.f.dst.toNat

/-- FRAME_TRANSMIT: a frame without a share goes; else the first frame with credit starts, once its bucket holds tokens. -/
def frameTransmit (s : State) (p part : Nat) (data : Bool) : State :=
  let x := getPort s p
  let able := mayStart s x.queue part data
  if !portRuns x || x.farLeaving || x.swapping.isSome then s
  else match findPt s part with
  | none => able.head?.elim s (frameDrop s p part)
  | some e =>
    match able.find? (fun c => shareDenied x c.1.f), able.find? fun c => frameCredit x c.1.f with
    | some c, _ => frameDrop s p part c
    | none, none => s
    | none, some c =>
      let b := getBucket s p e.2
      if bucketLevel s.now e.1 b ≤ 0 then setBucket s p e.2 { b with waitAt := some (b.waitAt.getD s.now) }
      else frameStart s p c.2 c.1 e.1 e.2

def execFrameTransmit (p : Port) (part : Byte) (data : Bool) (s : State) : Host.Outcome State Fault Refusal :=
  .next (frameTransmit s p part.toNat data)

/-! ### TRANSIT_FRAME, R298 -/

/-- R295, R298: a frame for another module is received into its share and queued for the way on. -/
def transitFrame (s : State) (p : Nat) (lseq : BitVec 16) (f : Frame) : State :=
  if f.dst.toNat = myIndex s then s
  else match findPt s f.part.toNat with
  | none =>
    match portAccept s p lseq f true with
    | none => s
    | some t => unknownPart t p f.part.toNat f.dst.toNat
  | some e =>
    match portAccept s p lseq f false with
    | none => s
    | some t =>
      let q : QFrame := ⟨f, some (p, lseq, f.dl)⟩
      match route t e.1 f.dst.toNat (some (portAxis p, !portPlus p, f.dl)) with
      | none => dropFrame t q
      | some r => portQueue t r.1 { q with f := { f with dl := r.2 } }

def execTransitFrame (p : Port) (lseq : BitVec 16) (f : Frame) (s : State) : Host.Outcome State Fault Refusal :=
  .next (transitFrame s p lseq f)

/-! ### ACK, ACK_SEND, CRC_FAILURE, R289 to R291 -/

/-- `a` is at or before `b`, modulo 2^16. -/
def seqLe (a b : BitVec 16) : Bool := decide ((b - a).toNat < 32768)

/-- R289: every frame after `a` is sent again, in order. -/
def replayFrom (s : State) (p : Nat) (a : BitVec 16) : State :=
  let x := getPort s p
  let l := x.replay.filter fun c => !seqLe c.lseq a
  if l.isEmpty then s
  else setPort s p { x with wire := x.wire ++ l.map (fun c => .frame c.lseq c.q.f), replays := x.replays + 1 }

/-- ACK, R289 to R291: frames acknowledged, custody released, credit granted, and with NAK a replay. -/
def ackArrive (s : State) (p : Nat) (a rel : BitVec 16) (nak : Bool) (part : Nat) (dl : Bool) (n : Nat) : State :=
  let x := getPort s p
  if !portRuns x then s
  else
    let new := x.replay.filter fun c => !c.acked && seqLe c.lseq a
    let out := x.replay.filter fun c => seqLe c.lseq rel
    let k := shareKey part dl
    let s := setPort s p { x with
      replay := (x.replay.filter fun c => !seqLe c.lseq rel).map fun c => if seqLe c.lseq a then { c with acked := true } else c
      credit := if n = 0 then x.credit else shareAdd x.credit k n
      share := if n = 0 ∨ x.share.contains k then x.share else x.share ++ [k]
      lastRx := s.now }
    let s := (new.filterMap fun c => c.q.origin).foldl custodyEnd s
    let s := out.foldl (fun s c => match c.q.origin, c.q.f.body with
      | none, .msg _ => msendAnswer s c.q.f.dst.toNat Code.ok
      | _, _ => s) s
    if nak then replayFrom s p a else s

def execAck (p : Port) (ackLseq releaseLseq : BitVec 16) (nak : Bool) (creditPart : Byte) (creditDl : Bool) (creditFlits : BitVec 16)
    (s : State) : Host.Outcome State Fault Refusal :=
  .next (ackArrive s p ackLseq releaseLseq nak creditPart.toNat creditDl creditFlits.toNat)

/-- An ACK frame: what has been received and released, and the first credit owed. -/
def ackFrame (s : State) (p : Nat) (nak : Bool) : State :=
  let x := getPort s p
  match x.owed with
  | [] => setPort s p { x with wire := x.wire ++ [.ack x.rxSeq x.released nak 0 false 0], ackAt := none, relSent := x.released }
  | (k, n) :: _ =>
    let g := min n 65535
    setPort s p { x with
      wire := x.wire ++ [.ack x.rxSeq x.released nak (BitVec.ofNat 8 (k / 2)) (k % 2 == 1) g], ackAt := none,
      relSent := x.released, owed := shareSub x.owed k g }

/-- ACK_SEND, R289. -/
def ackSend (s : State) (p : Nat) : State :=
  let x := getPort s p
  if portRuns x && (x.ackAt.isSome || !x.owed.isEmpty || x.relSent != x.released) then ackFrame s p false else s

def execAckSend (p : Port) (s : State) : Host.Outcome State Fault Refusal := .next (ackSend s p)

/-- CRC_FAILURE, R287, R289: a malformed frame is counted on every port that receives frames; where frames run, a NAK names the
last good one, after every failure again, so a replay whose first frame fails is asked for once more. -/
def crcFailure (s : State) (p : Nat) (malformed : Bool) : State :=
  let x := getPort s p
  let s := if malformed && x.st != 0 && x.st != 5 then setRing s { s.ring with frameBad := s.ring.frameBad + 1 } else s
  if portRuns x then ackFrame (setPort s p { x with lastRx := s.now }) p true else s

def execCrcFailure (p : Port) (malformed : Bool) (s : State) : Host.Outcome State Fault Refusal := .next (crcFailure s p malformed)

/-! ### Breaks, R312, R313 -/

/-- R313: a LOST frame to every other member, and the cause raised here where this module is a member. -/
def sendLost (s : State) (part : Nat) (cause : Status) (module port : Nat) : State :=
  match findPt s part with
  | none => s
  | some e =>
    let ms := members s.ring.inForce e.1
    let s := (ms.filter fun m => m != myIndex s).foldl (fun s m => sendFrame s e.1 m (.lost cause (BitVec.ofNat 16 module))) s
    if ms.contains (myIndex s) then lostArrive s part cause module port else s

/-- R312, step 4: whether the breaks of an axis part the members of a partition on this module's line. -/
def parted (s : State) (a : Nat) (e : PtEntry) : Bool :=
  let p := s.ring.inForce
  let bs := nth [] s.ring.breaks a
  let line := (List.range 4).all fun b => b == a || decide (boxOff p e (myIndex s) b < ptExt e b)
  let arc := fun i => (bs.filter fun b => decide (b < i)).length % bs.length
  let is := (List.range (ptExt e a)).map fun k => (axisPos (ptOrigin e) a + k) % axisLen p a
  line && decide (2 ≤ bs.length) && is.any fun i => arc i != arc (is.headD 0)

/-- R312, step 4: the partitions that the breaks of an axis part are sent SLICE_LOST. -/
def sliceCheck (s : State) (a module port : Nat) : State :=
  ((s.ring.inForce.pts.filter ptValid).filter (parted s a)).foldl (fun s e => sendLost s (ptPart e) Code.sliceLost module port) s

/-- R312, step 1: BREAK on a port, repeated until a heartbeat acknowledges it (R315). -/
def sendRepeated (s : State) (p : Nat) (w : Wire) : State :=
  let x := getPort s p
  if x.st = 2 ∨ x.st = 4 then setPort s p { x with wire := x.wire ++ [w], repeats := x.repeats ++ [w] } else s

/-- R312: a break becomes known; routes change, and queued frames turn back. -/
def breakNew (s : State) (a b : Nat) : State :=
  let l := nth [] s.ring.breaks a
  let r := nth [] s.ring.restored a
  let s := setRing s { s.ring with
    breaks := s.ring.breaks.set a (if l.contains b then l else l ++ [b]), restored := s.ring.restored.set a (r.erase b) }
  turnBack (turnBack s (2 * a)) (2 * a + 1)

/-- R312, steps 1, 2 and 4, at an end of a link. -/
def breakHere (s : State) (p module : Nat) : State :=
  let a := portAxis p
  let b := portBreak s p
  let s := breakNew s a b
  let s := noteMil s Code.ringBroken p 0 0 module
  let s := sendRepeated s (otherPort p) (.brk a b false)
  sliceCheck s a module p

/-- R312, step 3: PATH_LOST to every partition with a frame in custody; those frames are discarded. -/
def custodyLost (s : State) (p module : Nat) : State :=
  let x := getPort s p
  let parts := (x.replay.map fun c => c.q.f.part.toNat).eraseDups
  let s := setPort s p { x with replay := [] }
  let s := (x.replay.filterMap fun c => c.q.origin).foldl custodyEnd s
  parts.foldl (fun s k => sendLost s k Code.pathLost module p) s

/-- A port's link goes down for a reason other than a completed departure. -/
def linkFail (s : State) (p : Nat) (st : Nat) : State :=
  let x := getPort s p
  let m := portNeighbour s p
  let s := setPort s p { x with st := st, downs := x.downs + 1, identAt := if st = 0 then none else x.identAt, swapping := none }
  let s := if st = 0 then noteMil s Code.portDown p 0 0 m else s
  chargeInterruption (custodyLost (breakHere s p m) p m)

/-- LINK_DOWN, R308. -/
def linkDown (s : State) (p : Nat) (cause : DownCause) : State :=
  let x := getPort s p
  if x.st = 2 ∨ x.st = 4 then
    if cause = .silence ∧ s.now < x.lastRx + 24 * us then s else linkFail s p 0
  else if x.st = 1 ∨ x.st = 3 then
    noteMil (setPort s p { x with st := 0, downs := x.downs + 1, identAt := none }) Code.portDown p 0 0 x.farIndex.toNat
  else s

def execLinkDown (p : Port) (cause : DownCause) (s : State) : Host.Outcome State Fault Refusal := .next (linkDown s p cause)

/-- BREAK, R312: a new break is recorded and forwarded; with UP, the axis waits to be quiet. -/
def breakArrive (s : State) (p a b : Nat) (up : Bool) : State :=
  let x := getPort s p
  let known := (nth [] s.ring.breaks a).contains b
  let back := (nth [] s.ring.restored a).contains b
  if !portRuns x || portAxis p != a then s
  else
    let s := setPort s p { x with lastRx := s.now }
    let on := otherPort p
    if up then
      if !known || back then s
      else
        let r := nth [] s.ring.restored a
        sendRepeated (setRing s { s.ring with restored := s.ring.restored.set a (r ++ [b]), quietSince := s.ring.quietSince.set a s.now })
          on (.brk a b true)
    else if known && !back then s
    else noteMil (sendRepeated (breakNew s a b) on (.brk a b false)) Code.ringBroken p 0 0 x.farIndex.toNat

def execBreak (p : Port) (axis : Fin 4) (position : BitVec 4) (up : Bool) (s : State) : Host.Outcome State Fault Refusal :=
  .next (breakArrive s p axis position.toNat up)

/-- ROUTE_RESTORE, R312: the routes of an axis return once no frame has been sent on it for 1 µs. -/
def routeRestore (s : State) (a : Nat) : State :=
  let r := nth [] s.ring.restored a
  if r.isEmpty || decide (s.now < nth 0 s.ring.quietSince a + us) then s
  else setRing s { s.ring with
    breaks := s.ring.breaks.set a ((nth [] s.ring.breaks a).filter fun b => !r.contains b), restored := s.ring.restored.set a [] }

def execRouteRestore (axis : Fin 4) (s : State) : Host.Outcome State Fault Refusal := .next (routeRestore s axis)

/-! ### Training and identity, R284, R307, R391 -/

/-- The lane map of a port that trains: the twelve lanes beside the spare in order (L12 in place of a restored lane that stands
by, R412), the spare in place of the first that is not healthy. -/
def laneMapOf (ok : BitVec 13) (spare : Nat) : List Nat :=
  let base := (List.range 12).map fun i => if i = spare then 12 else i
  let bad := base.filter fun i => !ok.getLsbD i
  (base.map fun i => if bad.head? = some i && ok.getLsbD spare then spare else i).filter fun i => ok.getLsbD i

/-- IDENT on a port's wire. -/
def identWire (s : State) (p : Nat) : Wire := .ident moduleSerial p (if s.ring.inForce.valid then s.ring.inForce.id else 0)
  (BitVec.ofNat 16 (myIndex s))

/-- Whether the plan in force leaves a port in use (R292, R391). -/
def portUsed (s : State) (p : Nat) : Bool := !s.ring.inForce.valid || decide (1 < axisLen s.ring.inForce (portAxis p))

/-- PORT_TRAINED, R284: the lanes that trained are mapped, and the port sends IDENT; fewer than 8 leave it DOWN (R311). -/
def portTrained (s : State) (p : Nat) (lanesOk : BitVec 13) : State :=
  let x := getPort s p
  let ok := lanesOk &&& ~~~x.retired
  let map := laneMapOf ok x.spare
  if !s.boot.powered || !s.power.refLink || s.ring.leaving || !portUsed s p || !(x.st == 0 || (x.st == 1 && x.identAt.isNone)) then s
  else if map.length < 8 then noteMil (setPort s p { x with st := 0, map := map, laneOk := ok }) Code.portDown p 0 0 0
  else
    let s := setPort s p { x with
      st := 1, map := map, spareUsed := map.contains x.spare, laneOk := ok, identAt := some s.now, lastRx := s.now, farLeaving := false
      wire := x.wire ++ [identWire s p] }
    if map.length < 12 then noteMil s Code.portDegraded p 0 0 0 else s

def execPortTrained (p : Port) (lanesOk : BitVec 13) (s : State) : Host.Outcome State Fault Refusal := .next (portTrained s p lanesOk)

/-- IDENT_SEND, R307: every 1 ms after training. -/
def identSend (s : State) (p : Nat) : State :=
  let x := getPort s p
  match x.identAt with
  | none => s
  | some t =>
    if x.st = 0 ∨ x.st = 5 ∨ s.now < t + ms then s
    else setPort s p { x with identAt := some s.now, wire := x.wire ++ [identWire s p] }

def execIdentSend (p : Port) (s : State) : Host.Outcome State Fault Refusal := .next (identSend s p)

/-- R307: the far end's identity agrees with the plan. -/
def identOk (s : State) (p : Nat) (x : PortSt) : Bool :=
  let f := s.ring.inForce
  f.valid && portUsed s p && x.farPlan == f.id && x.farIndex.toNat == portNeighbour s p && x.farPort == otherPort p &&
  (!nth false f.expCheck p || x.farSerial == nth 0 f.expSerial p)

/-- R291, R312: a link comes up: sequence numbers start again, shares are granted, and a break of the link heals. -/
def linkUp (s : State) (p : Nat) (x : PortSt) : State :=
  let s := setPort s p { x with
    st := 2, txSeq := 0, replay := [], credit := [], share := [], rxSeq := 0, open_ := [], ackAt := none,
    released := 0, relSent := 0, used := [], owed := (planShares s.ring.inForce).foldl (fun t k => shareAdd t k.1 k.2) [],
    repeats := [], lastRx := s.now, farLeaving := false }
  let a := portAxis p
  let b := portBreak s p
  if (nth [] s.ring.breaks a).contains b then
    let r := nth [] s.ring.restored a
    sendRepeated (setRing s { s.ring with
      restored := s.ring.restored.set a (if r.contains b then r else r ++ [b]), quietSince := s.ring.quietSince.set a s.now })
      (otherPort p) (.brk a b true)
  else s

/-- IDENT, R307, R391. -/
def identArrive (s : State) (p : Nat) (serial : Word) (farPort : Nat) (plan : BitVec 32) (src : BitVec 16) : State :=
  let x := getPort s p
  if x.identAt.isNone || x.st == 0 || x.st == 5 then s
  else
    let x := { x with farSerial := serial, farPort := farPort, farPlan := plan, farIndex := src, lastRx := s.now }
    if x.st = 4 ∨ !s.ring.inForce.valid then setPort s p x
    else if identOk s p x then (if x.st = 2 then setPort s p x else linkUp s p x)
    else if x.st = 3 then setPort s p x
    else if x.st = 2 then linkFail (noteMil (setPort s p x) Code.portMiswired p 0 0 src.toNat) p 3
    else noteMil (setPort s p { x with st := 3 }) Code.portMiswired p 0 0 src.toNat

def execIdent (p : Port) (serial : Word) (farPort : Port) (planId : BitVec 32) (src : BitVec 16) (s : State) :
    Host.Outcome State Fault Refusal :=
  .next (identArrive s p serial farPort planId src)

/-- HEARTBEAT, R308, R315: a heartbeat, and with it the BREAK and LEAVING frames that none has acknowledged. -/
def heartbeat (s : State) (p : Nat) : State :=
  let x := getPort s p
  if portRuns x then setPort s p { x with hbAt := s.now, wire := x.wire ++ [.heartbeat x.st s.ring.leaving] ++ x.repeats } else s

def execHeartbeat (p : Port) (s : State) : Host.Outcome State Fault Refusal := .next (heartbeat s p)

/-- R285, R286: what a receiver has counted since the last heartbeat: codewords corrected and uncorrectable, and the bit errors of
L12 while it is out of service (log entry 105). -/
def lineCount (x : PortSt) (c : LineErrors) : PortSt :=
  { x with fecCorr := x.fecCorr + c.corr, fecUncorr := x.fecUncorr + c.uncorr
           l12Errors := if x.map.contains 12 then x.l12Errors else x.l12Errors + c.l12 }

/-- HEARTBEAT_RECEIVE, R308, R315. -/
def heartbeatReceive (s : State) (p : Nat) (c : LineErrors) : State :=
  let x := getPort s p
  if portRuns x then setPort s p { lineCount x c with lastRx := s.now, repeats := [] } else s

def execHeartbeatReceive (p : Port) (_state : BitVec 3) (news : HeartbeatNews) (s : State) : Host.Outcome State Fault Refusal :=
  .next (heartbeatReceive s p news.errors)

/-! ### Lanes, R310, R311 -/

/-- R310, R311: an active lane is retired: its place goes to the spare, or it is removed; SWAP tells the far end. -/
def laneRetire (s : State) (p lane : Nat) : State :=
  let x := getPort s p
  if !(x.st == 2 || x.st == 3 || x.st == 4) || !x.map.contains lane then s
  else
    let spare := !x.spareUsed && x.laneOk.getLsbD x.spare
    let map := if spare then x.map.map fun l => if l == lane then x.spare else l else x.map.filter fun l => l != lane
    let s := setPort s p { x with
      map := map, spareUsed := x.spareUsed || spare, laneOk := x.laneOk &&& ~~~(1#13 <<< lane), retired := x.retired ||| (1#13 <<< lane)
      swaps := x.swaps + 1, swapping := some lane, wire := x.wire ++ [.swap lane map.length] }
    let s := if spare then s else noteMil s Code.portDegraded p lane 0 0
    if map.length < 8 then
      if portRuns x then linkFail s p 0
      else noteMil (setPort s p { getPort s p with st := 0, identAt := none, swapping := none }) Code.portDown p 0 0 0
    else s

def execLaneRetire (p : Port) (lane : Fin 13) (s : State) : Host.Outcome State Fault Refusal := .next (laneRetire s p lane)

/-- SWAP, R310: the far end has moved the lane; this end does the same. -/
def execSwap (p : Port) (lane : Fin 13) (_width : BitVec 4) (s : State) : Host.Outcome State Fault Refusal := .next (laneRetire s p lane)

/-- LANE_SWAPPED, R310, R315: both receivers have deskewed; the replay from the last acknowledged frame is done. -/
def laneSwapped (s : State) (p : Nat) : State :=
  let x := getPort s p
  match x.swapping with
  | none => s
  | some l =>
    let s := setPort s p { x with swapping := none }
    let acked := (x.replay.filter fun c => c.acked).getLast?.map Custody.lseq
    let s := replayFrom s p (acked.getD ((x.replay.head?.map fun c => c.lseq - 1).getD 0))
    let s := if x.map.length = 12 then noteMil s Code.laneSwapped p l 0 0 else s
    chargeInterruption s

def execLaneSwapped (p : Port) (s : State) : Host.Outcome State Fault Refusal := .next (laneSwapped s p)

/-! ### Departures, R314 -/

/-- R314, steps 1 and 2: the module stops originating frames and sends LEAVING WARN on every UP port. -/
def leaveRing (s : State) : State :=
  (List.range 8).foldl (fun s p =>
    let x := getPort s p
    if x.st = 2 then setPort s p { x with st := 4, wire := x.wire ++ [.leaving false], repeats := x.repeats ++ [.leaving false] } else s)
    (setRing s { s.ring with leaving := true })

/-- LEAVING, R314, step 3 and 5: the neighbour leaves, or has left. -/
def leavingArrive (s : State) (p : Nat) (done : Bool) : State :=
  let x := getPort s p
  let m := x.farIndex.toNat
  if !portRuns x then s
  else if done then
    let s := setPort s p { x with st := 0, identAt := none, replay := [], lastRx := s.now }
    noteMil ((x.replay.filterMap fun c => c.q.origin).foldl custodyEnd s) Code.neighbourLeft p 0 0 m
  else if x.farLeaving then setPort s p { x with lastRx := s.now }
  else
    let s := breakHere (setPort s p { x with farLeaving := true, lastRx := s.now }) p m
    ((s.ring.inForce.pts.filter ptValid).filter fun e => inBox s.ring.inForce e m).foldl (fun s e =>
      sendLost s (ptPart e) Code.sliceLost m p) s

def execLeaving (p : Port) (done : Bool) (s : State) : Host.Outcome State Fault Refusal := .next (leavingArrive s p done)

/-- R314, step 4: every frame that passes through has been forwarded, and custody of every frame sent is released. -/
def departed (s : State) : Bool :=
  s.ring.ports.all fun x => x.st != 4 || (x.replay.isEmpty && x.swapping.isNone && x.queue.all fun q => q.origin.isNone)

/-- LEAVING_DONE_SEND, R314, step 5. -/
def leavingDone (s : State) : State :=
  if s.ring.leaving && departed s then
    (List.range 8).foldl (fun s p =>
      let x := getPort s p
      if x.st = 4 then setPort s p { x with st := 0, identAt := none, queue := [], repeats := [], wire := x.wire ++ [.leaving true] } else s) s
  else s

/-! ### Bit-error tests, R309 -/

/-- A write of BER_CTRL: its fields are kept and START begins a test; the status of a refusal. -/
def berWrite (s : State) (p v : Nat) : Option Status × State :=
  let x := getPort s p
  let mode := bit v 1
  if bits v 15 16 = 0 then (some Code.badArgument, s)
  else if bit v 0 ∧ (x.test.isSome ∨ (mode ∧ x.st ≠ 0 ∧ x.st ≠ 3)) then (some Code.busy, s)
  else
    let x := { x with berMode := mode, berLanes := BitVec.ofNat 13 (bits v 2 13), berMs := bits v 15 16 }
    if bit v 0 then (none, setPort s p { x with test := some s.now, berDone := false, st := if mode then 5 else x.st,
                                                identAt := if mode then none else x.identAt })
    else (none, setPort s p x)

/-- R309: the raw bits of one lane in a test of `n` ms: 106.25 GBd of PAM4. -/
def berBits (n : Nat) : Nat := 212500000 * n

/-- BER_TEST_END, R309. -/
def berEnd (s : State) (p : Nat) (errors : List Nat) : State :=
  let x := getPort s p
  match x.test with
  | none => s
  | some t =>
    if s.now < t + x.berMs * ms then s
    else
      let lanes := if x.berMode then (List.range 13).filter fun l => x.berLanes.getLsbD l else [12]
      let err := fun l => nth 0 errors l
      let failed := lanes.filter fun l => decide (berBits x.berMs < err l * 100000)
      let worst := lanes.foldl (fun w l => if err w < err l then l else w) (lanes.headD 0)
      let s := setPort s p { x with
        test := none, berDone := true, st := if x.berMode then 0 else x.st
        berFailed := failed.foldl (fun m l => m ||| (1#13 <<< l)) 0, berWorst := worst, berErrors := err worst }
      match failed with
      | [] => s
      | l :: _ => noteMil s Code.berFail p l 0 0

def execBerTestEnd (p : Port) (errors : List Nat) (s : State) : Host.Outcome State Fault Refusal := .next (berEnd s p errors)

/-! ### The plan, R294, R315 -/

/-- R294: the entry is within its ranges. -/
def ptOk (p : Plan) (e : PtEntry) : Bool :=
  decide (1 ≤ ptPart e) && decide (1 ≤ ptRate e) && decide (ptRate e ≤ 2950) && decide (1 ≤ ptBurst e) && decide (boxSize e ≤ 256) &&
  (List.range 4).all fun a => decide (ptExt e a ≤ axisLen p a) && decide (ptDir e a < 3) && decide (axisPos (ptOrigin e) a < axisLen p a) &&
    (ptDir e a == 0 || decide (1 < axisLen p a))

/-- The entries that a running or saved job holds, or whose transit share holds frames (R294). -/
def heldEntries (s : State) : List Nat :=
  (if s.jobc.st != 0 && s.jobc.st != 4 && !s.jobc.noRing then [s.jobc.ptEntry] else []) ++
  ((s.saved.filter fun k => !k.ctl.noRing).map fun k => k.ctl.ptEntry) ++
  (List.range 32).filter fun i =>
    let e := nth {} s.ring.inForce.pts i
    ptValid e && s.ring.ports.any fun x => x.used.any fun k => k.1 / 2 == ptPart e

/-- R294: whether a plan may come into force. -/
def planOk (s : State) (p : Plan) : Bool :=
  let es := p.pts.filter ptValid
  let me := p.index.toNat
  ((List.range 4).all fun a => decide (axisPos me a < axisLen p a)) && es.all (ptOk p) &&
  ((es.map ptPart).eraseDups.length == es.length) && decide ((es.map ptRate).sum ≤ 2950) &&
  (heldEntries s).all fun i => nth {} p.pts i == nth {} s.ring.inForce.pts i

/-- R291, R315: what a port's receive side owes after a plan change: the growth of each share. -/
def regrant (old new : List (Nat × Nat)) (owed : List (Nat × Nat)) : List (Nat × Nat) :=
  let was := fun k => ((old.find? fun x => x.1 == k).map Prod.snd).getD 0
  new.foldl (fun t x => shareSub (shareAdd t x.1 x.2) x.1 (was x.1)) owed

/-- R294, R306, R315: a plan takes effect. -/
def planTake (s : State) (p : Plan) : State :=
  let old := s.ring.inForce
  let same := fun a => axisLen old a == axisLen p a && old.index == p.index
  let s := setRing s { s.ring with
    plan := p, inForce := p
    breaks := (s.ring.breaks.zipIdx).map fun b => if same b.2 then b.1 else []
    restored := (s.ring.restored.zipIdx).map fun b => if same b.2 then b.1 else [] }
  let s := (List.range 8).foldl (fun s i =>
    let x := getPort s i
    if !portUsed s i then setPort s i { x with st := 0, identAt := none }
    else if portRuns x then setPort s i { x with owed := regrant (planShares old) (planShares p) x.owed }
    else s) s
  (List.range 8).foldl turnBack (bucketsFill s)

/-- A write of RING_PLAN, R317. -/
def planWrite (s : State) (v : Nat) : Option Status × State :=
  let p := { s.ring.plan with index := BitVec.ofNat 16 v, lengths := BitVec.ofNat 16 (v / 2 ^ 16), valid := bit v 32 }
  if !bit v 32 then (none, setRing s { s.ring with plan := p })
  else if planOk s p then (none, planTake s p)
  else (some Code.planInvalid, noteMil s Code.planInvalid 0 0 0 p.index.toNat)

end Sys2Proof.Machine
end

