-- ==== Sys2Proof/Machine/Raler.lean ====
section
/-! DEFINITION. The Raler instruction set (file 14): fetch and encodings (R320, R324), scalar, branch and memory instructions
(R325), events and system instructions (R327, R328), program queues and the start of a program (R322, R323). -/

namespace Sys2Proof.Machine

/-! ### Running an instruction, R319, R320, R324 -/

/-- R319: a context runs: it holds a program that does not wait, its processor works, and a job context's supervisor context
is idle or waiting. -/
def ctxRuns (s : State) (c : Nat) : Bool :=
  isReady s && (getCtx s c).st == 1 && !s.raler.out.contains (c / 2) &&
    (c % 2 == 1 || (jobOn s && (getCtx s (c + 1)).st != 1))

/-- R320: the area a context may access: its first address and the address after its last. -/
def jobAreaEnd : Nat := 0x600000
def cmEnd : Nat := 0x800000
def cmAllows (c a n : Nat) : Bool := decide (a + n ≤ if c % 2 = 1 then cmEnd else jobAreaEnd)
def cmFetches (c a : Nat) : Bool := cmAllows c a 4 && (c % 2 == 0 || decide (jobAreaEnd ≤ a))

/-- One word of control memory as a number. -/
def cmNat (s : State) (a n : Nat) : Nat := leNat (cmRead s a n)

/-- R320, R324: the instruction at a context's program counter with its extension word; none where a fetch breaks R320. -/
def fetchWords (s : State) (c : Nat) : Option (Nat × Option Nat) :=
  let a := (getCtx s c).pc
  if !cmFetches c a then none
  else
    let w := cmNat s a 4
    if bit w 25 then (if cmFetches c (a + 4) then some (w, some (cmNat s (a + 4) 4)) else none) else some (w, none)

/-- R324: the context moves past its instruction. -/
def ctxAdvance (s : State) (c : Nat) (ext : Bool) : State :=
  let x := getCtx s c
  setCtx s c { x with lastPc := x.pc, pc := x.pc + (if ext then 8 else 4) }

/-- An instruction's words, or none where the operands have no such encoding. -/
abbrev Enc := Option (Nat × Option Nat)

/-- An instruction's step: where the context runs and the words at its program counter are the instruction's, its effect. -/
def runInstr (s : State) (c : Nat) (e : Enc) (f : State → State) : State :=
  match e with
  | none => s
  | some w => if ctxRuns s c && fetchWords s c == some w then f (ctxAdvance s c w.2.isSome) else s

/-- R324: the R format. -/
def encR (op fn rd rs1 rs2 : Nat) : Enc := some (fld 26 op + fld 20 rd + fld 15 rs1 + fld 10 rs2 + fn, none)

/-- R324: the I format, and the B format with its two registers in the same places. Without the extension word the immediate is
the sign extension of 15 bits. -/
def encI (op rd rs1 : Nat) (x : Bool) (imm : BitVec 47) : Enc :=
  let w := fld 26 op + fld 20 rd + fld 15 rs1 + imm.toNat % 2 ^ 15
  if x then some (fld 25 1 + w, some (imm.toNat / 2 ^ 15))
  else if (imm.setWidth 15).signExtend 47 = imm then some (w, none) else none

/-- R324: the D format. -/
def encD (op sub rd rs1 rs2 rs3 : Nat) : Enc :=
  some (fld 26 op + fld 20 rd + fld 15 rs1 + fld 10 rs2 + fld 5 rs3 + sub, none)

/-! ### Legal encodings, R324 -/

/-- R324, Tables 14.5 and 14.6: the register fields (rd, rs1, rs2, rs3) that an instruction of OP and SUB uses. -/
def dUses (op sub : Nat) : Option (List Bool) :=
  let n := fun rd k => some [rd, decide (1 ≤ k), decide (2 ≤ k), decide (3 ≤ k)]
  match op, sub with
  | 0x1F, 0 => n true 3
  | 0x28, 0 => n true 2 | 0x28, 1 => n true 0 | 0x28, 2 => n false 2 | 0x28, 3 => n false 1
  | 0x28, 4 => n true 0 | 0x28, 5 => n false 1 | 0x28, 6 => n false 0
  | 0x30, 0 => n true 1 | 0x30, 1 => n true 1 | 0x30, 2 => n true 0 | 0x30, 3 => n true 1
  | 0x31, 0 => n true 1 | 0x31, 1 => n true 3 | 0x31, 2 => n true 1 | 0x31, 3 => n true 2
  | 0x32, 0 => n true 1 | 0x32, 1 => n true 2 | 0x32, 2 => n true 3 | 0x32, 3 => n true 2
  | 0x33, 0 => n true 3 | 0x33, 1 => n true 2 | 0x33, 2 => n true 2 | 0x33, 3 => n true 2 | 0x33, 4 => n true 2
  | 0x34, 0 => n true 1
  | 0x35, 0 => n true 2 | 0x35, 1 => n true 3 | 0x35, 2 => n true 2
  | 0x36, 0 => n true 3 | 0x36, 1 => n true 1
  | 0x37, 0 => n true 0 | 0x37, 1 => n true 1
  | _, _ => none

/-- R324: whether a word, with its extension word where X is 1, is an instruction. -/
def legalWords (w : Nat) (ext : Option Nat) : Bool :=
  let op := bits w 26 6
  let rs1 := bits w 15 5
  if op = 0 then ext.isNone && decide (bits w 0 10 ≤ 13)
  else if op = 0x1E then ext.isNone && bits w 0 10 == 0
  else if op ≤ 6 ∨ (0x10 ≤ op ∧ op ≤ 0x15) ∨ (0x17 ≤ op ∧ op ≤ 0x1D) ∨ op = 0x20 ∨ op = 0x21 then true
  else if op ≤ 9 then bits w 6 9 == 0 && ext.getD 0 == 0
  else if op = 0x0A ∨ op = 0x16 then rs1 == 0
  else if op = 0x0B then ext.isSome && rs1 == 0 && bits w 0 15 == 0
  else match dUses op (bits w 0 5) with
    | none => false
    | some u =>
      (ext.isNone || (op == 0x31 && bits w 0 5 == 1)) &&
      (List.zip u [bits w 20 5, rs1, bits w 10 5, bits w 5 5]).all fun p => p.1 || p.2 == 0

/-- R320, R324: a fetch outside the context's area, or a word that is no instruction: a program fault. -/
def illegal (s : State) (c : Nat) : State :=
  if !ctxRuns s c then s
  else
    let t := setCtx s c { getCtx s c with lastPc := (getCtx s c).pc }
    match fetchWords s c with
    | none => programFault t c Code.cmRange
    | some w => if legalWords w.1 w.2 then s else programFault t c Code.illegalInstruction

def execIllegalInstruction (c : Ctx) (s : State) : Host.Outcome State Fault Refusal := .next (illegal s c)

/-! ### Registers of a context -/

/-- R324: register `r` of a context; g0 reads as zero. -/
def greg (s : State) (c r : Nat) : Word := if r = 0 then 0 else nth 0 (getCtx s c).regs r
def putReg (s : State) (c r : Nat) (v : Word) : State := setCtx s c (ctxPut (getCtx s c) r v)
def gnat (s : State) (c r : Nat) : Nat := (greg s c r).toNat

/-! ### Scalar instructions, R325 -/

/-- R325: an R-format instruction that writes `g` of its operands. -/
def runR (fn : Nat) (g : Word → Word → Word) (c rd rs1 rs2 : Nat) (s : State) : State :=
  runInstr s c (encR 0 fn rd rs1 rs2) fun t => putReg t c rd (g (greg t c rs1) (greg t c rs2))

def ofBool64 (b : Bool) : Word := if b then 1 else 0
def shAmt (b : Word) : Nat := b.toNat % 64

def aluAdd (a b : Word) : Word := a + b
def aluSub (a b : Word) : Word := a - b
def aluAnd (a b : Word) : Word := a &&& b
def aluOr (a b : Word) : Word := a ||| b
def aluXor (a b : Word) : Word := a ^^^ b
def aluSll (a b : Word) : Word := a <<< shAmt b
def aluSrl (a b : Word) : Word := a >>> shAmt b
def aluSra (a b : Word) : Word := a.sshiftRight (shAmt b)
def aluMul (a b : Word) : Word := a * b
def aluMulhu (a b : Word) : Word := BitVec.ofNat 64 (a.toNat * b.toNat / 2 ^ 64)
/-- R325: DIVU by zero gives all ones. -/
def aluDivu (a b : Word) : Word := if b = 0 then BitVec.allOnes 64 else BitVec.ofNat 64 (a.toNat / b.toNat)
/-- R325: REMU by zero gives rs1. -/
def aluRemu (a b : Word) : Word := if b = 0 then a else BitVec.ofNat 64 (a.toNat % b.toNat)
def aluSlt (a b : Word) : Word := ofBool64 (decide (a.toInt < b.toInt))
def aluSltu (a b : Word) : Word := ofBool64 (decide (a.toNat < b.toNat))

def execAdd (c : Ctx) (rd rs1 rs2 : GReg) (s : State) : Host.Outcome State Fault Refusal := .next (runR 0 aluAdd c rd rs1 rs2 s)
def execSub (c : Ctx) (rd rs1 rs2 : GReg) (s : State) : Host.Outcome State Fault Refusal := .next (runR 1 aluSub c rd rs1 rs2 s)
def execAnd (c : Ctx) (rd rs1 rs2 : GReg) (s : State) : Host.Outcome State Fault Refusal := .next (runR 2 aluAnd c rd rs1 rs2 s)
def execOr (c : Ctx) (rd rs1 rs2 : GReg) (s : State) : Host.Outcome State Fault Refusal := .next (runR 3 aluOr c rd rs1 rs2 s)
def execXor (c : Ctx) (rd rs1 rs2 : GReg) (s : State) : Host.Outcome State Fault Refusal := .next (runR 4 aluXor c rd rs1 rs2 s)
def execSll (c : Ctx) (rd rs1 rs2 : GReg) (s : State) : Host.Outcome State Fault Refusal := .next (runR 5 aluSll c rd rs1 rs2 s)
def execSrl (c : Ctx) (rd rs1 rs2 : GReg) (s : State) : Host.Outcome State Fault Refusal := .next (runR 6 aluSrl c rd rs1 rs2 s)
def execSra (c : Ctx) (rd rs1 rs2 : GReg) (s : State) : Host.Outcome State Fault Refusal := .next (runR 7 aluSra c rd rs1 rs2 s)
def execMul (c : Ctx) (rd rs1 rs2 : GReg) (s : State) : Host.Outcome State Fault Refusal := .next (runR 8 aluMul c rd rs1 rs2 s)
def execMulhu (c : Ctx) (rd rs1 rs2 : GReg) (s : State) : Host.Outcome State Fault Refusal := .next (runR 9 aluMulhu c rd rs1 rs2 s)
def execDivu (c : Ctx) (rd rs1 rs2 : GReg) (s : State) : Host.Outcome State Fault Refusal := .next (runR 10 aluDivu c rd rs1 rs2 s)
def execRemu (c : Ctx) (rd rs1 rs2 : GReg) (s : State) : Host.Outcome State Fault Refusal := .next (runR 11 aluRemu c rd rs1 rs2 s)
def execSlt (c : Ctx) (rd rs1 rs2 : GReg) (s : State) : Host.Outcome State Fault Refusal := .next (runR 12 aluSlt c rd rs1 rs2 s)
def execSltu (c : Ctx) (rd rs1 rs2 : GReg) (s : State) : Host.Outcome State Fault Refusal := .next (runR 13 aluSltu c rd rs1 rs2 s)

/-- R324, R325: the sign-extended immediate. -/
def immWord (imm : BitVec 47) : Word := imm.signExtend 64

/-- R325: an I-format instruction that writes `g` of rs1 and the immediate. -/
def runI (op : Nat) (g : Word → Word → Word) (c rd rs1 : Nat) (x : Bool) (imm : BitVec 47) (s : State) : State :=
  runInstr s c (encI op rd rs1 x imm) fun t => putReg t c rd (g (greg t c rs1) (immWord imm))

def execAddi (c : Ctx) (rd rs1 : GReg) (x : Bool) (imm : BitVec 47) (s : State) : Host.Outcome State Fault Refusal :=
  .next (runI 1 aluAdd c rd rs1 x imm s)
def execAndi (c : Ctx) (rd rs1 : GReg) (x : Bool) (imm : BitVec 47) (s : State) : Host.Outcome State Fault Refusal :=
  .next (runI 2 aluAnd c rd rs1 x imm s)
def execOri (c : Ctx) (rd rs1 : GReg) (x : Bool) (imm : BitVec 47) (s : State) : Host.Outcome State Fault Refusal :=
  .next (runI 3 aluOr c rd rs1 x imm s)
def execXori (c : Ctx) (rd rs1 : GReg) (x : Bool) (imm : BitVec 47) (s : State) : Host.Outcome State Fault Refusal :=
  .next (runI 4 aluXor c rd rs1 x imm s)
def execSlti (c : Ctx) (rd rs1 : GReg) (x : Bool) (imm : BitVec 47) (s : State) : Host.Outcome State Fault Refusal :=
  .next (runI 5 aluSlt c rd rs1 x imm s)
def execSltiu (c : Ctx) (rd rs1 : GReg) (x : Bool) (imm : BitVec 47) (s : State) : Host.Outcome State Fault Refusal :=
  .next (runI 6 aluSltu c rd rs1 x imm s)

/-- R325: a shift by an immediate amount. The words with X = 1 and an extension word of 0 spell the same instruction. -/
def runShift (op : Nat) (g : Word → Word → Word) (c rd rs1 amount : Nat) (s : State) : State :=
  let x := match fetchWords s c with
    | some w => w.2.isSome
    | none => false
  runInstr s c (encI op rd rs1 x (BitVec.ofNat 47 amount)) fun t => putReg t c rd (g (greg t c rs1) (BitVec.ofNat 64 amount))

def execSlli (c : Ctx) (rd rs1 : GReg) (amount : BitVec 6) (s : State) : Host.Outcome State Fault Refusal :=
  .next (runShift 7 aluSll c rd rs1 amount.toNat s)
def execSrli (c : Ctx) (rd rs1 : GReg) (amount : BitVec 6) (s : State) : Host.Outcome State Fault Refusal :=
  .next (runShift 8 aluSrl c rd rs1 amount.toNat s)
def execSrai (c : Ctx) (rd rs1 : GReg) (amount : BitVec 6) (s : State) : Host.Outcome State Fault Refusal :=
  .next (runShift 9 aluSra c rd rs1 amount.toNat s)

def execLi (c : Ctx) (rd : GReg) (x : Bool) (imm : BitVec 47) (s : State) : Host.Outcome State Fault Refusal :=
  .next (runInstr s c (encI 0x0A rd 0 x imm) fun t => putReg t c rd (immWord imm))

/-- R325: rd bits 63:32 = extension word; rd bits 31:0 kept. -/
def execLih (c : Ctx) (rd : GReg) (ext : BitVec 32) (s : State) : Host.Outcome State Fault Refusal :=
  .next (runInstr s c (encI 0x0B rd 0 true (BitVec.ofNat 47 (fld 15 ext.toNat)))
    fun t => putReg t c rd (ext ++ (greg t c rd).setWidth 32 : Word))

/-! ### Branches, R325 -/

/-- R324: the address of the branch plus 4 × OFF. -/
def branchTo (s : State) (c : Nat) (off : BitVec 47) : State :=
  let x := getCtx s c
  setCtx s c { x with pc := (BitVec.ofNat 64 x.lastPc + 4 * immWord off).toNat }

/-- R325: a branch taken when rs1 compares with rs2 as named. -/
def runB (op : Nat) (g : Word → Word → Bool) (c rs1 rs2 : Nat) (x : Bool) (off : BitVec 47) (s : State) : State :=
  runInstr s c (encI op rs1 rs2 x off) fun t => if g (greg t c rs1) (greg t c rs2) then branchTo t c off else t

def execBeq (c : Ctx) (rs1 rs2 : GReg) (x : Bool) (off : BitVec 47) (s : State) : Host.Outcome State Fault Refusal :=
  .next (runB 0x10 (fun a b => a == b) c rs1 rs2 x off s)
def execBne (c : Ctx) (rs1 rs2 : GReg) (x : Bool) (off : BitVec 47) (s : State) : Host.Outcome State Fault Refusal :=
  .next (runB 0x11 (fun a b => a != b) c rs1 rs2 x off s)
def execBlt (c : Ctx) (rs1 rs2 : GReg) (x : Bool) (off : BitVec 47) (s : State) : Host.Outcome State Fault Refusal :=
  .next (runB 0x12 (fun a b => decide (a.toInt < b.toInt)) c rs1 rs2 x off s)
def execBge (c : Ctx) (rs1 rs2 : GReg) (x : Bool) (off : BitVec 47) (s : State) : Host.Outcome State Fault Refusal :=
  .next (runB 0x13 (fun a b => decide (b.toInt ≤ a.toInt)) c rs1 rs2 x off s)
def execBltu (c : Ctx) (rs1 rs2 : GReg) (x : Bool) (off : BitVec 47) (s : State) : Host.Outcome State Fault Refusal :=
  .next (runB 0x14 (fun a b => decide (a.toNat < b.toNat)) c rs1 rs2 x off s)
def execBgeu (c : Ctx) (rs1 rs2 : GReg) (x : Bool) (off : BitVec 47) (s : State) : Host.Outcome State Fault Refusal :=
  .next (runB 0x15 (fun a b => decide (b.toNat ≤ a.toNat)) c rs1 rs2 x off s)

/-- R324: the address after the instruction's last word. -/
def nextAddr (s : State) (c : Nat) : Word := BitVec.ofNat 64 (getCtx s c).pc

def execJal (c : Ctx) (rd : GReg) (x : Bool) (off : BitVec 47) (s : State) : Host.Outcome State Fault Refusal :=
  .next (runInstr s c (encI 0x16 rd 0 x off) fun t => branchTo (putReg t c rd (nextAddr t c)) c off)

/-- R325: rd = next; PC = (rs1 + IMM) with bits 1:0 cleared. -/
def execJalr (c : Ctx) (rd rs1 : GReg) (x : Bool) (imm : BitVec 47) (s : State) : Host.Outcome State Fault Refusal :=
  .next (runInstr s c (encI 0x17 rd rs1 x imm) fun t =>
    let a := (greg t c rs1 + immWord imm).toNat
    let t := putReg t c rd (nextAddr t c)
    setCtx t c { getCtx t c with pc := a / 4 * 4 })

/-! ### Memory, R320, R325 -/

/-- R320, R325: an access of `n` bytes at `a` that keeps its alignment and its area, or the program fault. -/
def cmAccess (s : State) (c a n : Nat) (f : State → State) : State :=
  if a % n ≠ 0 then programFault s c Code.misaligned
  else if !cmAllows c a n then programFault s c Code.cmRange else f s

/-- R325: the address rs1 + IMM. -/
def effAddr (s : State) (c rs1 : Nat) (imm : BitVec 47) : Nat := (greg s c rs1 + immWord imm).toNat

def runLoad (op n : Nat) (c rd rs1 : Nat) (x : Bool) (imm : BitVec 47) (s : State) : State :=
  runInstr s c (encI op rd rs1 x imm) fun t =>
    let a := effAddr t c rs1 imm
    cmAccess t c a n fun t => putReg t c rd (BitVec.ofNat 64 (cmNat t a n))

def runStore (op n : Nat) (c rs rs1 : Nat) (x : Bool) (imm : BitVec 47) (s : State) : State :=
  runInstr s c (encI op rs rs1 x imm) fun t =>
    let a := effAddr t c rs1 imm
    cmAccess t c a n fun t => cmWrite t a (leBytes n (gnat t c rs))

def execLd (c : Ctx) (rd rs1 : GReg) (x : Bool) (imm : BitVec 47) (s : State) : Host.Outcome State Fault Refusal :=
  .next (runLoad 0x18 8 c rd rs1 x imm s)
def execLw (c : Ctx) (rd rs1 : GReg) (x : Bool) (imm : BitVec 47) (s : State) : Host.Outcome State Fault Refusal :=
  .next (runLoad 0x19 4 c rd rs1 x imm s)
def execLbu (c : Ctx) (rd rs1 : GReg) (x : Bool) (imm : BitVec 47) (s : State) : Host.Outcome State Fault Refusal :=
  .next (runLoad 0x1A 1 c rd rs1 x imm s)
def execSd (c : Ctx) (rs rs1 : GReg) (x : Bool) (imm : BitVec 47) (s : State) : Host.Outcome State Fault Refusal :=
  .next (runStore 0x1B 8 c rs rs1 x imm s)
def execSw (c : Ctx) (rs rs1 : GReg) (x : Bool) (imm : BitVec 47) (s : State) : Host.Outcome State Fault Refusal :=
  .next (runStore 0x1C 4 c rs rs1 x imm s)
def execSb (c : Ctx) (rs rs1 : GReg) (x : Bool) (imm : BitVec 47) (s : State) : Host.Outcome State Fault Refusal :=
  .next (runStore 0x1D 1 c rs rs1 x imm s)

/-- R325: rd = old word at rs1; word = old + rs2. -/
def execAadd (c : Ctx) (rd rs1 rs2 : GReg) (s : State) : Host.Outcome State Fault Refusal :=
  .next (runInstr s c (encR 0x1E 0 rd rs1 rs2) fun t =>
    let a := gnat t c rs1
    cmAccess t c a 8 fun t =>
      let old := cmNat t a 8
      putReg (cmWrite t a (leBytes 8 ((old + gnat t c rs2) % 2 ^ 64))) c rd (BitVec.ofNat 64 old))

/-- R325: rd = old word at rs1; word = rs3 when old = rs2. -/
def execCas (c : Ctx) (rd rs1 rs2 rs3 : GReg) (s : State) : Host.Outcome State Fault Refusal :=
  .next (runInstr s c (encD 0x1F 0 rd rs1 rs2 rs3) fun t =>
    let a := gnat t c rs1
    cmAccess t c a 8 fun t =>
      let old := cmNat t a 8
      let u := if old = gnat t c rs2 then cmWrite t a (leBytes 8 (gnat t c rs3)) else t
      putReg u c rd (BitVec.ofNat 64 old))

/-! ### System instructions, R328 -/

/-- R328: WAIT: at once where EV meets the mask, or for a mask of 0 with no timeout. -/
def ctxWait (now : Nat) (x : CtxSt) (rd : Nat) (mask timeout : Word) : CtxSt :=
  if mask = 0 ∧ timeout = 0 then ctxPut x rd 0
  else ctxWake { x with
    st := 2
    waits := .event rd (mask.setWidth 32) (if timeout = 0 then none else some (now + timeout.toNat)) }

def execWait (c : Ctx) (rd rs1 rs2 : GReg) (s : State) : Host.Outcome State Fault Refusal :=
  .next (runInstr s c (encD 0x28 0 rd rs1 rs2 0) fun t =>
    setCtx t c (ctxWait t.now (getCtx t c) rd (greg t c rs1) (greg t c rs2)))

/-- R328: a WAIT whose timeout has passed returns EV & mask. -/
def waitTimeout (s : State) (c : Nat) : State :=
  let x := getCtx s c
  match x.waits with
  | .event rd mask (some t) =>
    if s.now < t then s
    else setCtx s c { ctxPut x rd ((x.ev &&& mask).setWidth 64) with ev := x.ev &&& ~~~mask, waits := .none, st := 1 }
  | _ => s

def execWaitTimeout (c : Ctx) (s : State) : Host.Outcome State Fault Refusal := .next (waitTimeout s c)

/-- R328: the oldest event record, removed; 0 when the queue is empty. -/
def execEvpop (c : Ctx) (rd : GReg) (s : State) : Host.Outcome State Fault Refusal :=
  .next (runInstr s c (encD 0x28 1 rd 0 0 0) fun t =>
    let x := getCtx t c
    setCtx t c (ctxPut { x with evq := x.evq.drop 1 } rd (nth 0 x.evq 0)))

/-- R328: SIGNAL. -/
def ctxSignal (s : State) (c dst bit : Nat) : State :=
  if 7 < dst ∨ 7 < bit then programFault s c Code.illegalInstruction
  else if c % 2 = 0 ∧ dst % 2 = 1 then programFault s c Code.privileged
  else raiseEvent s dst (8 + bit) (evRecord Code.ok 0 c)

def execSignal (c : Ctx) (rs1 rs2 : GReg) (s : State) : Host.Outcome State Fault Refusal :=
  .next (runInstr s c (encD 0x28 2 0 rs1 rs2 0) fun t => ctxSignal t c (gnat t c rs1) (gnat t c rs2))

def execSettimer (c : Ctx) (rs1 : GReg) (s : State) : Host.Outcome State Fault Refusal :=
  .next (runInstr s c (encD 0x28 3 0 rs1 0 0) fun t =>
    let n := gnat t c rs1
    setCtx t c { getCtx t c with timer := if n = 0 then none else some (t.now + n) })

/-- R327, R328: the timer fires. -/
def timerExpire (s : State) (c : Nat) : State :=
  match (getCtx s c).timer with
  | some t =>
    if s.now < t then s
    else raiseEvent (setCtx s c { getCtx s c with timer := none }) c 5 (evRecord Code.ok 0 0)
  | none => s

def execTimerExpire (c : Ctx) (s : State) : Host.Outcome State Fault Refusal := .next (timerExpire s c)

def execRdtime (c : Ctx) (rd : GReg) (s : State) : Host.Outcome State Fault Refusal :=
  .next (runInstr s c (encD 0x28 4 rd 0 0 0) fun t => putReg t c rd (BitVec.ofNat 64 t.now))

def execHalt (c : Ctx) (rs1 : GReg) (s : State) : Host.Outcome State Fault Refusal :=
  .next (runInstr s c (encD 0x28 5 0 rs1 0 0) fun t => endProgram t c Code.ok ((greg t c rs1).setWidth 16))

/-- R328, R329: every device operation is taken in the step that issues it, so a FENCE has nothing to wait for (log entry 19). -/
def execFence (c : Ctx) (s : State) : Host.Outcome State Fault Refusal := .next (runInstr s c (encD 0x28 6 0 0 0 0) id)

/-! ### Program queues, R322, R323 -/

def getPq (s : State) (q : Nat) : ProgQ := nth {} s.raler.pq q
def setPq (s : State) (q : Nat) (v : ProgQ) : State := { s with raler := { s.raler with pq := s.raler.pq.set q v } }

/-- R322: PQ_TAIL written: no further past PQ_HEAD than the ring is long. -/
def pqTailWrite (s : State) (q : Nat) (tail : BitVec 32) : Option Status × State :=
  let p := getPq s q
  if 2 ^ p.size < (tail - p.head).toNat then (some Code.badArgument, s) else (none, setPq s q { p with tail := tail })

/-- R323: whether a submission entry ends with BAD_ENTRY. -/
def entryBad (s : State) (e : Nat) : Bool :=
  let pc := bits e 0 23
  let sup := bit e 23
  pc % 4 != 0 || bits e 25 7 != 0 || bits e 248 8 != 0 ||
  (if sup then decide (pc < jobAreaEnd) else decide (jobAreaEnd ≤ pc) || !jobOn s)

/-- R323: a context at the start of a program. -/
def ctxStart (x : CtxSt) (c e prog : Nat) (i : BitVec 32) : CtxSt :=
  let pc := bits e 0 23
  { regs := ((List.replicate 32 (0 : Word)).set 1 (BitVec.ofNat 64 (bits e 64 64))).set 2 (BitVec.ofNat 64 (bits e 128 64)) |>.set 3 (BitVec.ofNat 64 c)
    pc := pc, lastPc := pc, st := 1, tag := BitVec.ofNat 32 (bits e 32 32), ticket := x.ticket, regStatus := x.regStatus
    entry := i.toNat, prog := prog }

/-- R322: the processor takes the first entry in ring order that has not begun and whose context is idle. -/
def programStart (s : State) (p : Nat) : State :=
  let q := getPq s p
  let waiting := ((List.range (q.tail - q.head).toNat).map fun i => q.head + BitVec.ofNat 32 i).filter fun i => !q.begun.contains i
  let ctxOf := fun (i : BitVec 32) => 2 * p + (if bit (cmNat s (pqAddr q i) 4) 23 then 1 else 0)
  if !isReady s || s.raler.out.contains p then s
  else match waiting.find? fun i => (getCtx s (ctxOf i)).st == 0 with
    | none => s
    | some i =>
      let e := cmNat s (pqAddr q i) 32
      let c := ctxOf i
      let s := setPq s p { q with begun := q.begun ++ [i] }
      if entryBad s e then pqEnd s p i Code.badEntry 0 0
      else
        let n := s.raler.progs + 1
        setCtx { s with raler := { s.raler with progs := n } } c (ctxStart (getCtx s c) c e n i)

def execProgramStart (p : Fin 4) (s : State) : Host.Outcome State Fault Refusal := .next (programStart s p)

end Sys2Proof.Machine
end

