-- ==== Sys2Proof/Machine/Devops.lean ====
section
/-! DEFINITION. The device operations (file 14, R329 to R332, Table 14.6), but for SAVE and RESTORE. -/

namespace Sys2Proof.Machine

/-! ### Issue and result, R329, R330 -/

/-- R329: the result of an operation reaches rd while the program still runs. -/
def putResult (s : State) (c rd : Nat) (v : Nat) : State :=
  if (getCtx s c).st = 1 then putReg s c rd (BitVec.ofNat 64 v) else s

/-- R329, R330: a synchronous operation: the status in bits 15:0, the result from bit 16. While no job exists it is refused. -/
def syncOp (s : State) (c rd : Nat) (e : Enc) (f : State → Status × Nat × State) : State :=
  runInstr s c e fun t =>
    if noJob t then putResult t c rd Code.noJob.toNat
    else
      let r := f t
      putResult r.2.2 c rd (r.1.toNat + fld 16 r.2.1)

/-- R329: the ticket after one: 65,535 wraps to 1. -/
def nextTicket (t : BitVec 16) : BitVec 16 := if t = 0xFFFF then 1 else t + 1

/-- R329: an asynchronous operation that may be refused: the issue status, the ticket and the immediate result. -/
def asyncIssue (t : State) (c rd : Nat) (f : OpRef → State → Status × Nat × State) : State :=
  let x := getCtx t c
  let n := nextTicket x.ticket
  let r := f { ctx := c, prog := x.prog, ticket := n } t
  if r.1 = Code.ok then
    let u := setCtx r.2.2 c { getCtx r.2.2 c with ticket := n }
    putResult u c rd (fld 16 n.toNat + fld 32 r.2.1)
  else putResult r.2.2 c rd r.1.toNat

/-- R329, R330: an asynchronous operation; while no job exists it is refused. -/
def asyncOp (s : State) (c rd : Nat) (e : Enc) (f : OpRef → State → Status × Nat × State) : State :=
  runInstr s c e fun t => if noJob t then putResult t c rd Code.noJob.toNat else asyncIssue t c rd f

/-- A status with no result, and the state. -/
def noRes (r : Status × State) : Status × Nat × State := (r.1, 0, r.2)

/-- BAD_ARGUMENT, and nothing done. -/
def badArg (s : State) : Status × Nat × State := (Code.badArgument, 0, s)

/-- R330: an operand in control memory. -/
def cmOperand (s : State) (c a n : Nat) : Option (List Byte) := if cmAllows c a n then some (cmRead s a n) else none

/-! ### Configurations, R144, R145, R154 -/

def execCreg (c : Ctx) (rd rs1 : GReg) (s : State) : Host.Outcome State Fault Refusal :=
  .next (asyncOp s c rd (encD 0x30 0 rd rs1 0 0) fun o t => imgRegister t o (gnat t c rs1))

def execCload (c : Ctx) (rd rs1 : GReg) (s : State) : Host.Outcome State Fault Refusal :=
  .next (asyncOp s c rd (encD 0x30 1 rd rs1 0 0) fun o t => noRes (shadowLoad t o (gnat t c rs1)))

def execCswap (c : Ctx) (rd : GReg) (s : State) : Host.Outcome State Fault Refusal :=
  .next (asyncOp s c rd (encD 0x30 2 rd 0 0 0) fun o t => noRes (swap t o))

def execCrel (c : Ctx) (rd rs1 : GReg) (s : State) : Host.Outcome State Fault Refusal :=
  .next (syncOp s c rd (encD 0x30 3 rd rs1 0 0) fun t => noRes (imgRelease t (gnat t c rs1)))

/-! ### Streams and flips, R100, R172, R173, R175 -/

def execArm (c : Ctx) (rd rs1 : GReg) (s : State) : Host.Outcome State Fault Refusal :=
  .next (syncOp s c rd (encD 0x31 0 rd rs1 0 0) fun t =>
    if 2048 ≤ gnat t c rs1 then badArg t else noRes (strArm t (gnat t c rs1)))

/-- R324, Table 14.6: REARM with its extension word. -/
def encRearm (rd rs1 rs2 rs3 : Nat) (imm : Option (BitVec 32)) : Enc :=
  match imm with
  | none => encD 0x31 1 rd rs1 rs2 rs3
  | some v => (encD 0x31 1 rd rs1 rs2 rs3).map fun w => (w.1 + fld 25 1, some v.toNat)

def execRearm (c : Ctx) (rd rs1 rs2 rs3 : GReg) (imm : Option (BitVec 32)) (s : State) : Host.Outcome State Fault Refusal :=
  .next (syncOp s c rd (encRearm rd rs1 rs2 rs3 imm) fun t =>
    let v := (imm.getD 0).toNat
    if 2048 ≤ gnat t c rs1 ∨ 1 < v ∨ (v = 0 ∧ rs3.val ≠ 0) then badArg t
    else noRes (strRearm t (gnat t c rs1) (gnat t c rs2) (if v = 1 then some (gnat t c rs3) else none)))

def execResume (c : Ctx) (rd rs1 : GReg) (s : State) : Host.Outcome State Fault Refusal :=
  .next (syncOp s c rd (encD 0x31 2 rd rs1 0 0) fun t =>
    if 2048 ≤ gnat t c rs1 then badArg t else noRes (strResume t (gnat t c rs1)))

/-- R100: a flip of one region is queued in its MU. -/
def flipOp (s : State) (cell r : Nat) : Status × Nat × State :=
  let g := region (getRec s cell).mu r
  if 512 ≤ cell ∨ 8 ≤ r then badArg s
  else if !(g.valid && g.double) then (Code.flipInvalid, 0, s)
  else (Code.ok, 0, flipAsk s cell (1#8 <<< r))

def execFlip (c : Ctx) (rd rs1 rs2 : GReg) (s : State) : Host.Outcome State Fault Refusal :=
  .next (syncOp s c rd (encD 0x31 3 rd rs1 rs2 0) fun t => flipOp t (gnat t c rs1) (gnat t c rs2))

/-! ### Windows, R102, R105, R262, R302 -/

/-- R102: bytes of an MU that an open window covers, one of a saved job or one that closes under an earlier configuration among them. -/
def winsMeet (s : State) (cell a n : Nat) : Bool :=
  (List.range 64).any fun w =>
    let v := getWin s w
    v.opened && v.cell == cell && (overlap a n v.at0 (512 * v.units) || overlap a n v.at1 (512 * v.units))

/-- R102, R330: the open block: a window is opened in the lowest free slot under its next GEN. -/
def winOpen (s : State) (bs : List Byte) : Status × Nat × State :=
  let b := leNat (bs.take 16)
  let cell := bits b 0 9
  let r := bits b 9 3
  let base := bits b 12 12
  let units := bits b 24 12
  let flip := bit b 44
  let g := region (getRec s cell).mu r
  let at0 := regionBase g false + 512 * base
  let at1 := regionBase g true + 512 * base
  let clash := winsMeet s cell at0 (512 * units) || winsMeet s cell at1 (512 * units)
  if bits b 45 83 ≠ 0 ∨ units = 0 then badArg s
  else if jobPart s ≠ some (bits b 36 8) then (Code.windowPartition, 0, s)
  else if !g.valid || !g.windowOk || g.kind != 0 || flip != g.double || clash then (Code.windowConflict, 0, s)
  else if regionSize g < 512 * (base + units) then badArg s
  else match (List.range 64).find? fun w => !(getWin s w).opened with
    | none => (Code.windowTableFull, 0, s)
    | some w =>
      let old := getWin s w
      (Code.ok, w + fld 6 (old.gen + 1).toNat, setWin s w
        { opened := true, gen := old.gen + 1, cell := cell, region := r, baseUnit := base, units := units, at0 := at0, at1 := at1,
          part := BitVec.ofNat 8 (bits b 36 8), flip := flip, free := units, job := s.jobc.id
          wd := { enable := old.wd.enable, senders := old.wd.senders, token := old.wd.token } })

def execWopen (c : Ctx) (rd rs1 : GReg) (s : State) : Host.Outcome State Fault Refusal :=
  .next (syncOp s c rd (encD 0x32 0 rd rs1 0 0) fun t =>
    match cmOperand t c (gnat t c rs1) 16 with
    | none => badArg t
    | some bs => winOpen t bs)

/-- R105: a close of an open window of the running job. -/
def winCloseOp (s : State) (o : OpRef) (w gen : Nat) : Status × Nat × State :=
  let v := getWin s w
  if 64 ≤ w ∨ 256 ≤ gen then badArg s
  else if !v.opened || v.gen.toNat != gen || !winHere s v then (Code.windowClosed, 0, s)
  else (Code.ok, 0, winClose (setWin s w { v with closeFor := v.closeFor ++ [o] }) w)

def execWclose (c : Ctx) (rd rs1 rs2 : GReg) (s : State) : Host.Outcome State Fault Refusal :=
  .next (asyncOp s c rd (encD 0x32 1 rd rs1 rs2 0) fun o t => winCloseOp t o (gnat t c rs1) (gnat t c rs2))

/-- R262: a queue is bound to its member's window. -/
def queueBind (s : State) (q w gen : Nat) : Status × Nat × State :=
  let sec := s.job.churn.tables.ladle
  let m := ladMember sec q
  if 64 ≤ w ∨ 256 ≤ gen then badArg s
  else if ladQueues sec ≤ q ∨ ((jobPt s).elim 0 boxSize) ≤ m then (Code.bindConflict, 0, s)
  else (Code.ok, 0, setBind s q { bound := true, win := w, gen := BitVec.ofNat 8 gen, member := m })

def execWbind (c : Ctx) (rd rs1 rs2 rs3 : GReg) (s : State) : Host.Outcome State Fault Refusal :=
  .next (syncOp s c rd (encD 0x32 2 rd rs1 rs2 rs3) fun t => queueBind t (gnat t c rs1) (gnat t c rs2) (gnat t c rs3))

/-- R302: RSND_CFG written by SBIND or by its register: the status, and the sender bound or released. Credits that it held return. -/
def senderWrite (s : State) (n : Nat) (w : Word) : Status × State :=
  let k := sendCfg w.toNat
  let g := region (getRec s k.cell).mu k.region
  let x := getSender s n
  let old := sendCfg x.cfg.toNat
  let fresh := setSender (giveBack (askGone s fun a => a == .sender n) old.member old.win old.gen x.credit) n { cfg := w, sends := x.sends }
  if bits w.toNat 61 3 ≠ 0 ∨ k.units = 0 ∨ 3072 < k.units then (Code.badArgument, s)
  else if k.valid && (!(g.valid && g.double) || decide (((jobPt s).elim 0 boxSize) ≤ k.member) || decide (regionSize g < 512 * k.units))
    then (Code.senderInvalid, s)
  else (Code.ok, fresh)

def execSbind (c : Ctx) (rd rs1 rs2 : GReg) (s : State) : Host.Outcome State Fault Refusal :=
  .next (syncOp s c rd (encD 0x32 3 rd rs1 rs2 0) fun t =>
    match cmOperand t c (gnat t c rs2) 8 with
    | none => badArg t
    | some bs => if 64 ≤ gnat t c rs1 then badArg t else noRes (senderWrite t (gnat t c rs1) (BitVec.ofNat 64 (leNat bs))))

/-! ### Pages, R159 to R166, R178, R330 -/

/-- R330: a run of page numbers within bits 26:0. -/
def runBad (first count : Nat) : Bool := decide (2 ^ 27 ≤ first) || decide (2 ^ 27 < first + count)

/-- R164: a page that a page operation may change: it counts against the running job and is not set aside. -/
def pageMine (s : State) (p : Nat) : Bool :=
  let e := getPage s p
  e.st != .unmapped && e.job == s.jobc.id && !e.aside

/-- R164, R165, R330: MAP is accepted or refused. -/
def mapOp (s : State) (o : OpRef) (first count tier : Nat) : Status × Nat × State :=
  if runBad first count ∨ 2 < tier then badArg s
  else if (List.range count).any fun i => pageTaken s (first + i) then (Code.pageState, 0, s)
  else if maxMapped < mappedPages s + count then (Code.mapFull, 0, s)
  else if tier ≠ 2 ∧ overReserved s (tier == 1) count then (Code.reservationExceeded, 0, s)
  else (Code.ok, 0, { s with tiers := { s.tiers with maps := s.tiers.maps ++ [⟨first, count, tier, s.jobc.id, o⟩] } })

def execMapPages (c : Ctx) (rd rs1 rs2 rs3 : GReg) (s : State) : Host.Outcome State Fault Refusal :=
  .next (asyncOp s c rd (encD 0x33 0 rd rs1 rs2 rs3) fun o t => mapOp t o (gnat t c rs1) (gnat t c rs2) (gnat t c rs3))

/-- R162, R164: UNMAP of a run. -/
def unmapOp (s : State) (first count : Nat) : Status × Nat × State :=
  let run := (List.range count).map (first + ·)
  if runBad first count then badArg s
  else if !run.all (pageMine s) then (Code.pageState, 0, s)
  else if run.any (isPinned s) then (Code.pagePinned, 0, s)
  else (Code.ok, 0, recheckFreed s (kickMoves (run.foldl unmapPage s)))

def execUnmap (c : Ctx) (rd rs1 rs2 : GReg) (s : State) : Host.Outcome State Fault Refusal :=
  .next (syncOp s c rd (encD 0x33 1 rd rs1 rs2 0) fun t => unmapOp t (gnat t c rs1) (gnat t c rs2))

/-- R164, R165: PROMOTE or DEMOTE of a run: pages not in or moving towards the tier are queued to move. -/
def moveOp (s : State) (o : OpRef) (vat : Bool) (first count : Nat) : Status × Nat × State :=
  let run := (List.range count).map (first + ·)
  let ok := fun p => pageMine s p && match (getPage s p).st with
    | .absent _ => false
    | _ => true
  let todo := run.filter fun p => !towards vat (getPage s p).st
  let more := todo.filter fun p => !holdsTier vat (getPage s p).st &&
    !(s.tiers.moves.any fun m => m.page == p && m.toVat == vat && !m.started)
  if runBad first count then badArg s
  else if !run.all ok then (Code.pageState, 0, s)
  else if !more.isEmpty && overReserved s vat more.length then (Code.reservationExceeded, 0, s)
  else
    let ms := todo.map fun p => ({ page := p, toVat := vat, job := s.jobc.id, forOp := some o } : Move)
    let t := kickMoves { s with tiers := { s.tiers with moves := s.tiers.moves ++ ms } }
    (Code.ok, 0, if todo.isEmpty then opDone t o Code.ok else t)

def execPromote (c : Ctx) (rd rs1 rs2 : GReg) (s : State) : Host.Outcome State Fault Refusal :=
  .next (asyncOp s c rd (encD 0x33 2 rd rs1 rs2 0) fun o t => moveOp t o false (gnat t c rs1) (gnat t c rs2))

def execDemote (c : Ctx) (rd rs1 rs2 : GReg) (s : State) : Host.Outcome State Fault Refusal :=
  .next (asyncOp s c rd (encD 0x33 3 rd rs1 rs2 0) fun o t => moveOp t o true (gnat t c rs1) (gnat t c rs2))

/-- R178: SBASE[b] is set. -/
def execSbase (c : Ctx) (rd rs1 rs2 : GReg) (s : State) : Host.Outcome State Fault Refusal :=
  .next (syncOp s c rd (encD 0x33 4 rd rs1 rs2 0) fun t =>
    let b := gnat t c rs1
    let p := gnat t c rs2
    if 16 ≤ b ∨ 2 ^ 27 ≤ p then badArg t
    else (Code.ok, 0, { t with job := { t.job with sbase := t.job.sbase.set b p } }))

/-! ### The Separator, R199, R201 -/

/-- R330: the SEP instruction whose command block holds an OP that `p` accepts. A row of the table covers one OP; that of PACK
also covers blocks that no command has. -/
def sepIssue (s : State) (c rd rs1 : Nat) (p : Option Nat → Bool) : State :=
  let b := cmOperand s c (gnat s c rs1) 32
  if p (b.map fun bs => bits (leNat (bs.take 1)) 0 4) then
    runInstr s c (encD 0x34 0 rd rs1 0 0) fun t =>
      asyncIssue t c rd fun o u => match b with
        | none => if noJob u then (Code.noJob, 0, u) else badArg u
        | some bs => noRes (sepSubmit u o bs)
  else s

/-- R224: a Separator command works; pages that it frees may admit pending requests. -/
def sepRun (s : State) (op : Nat) (nand : Nand) (f : State → SepCmd → Status × State) : State := recheckFreed s (sepWork s op nand f)

/-- The OPs that the row of PACK covers: 1, and every reserved one. -/
def sepPackOp (o : Option Nat) : Bool :=
  match o with
  | none => true
  | some n => n == 0 || n == 1 || decide (7 < n)

def execSepPack (ph : SepPhase) (s : State) : Host.Outcome State Fault Refusal :=
  .next (match ph with
    | .issue c rd rs1 => sepIssue s c rd rs1 sepPackOp
    | .work nand => sepRun s 1 nand sepPack)

def execSepLoad (ph : SepPhase) (s : State) : Host.Outcome State Fault Refusal :=
  .next (match ph with
    | .issue c rd rs1 => sepIssue s c rd rs1 (· == some 2)
    | .work nand => sepRun s 2 nand sepLoad)

def execSepSpill (ph : SepPhase) (s : State) : Host.Outcome State Fault Refusal :=
  .next (match ph with
    | .issue c rd rs1 => sepIssue s c rd rs1 (· == some 3)
    | .work nand => sepRun s 3 nand sepSpill)

def execSepRestore (ph : SepPhase) (s : State) : Host.Outcome State Fault Refusal :=
  .next (match ph with
    | .issue c rd rs1 => sepIssue s c rd rs1 (· == some 4)
    | .work nand => sepRun s 4 nand sepRestore)

def execSepDelete (ph : SepPhase) (s : State) : Host.Outcome State Fault Refusal :=
  .next (match ph with
    | .issue c rd rs1 => sepIssue s c rd rs1 (· == some 5)
    | .work nand => sepRun s 5 nand sepDelete)

def execSepPublish (ph : SepPhase) (s : State) : Host.Outcome State Fault Refusal :=
  .next (match ph with
    | .issue c rd rs1 => sepIssue s c rd rs1 (· == some 6)
    | .work nand => sepRun s 6 nand sepPublish)

def execSepDrop (ph : SepPhase) (s : State) : Host.Outcome State Fault Refusal :=
  .next (match ph with
    | .issue c rd rs1 => sepIssue s c rd rs1 (· == some 7)
    | .work nand => sepRun s 7 nand sepDrop)

/-! ### Admission, rounds, cancelling, R218, R254, R331 -/

/-- A context runs, and the words at its program counter are an instruction's. -/
def atInstr (s : State) (c : Nat) (e : Enc) : Bool := e.elim false fun w => ctxRuns s c && fetchWords s c == some w

/-- R219, R330: ADMIT decided; one whose decision cannot be made is not (R163). -/
def admitAct (s : State) (c rd host : Nat) (e : Enc) (d : List Byte) : State :=
  syncOp s c rd e fun t => match admitDesc t d host with
    | none => badArg t
    | some r => (r.1, flg 0 r.2.1 + fld 1 r.2.2.1, r.2.2.2)

/-- R163, R219: ADMIT. While its decision, or an earlier one, waits for zeroed frames the instruction has not acted; once the decision
that held up all others is made, pending requests are decided again. -/
def admitOp (s : State) (c rd rs1 rs2 : Nat) : State :=
  let e := encD 0x35 0 rd rs1 rs2 0
  let host := gnat s c rs2
  let me := Deciding.ctx c (getCtx s c).prog
  if !atInstr s c e then s
  else match cmOperand s c (gnat s c rs1) 64 with
  | none => syncOp s c rd e badArg
  | some d =>
    if noJob s || decide (4 ≤ host) then syncOp s c rd e badArg
    else if descBad d then admitAct s c rd host e d
    else if !mayDecide s me then s
    else match admitDesc s d host with
      | none => setDeciding s (some me)
      | some _ =>
        let t := admitAct (setDeciding s none) c rd host e d
        if s.adm.deciding == some me then recheckAll t else t

def execAdmitRequest (c : Ctx) (rd rs1 rs2 : GReg) (s : State) : Host.Outcome State Fault Refusal := .next (admitOp s c rd rs1 rs2)

def execRound (c : Ctx) (rd rs1 rs2 rs3 : GReg) (s : State) : Host.Outcome State Fault Refusal :=
  .next (syncOp s c rd (encD 0x35 1 rd rs1 rs2 rs3) fun t => noRes (roundBegin t (gnat t c rs1) (gnat t c rs2) (gnat t c rs3)))

/-- A context waits for the result of a synchronous operation. -/
def ctxBlock (s : State) (c : Nat) (w : CtxWait) : State := setCtx s c { getCtx s c with st := 2, waits := w }

/-- R254: CANCEL: its status at once, or a wait for the open requests of the tag. -/
def cancelOp (s : State) (c rd : Nat) (tag : Word) (host : Nat) : State :=
  if noJob s then putResult s c rd Code.noJob.toNat
  else if 4 ≤ host then putResult s c rd Code.badArgument.toNat
  else
    let s := setAdm s { s.adm with reqs := s.adm.reqs.map fun r => { r with cancels := r.cancels.filter (· != c) } }
    let r := cancelReq s c tag host
    match r.1 with
    | some code => putResult r.2.2 c rd code.toNat
    | none => ctxBlock r.2.2 c (.cancel rd r.2.1)

def execCancel (c : Ctx) (rd rs1 rs2 : GReg) (s : State) : Host.Outcome State Fault Refusal :=
  .next (runInstr s c (encD 0x35 2 rd rs1 rs2 0) fun t => cancelOp t c rd (greg t c rs1) (gnat t c rs2))

/-! ### Messages, R305, R332 -/

/-- R295, R305, R332: MSEND: the context waits until the message is delivered or refused; a destination outside the box is a fault
of the job. -/
def msendOp (s : State) (c rd dst a n : Nat) : State :=
  if noJob s then putResult s c rd Code.noJob.toNat
  else if 2 ^ 16 ≤ dst ∨ 256 < n then putResult s c rd Code.badArgument.toNat
  else match cmOperand s c a n, jobPt s with
    | none, _ => putResult s c rd Code.badArgument.toNat
    | _, none => putResult s c rd Code.windowPartition.toNat
    | some d, some e =>
      if inBox s.ring.inForce e dst then originate (ctxBlock s c (.msend rd dst)) (ptPart e) dst (.msg d)
      else putResult (originate s (ptPart e) dst (.msg d)) c rd Code.unreachable.toNat

def execMsend (c : Ctx) (rd rs1 rs2 rs3 : GReg) (s : State) : Host.Outcome State Fault Refusal :=
  .next (runInstr s c (encD 0x36 0 rd rs1 rs2 rs3) fun t => msendOp t c rd (gnat t c rs1) (gnat t c rs2) (gnat t c rs3))

/-- R332: MRECV: the oldest message of the inbox. -/
def mrecvOp (s : State) (c a : Nat) : Status × Nat × State :=
  if !cmAllows c a 256 then badArg s
  else match s.job.inbox with
    | [] => (Code.inboxEmpty, 0, s)
    | m :: rest =>
      (Code.ok, m.1.toNat + fld 16 m.2.length, cmWrite { s with job := { s.job with inbox := rest } } a m.2)

def execMrecv (c : Ctx) (rd rs1 : GReg) (s : State) : Host.Outcome State Fault Refusal :=
  .next (syncOp s c rd (encD 0x36 1 rd rs1 0 0) fun t => mrecvOp t c (gnat t c rs1))

end Sys2Proof.Machine
end

