-- ==== Sys2Proof/Machine/Jobs.lean ====
section
/-! DEFINITION. Hosts, ownership and jobs (file 15): slots (R339), ownership (R340 to R343), the start, end, save and restore of jobs
(R352 to R358), the memory aperture (R351). What a register write does is a function that answers the status it records for its
slot, if any, and the state. -/

namespace Sys2Proof.Machine

/-! ### Slots, R339 -/

/-- R339, R445: a status is recorded for a slot, with the access that met it: BAR 0, 1 for BAR2, 2 for BAR4. -/
def slotErr (s : State) (n : Nat) (code : Status) (bar offset : Nat) : State :=
  let h := getHost s n
  setHost s n { h with errCode := code, errBar := bar, errOffset := offset, errCount := h.errCount + 1 }

/-- A status that a write may record. -/
def slotNote (r : Option Status × State) (n bar offset : Nat) : State :=
  match r.1 with
  | none => r.2
  | some c => slotErr r.2 n c bar offset

/-- R339: the split provides the slot. -/
def slotExists (s : State) (n : Nat) : Bool := n == 0 || n == 2 || (n == 1 && s.panel.split0) || (n == 3 && s.panel.split1)

/-- R339, R361, R386: a slot's link may come up. -/
def slotMayLink (s : State) (n : Nat) : Bool :=
  s.boot.powered && !s.boot.shut && slotExists s n && nth false (s.boot.perst.map not) (n / 2) && nth false s.power.refHost (n / 2)

/-- R339: a slot's link reaches the active state, at 8 or 16 lanes and generation 1 to 6. -/
def slotLinkUp (s : State) (n width rate : Nat) : State :=
  let split := if n < 2 then s.panel.split0 else s.panel.split1
  let ok := (width == 8 || (width == 16 && !split)) && decide (1 ≤ rate) && decide (rate ≤ 6)
  let h := getHost s n
  if slotMayLink s n && ok && !h.present then setHost s n (crFill s.now { h with present := true, width := width, rate := rate })
  else s

def execSlotLinkUp (slot : Slot) (width rate : Nat) (s : State) : Host.Outcome State Fault Refusal := .next (slotLinkUp s slot width rate)

/-! ### Ownership, R340 to R343 -/

/-- R342: the module has no owner from now on. -/
def endOwner (s : State) : State :=
  if s.own.owned then interrupt { s with own := { epoch := s.own.epoch + 1 } } 1 else s

/-- R342: 100 ms after its last renewal the lease has ended. -/
def leaseExpire (s : State) : State := if s.own.owned && decide (s.own.leaseEnd ≤ s.now) then endOwner s else s

def execLeaseExpire (s : State) : Host.Outcome State Fault Refusal := .next (leaseExpire s)

/-- R343: a pending handover is no longer pending. -/
def handoverDrop (s : State) : State :=
  if s.own.handover then
    interrupt { s with own := { s.own with handover := false, target := 0, handoverEnd := 0, hoValid := false } } 1
  else s

/-- R343: a handover lapses when 100 ms have passed. -/
def handoverLapse (s : State) : State := if s.own.handover && decide (s.own.handoverEnd ≤ s.now) then handoverDrop s else s

def execHandoverLapse (s : State) : Host.Outcome State Fault Refusal := .next (handoverLapse s)

/-- R340, R358: what has expired is decided before a write. -/
def ownSettle (s : State) : State := handoverLapse (leaseExpire s)

/-- The lease and the time of a handover offer, R340, R343. -/
def leaseTime : Nat := 100 * ms

/-- R340: a slot becomes the owner. -/
def newOwner (s : State) (n : Nat) (nonce : Word) : State :=
  interrupt { s with own := { owned := true, slot := n, epoch := s.own.epoch + 1, nonce := nonce, leaseEnd := s.now + leaseTime } } 1

def isOwner (s : State) (n : Nat) : Bool := s.own.owned && s.own.slot == n

/-- R340: a claim. -/
def ownClaim (s : State) (n : Nat) (nonce : Word) : Option Status × State :=
  if nonce = 0 then (some Code.badArgument, s)
  else if !s.own.owned then (none, newOwner s n nonce)
  else if s.own.slot = n ∧ s.own.nonce = nonce then (none, { s with own := { s.own with leaseEnd := s.now + leaseTime } })
  else if s.own.handover && s.own.target == n then (none, newOwner s n nonce)
  else (some Code.ownerHeld, s)

/-- R341: a heartbeat. -/
def ownHeartbeat (s : State) (n : Nat) (nonce : Word) : Option Status × State :=
  if isOwner s n && s.own.nonce == nonce then (none, { s with own := { s.own with leaseEnd := s.now + leaseTime } })
  else (some Code.leaseLost, s)

/-- R342: a release. -/
def ownRelease (s : State) (n : Nat) (nonce : Word) : Option Status × State :=
  if isOwner s n && s.own.nonce == nonce then (none, endOwner s) else (some Code.leaseLost, s)

/-- R343: the owner offers a handover, or withdraws it. -/
def ownHandover (s : State) (valid : Bool) (target : Nat) : Option Status × State :=
  if !valid then (none, let t := handoverDrop s; { t with own := { t.own with hoValid := false, hoTarget := target } })
  else if target = s.own.slot ∨ !(getHost s target).present then (some Code.handoverInvalid, s)
  else (none, interrupt { s with own := { s.own with
    handover := true, target := target, handoverEnd := s.now + leaseTime, hoValid := true, hoTarget := target } } 1)

/-- R339, R342, R440: a slot's link goes down: the owner's lease ends, and records that its buffer holds are lost. -/
def slotLinkDown (s : State) (n : Nat) : State :=
  let h := getHost s n
  if !h.present then s
  else
    let s := setHost s n { h with present := false, width := 0, rate := 0, buf := [], lost := h.lost + BitVec.ofNat 32 h.buf.length }
    if isOwner s n then endOwner s else s

def execSlotLinkDown (slot : Slot) (s : State) : Host.Outcome State Fault Refusal := .next (slotLinkDown s slot)

/-! ### The memory aperture, R351 -/

/-- R351: the current job. -/
def currentJob (s : State) : Option Nat := if s.jobc.st = 1 ∨ s.jobc.st = 2 then some s.jobc.id else none

/-- R351: why an access to device bytes does not reach them. -/
def apertureBad (s : State) (a n : Nat) : Option Status :=
  match currentJob s with
  | none => some Code.apertureDenied
  | some j => (pagesOf a n).findSome? fun p =>
      let e := getPage s p
      match e.st with
      | .unmapped => some Code.unmappedAddress
      | .absent _ => if e.job = j then some Code.pageState else some Code.apertureDenied
      | _ => if e.job = j then none else some Code.apertureDenied

/-- R351: a read through BAR4: the bytes come back in `resp`. -/
def bar4Read (s : State) (n offset len : Nat) : State :=
  let zero := List.replicate len 0
  let put := fun (s : State) b => setHost s n { getHost s n with resp := b }
  let a := s.tiers.aperture * 2 ^ 36 + offset
  if !(getHost s n).present || decide (2 ^ 36 < offset + len) then s
  else if !isReady s then put s zero
  else if !isOwner s n then slotErr (put s zero) n Code.notOwner 2 offset
  else match apertureBad s a len with
    | some c => slotErr (put s zero) n c 2 offset
    | none =>
      if pagesPoisoned s (pagesOf a len) && (List.range len).any fun i => (devLoc s (a + i)).elim false fun l => tierBad s l.1 l.2
      then slotErr (put s zero) n Code.tierUncorrectable 2 offset
      else put s (devAll s a len)

def execBar4Read (slot : Slot) (offset len : Nat) (s : State) : Host.Outcome State Fault Refusal :=
  .next (bar4Read (ownSettle s) slot offset len)

/-- R351: a write through BAR4. -/
def bar4Write (s : State) (n offset : Nat) (data : List Byte) : State :=
  let a := s.tiers.aperture * 2 ^ 36 + offset
  if !(getHost s n).present || decide (2 ^ 36 < offset + data.length) then s
  else if !isReady s then slotErr s n Code.busy 2 offset
  else if !isOwner s n then slotErr s n Code.notOwner 2 offset
  else match apertureBad s a data.length with
    | some c => slotErr s n c 2 offset
    | none => devStore s a data

def execBar4Write (slot : Slot) (offset : Nat) (data : List Byte) (s : State) : Host.Outcome State Fault Refusal :=
  .next (bar4Write (ownSettle s) slot offset data)

/-! ### The start of a job, R352 -/

/-- The result of a JOB_CTRL write; JOB_STATE changed (R350). -/
def jobStatus (s : State) (code : Status) : State :=
  if s.jobc.lastStatus = code then s else interrupt { s with jobc := { s.jobc with lastStatus := code } } 3

/-- R294, R352: a partition entry is valid and LOCAL. -/
def ptLocal (s : State) (i : Nat) : Bool :=
  s.ring.inForce.valid && (s.ring.inForce.pts[i]?).elim false fun e => ptValid e && inBox s.ring.inForce e (myIndex s)

/-- R165, R352: why a start is refused. -/
def startBad (s : State) (id pt : Nat) (noRing : Bool) : Option Status :=
  let held := fun (f : JobCtl → Nat) => (s.saved.map fun k => f k.ctl).foldl (· + ·) 0
  if s.ras.failedStacks ≠ 0 then some Code.stackFailed
  else if s.jobc.st ≠ 0 then some Code.jobRunning
  else if id = 0 ∨ (s.saved.any fun k => k.ctl.id == id) then some Code.jobIdInUse
  else if !noRing && !ptLocal s pt then some Code.jobPartition
  else if nearReservable < held JobCtl.nearRes + s.jobc.resNear ∨ vatFrames < held JobCtl.vatRes + s.jobc.resVat then some Code.reservationExceeded
  else none

/-- R97, R108: the banks of an MU that have been written since they were zeroed, with what its coalescing buffer still holds. -/
def muDirty (m : MuSt) : BitVec 32 := (coalFlush m fun _ => true).dirty

/-- The banks of the grid that have been written since they were zeroed. -/
def dirtyBanks (cells : List (Nat × CellSt)) : Nat :=
  (cells.map fun c => ((List.range 32).filter fun b => (muDirty c.2.mu).getLsbD b).length).foldl (· + ·) 0

/-- R108: every bank is zeroed. -/
def zeroBanks (s : State) : State :=
  { s with
    job := { s.job with grid := { s.job.grid with cells := [] } }
    counts := { s.counts with zeroings := s.counts.zeroings + dirtyBanks s.job.grid.cells } }

/-- R321: the job area of control memory. -/
def areaBytes (s : State) : Bytes := s.cm.filter fun b => decide (b.1 < jobAreaEnd)
def areaZero (s : State) : State := { s with cm := s.cm.filter fun b => decide (jobAreaEnd ≤ b.1) }

/-- What no job holds: a fresh job, with the grants that are still on their way and nobody needs. -/
def noJobState (j : Job) : Job := { asks := j.asks.map fun a => { a with who := .gone } }

/-- R352: an accepted start. -/
def jobBegin (s : State) (id pt : Nat) (noRing : Bool) : State :=
  let s := areaZero (zeroBanks s)
  let s := { s with
    job := noJobState s.job
    jobc := { s.jobc with id := id, fault := 0, ptEntry := pt, noRing := noRing, nearRes := s.jobc.resNear, vatRes := s.jobc.resVat, banksOf := 0, left := false }
    ring := { s.ring with buckets := s.ring.buckets.map fun b => (b.1, { b.2 with bytes := 0 }) }
    tiers := { s.tiers with hits := [0, 0], misses := [0, 0], pinSpill := [0, 0] } }
  setJobSt (bucketsFill s) 6

/-- R352: START of JOB_CTRL. -/
def jobStart (s : State) (id pt : Nat) (noRing : Bool) : State :=
  match startBad s id pt noRing with
  | some c => jobStatus s c
  | none => jobBegin (jobStatus s Code.ok) id pt noRing

/-- R352: STATE becomes RUNNING. -/
def jobRunning (s : State) : State := if s.jobc.st = 6 ∧ isReady s then setJobSt s 1 else s

def execJobRunning (s : State) : Host.Outcome State Fault Refusal := .next (jobRunning s)

/-- R353: the job's fault, under a code of R7's classes. -/
def execJobFault (code : Status) (s : State) : Host.Outcome State Fault Refusal :=
  .next (if jobOn s && Code.valid code then raiseJobFault s code else s)

/-! ### The end of a job, R354 -/

/-- R229: the job ends because another module was removed. -/
def endsByRemoval (c : JobCtl) : Bool := c.st == 2 && c.left && c.fault == Code.sliceLost

/-- R354, step 2: every open request of a job ends FAULTED; every pending one ends CANCELLED. `removal`: see R229. -/
def endRequests (s : State) (job : Nat) (status : Status) (removal : Bool) : State :=
  let rs := s.adm.reqs.filter fun r => r.job == job && r.ended.isNone
  let s := rs.foldl (fun s r => endReqFor removal s r.svc r.slot 5 status) s
  let ps := s.adm.pending.filter fun p => p.job == job
  let s := setAdm s { s.adm with pending := s.adm.pending.filter fun p => p.job != job }
  ps.foldl (fun s p => noteRecent (postRecord s p.host (recordBytes (dTag p.desc) 3 Code.cancelled.toNat s.now 0)) p.host
    (BitVec.ofNat 64 (dTag p.desc))) s

/-- R354, R225: the completion records of a job's requests are written. -/
def writeEnded (s : State) (job : Nat) : State :=
  (s.adm.reqs.filter fun r => r.job == job).foldl (fun s r => match r.ended with
    | none => s
    | some o => writeCompletion s r o.1 o.2) s

/-- R354, step 3: every window of a job closes. -/
def closeWindows (s : State) (job : Nat) : State :=
  (List.range 64).foldl (fun s w => let v := getWin s w; if v.opened && v.job == job then winClose s w else s) s

/-- R299, R354: the credit requests that a job's collectors and dispatches hold are answered. -/
def answerHeld (s : State) (l : Ladle) : State := (l.disps.flatMap DispSt.held ++ l.colls.flatMap CollSt.held).foldl grantReq s

/-- R354, steps 5 to 7, R209, R232: a job's pages are unmapped; weight sets, adapter slots, services, sequences, pool blocks, spill keys
and Separator commands of the job go with them. -/
def freeJob (s : State) (job : Nat) : State :=
  let ps := (s.tiers.pages.filter fun p => p.2.job == job).map Prod.fst
  let sets := (List.range 16).filter fun w => (getWset s w).job == job && (getWset s w).st != 0
  let s := { s with tiers := { s.tiers with maps := s.tiers.maps.filter fun m => m.job != job } }
  let s := ps.foldl unmapPage s
  let s := { s with tiers := { s.tiers with moves := s.tiers.moves.filter fun m => m.job != job } }
  let s := (List.range 16).foldl (fun s v =>
    let x := getSvc s v
    if sets.contains x.wset || (x.st != 0 && x.job == job) then setSvc s v { x with st := 0, ctrl := x.ctrl &&& ~~~1, inRound := false } else s) s
  let s := setAdm s { s.adm with
    seqs := s.adm.seqs.filter fun e => e.2.job != job
    blocks := s.adm.blocks.filter fun b => b.job != job
    copies := s.adm.copies.filter fun c => c.job != job }
  setSep s { s.sep with
    wsets := s.sep.wsets.map fun w => if w.job == job then {} else w
    adps := s.sep.adps.filter fun a => a.2.job != job
    spillKeys := s.sep.spillKeys.filter fun k => k.1 != job
    urgent := s.sep.urgent.map fun c => if c.job == job then { c with job := 0 } else c
    bulk := s.sep.bulk.map fun c => if c.job == job then { c with job := 0 } else c }

/-- R354, steps 1 to 3: the running or FAULTED job begins to end. -/
def jobEndBegin (s : State) : State :=
  let status := if s.jobc.st = 2 then s.jobc.fault else Code.jobEnded
  let id := s.jobc.id
  let removal := endsByRemoval s.jobc
  let s := setJobSt s 5
  let s := jobCtxs.foldl (fun s c => endProgram s c Code.jobEnded 0) s
  let s := raiseAll s supCtxs 6 (evRecord Code.jobEnded 0 0)
  let s := endRequests s id status removal
  let s := closeWindows s id
  let s := answerHeld s s.job.lad
  let s := replayReturns s {}
  { s with job := { s.job with
      lad := { s.job.lad with binds := [], disps := List.replicate 16 {}, colls := List.replicate 64 {} }
      senders := List.replicate 64 {}
      asks := (noJobState s.job).asks } }

/-- R354, steps 4 to 8: the windows are closed, and the job ends. -/
def jobEndComplete (s : State) : State :=
  let id := s.jobc.id
  if s.jobc.st ≠ 5 ∨ (s.wins.any fun w => w.opened && w.job == id) then s
  else
    let s := zeroBanks s
    let s := freeJob (writeEnded s id) id
    let s := areaZero { s with job := noJobState s.job }
    setJobSt { s with jobc := { s.jobc with id := 0, fault := 0, nearRes := 0, vatRes := 0, noRing := false, ptEntry := 0 } } 0

def execJobEndComplete (s : State) : Host.Outcome State Fault Refusal := .next (jobEndComplete s)

/-- R354: a saved context's program ends with JOB_ENDED. -/
def savedEnd (s : State) (x : CtxSt) (q : Nat) : State :=
  if x.st = 0 then s else pqEnd s q (BitVec.ofNat 32 x.entry) Code.jobEnded 0 x.lastPc

/-- R354: END of a saved job, with the status its requests end with and their OUTCOME 5. -/
def savedJobEnd (s : State) (k : SavedJob) : State :=
  let id := k.ctl.id
  let s := endRequests s id (if k.ctl.st = 2 then k.ctl.fault else Code.jobEnded) (endsByRemoval k.ctl)
  let s := closeWindows { s with saved := s.saved.filter fun j => j.ctl.id != id } id
  let s := answerHeld s k.job.lad
  let s := { s with wins := s.wins.map fun w => if w.opened && w.job == id then { w with job := 0 } else w }
  let s := freeJob (writeEnded s id) id
  let s := (k.ctx.zipIdx).foldl (fun s x => savedEnd s x.1 x.2) s
  raiseAll s supCtxs 6 (evRecord Code.jobEnded 0 0)

/-- R354, R358: END of JOB_CTRL. -/
def jobEnd (s : State) (id : Nat) : State :=
  if 3 ≤ s.jobc.st then jobStatus s Code.busy
  else if s.jobc.st ≠ 0 ∧ s.jobc.id = id then jobEndBegin (jobStatus s Code.ok)
  else match s.saved.find? fun k => k.ctl.id == id with
    | some k => savedJobEnd (jobStatus s Code.ok) k
    | none => jobStatus s Code.noJob

/-- R352, R354, R448: a write of JOB_CTRL. -/
def jobCtrlWrite (s : State) (v : Nat) : Option Status × State :=
  let op := bits v 0 2
  let s' := { s with jobc := { s.jobc with ctrlId := bits v 2 16, ctrlPt := bits v 18 5, ctrlNoRing := bit v 23 } }
  if op = 1 then (none, jobStart s' (bits v 2 16) (bits v 18 5) (bit v 23))
  else if op = 2 then (none, jobEnd s' (bits v 2 16))
  else (some Code.badArgument, jobStatus s Code.badArgument)

/-! ### Save and restore, R333, R355 to R358 -/

/-- R355: what a cell takes of the image, in bytes: banks of valid regions in force or in the shadow, operands of a tile, the staging
buffer, finished tiles, tile registers written in the pass, and the rest at its bound. -/
def cellImage (s : State) (c : Nat) : Nat :=
  let x := getCell s c
  let banks := recBanks (getRec s c).mu ||| recBanks (Tbl.get {} s.job.churn.shadow.recs c).mu
  let n := ((List.range 32).filter fun b => banks.getLsbD b).length
  let acc := min 2 (x.done.length + (if x.takenA.isEmpty && x.takenB.isEmpty then 0 else 1))
  let tregs := ((List.range 8).filter fun r => x.vec.treg.any fun t => t.1 / 64 == r).length
  n * 49152 + acc * 65536 + (if x.panel.isSome then 98304 else 0) + min 8 x.vec.ftq.length * 16384 + min 3 tregs * 16384 + 20480 + 12288

/-- R355: the size of the running job's image in MiB, its fixed part taken at its bound. -/
def imageMib (s : State) : Nat :=
  let cells := ((s.job.grid.cells.map Prod.fst) ++ (s.job.grid.recs.map Prod.fst) ++ (s.job.churn.shadow.recs.map Prod.fst)).eraseDups
  40 + ((cells.map (cellImage s)).foldl (· + ·) 0 + 1048575) / 1048576

def savedMib (s : State) : Nat := (s.saved.map SavedJob.mib).foldl (· + ·) 0

/-- R36: a pre-emption freezes every running timer; a job that goes on resumes them from the elapsed time they keep. -/
def timersFreeze (s : State) : State :=
  setJob s { s.job with grid := { s.job.grid with timers := s.job.grid.timers.map fun t => { t with frozen := some s.now } } }

/-- R36: a timer's beats, moved by the time that they stood frozen. -/
def shiftTimer (d : Nat) (t : Timer) : Timer :=
  { t with start := t.start + d, frozen := none, old := t.old.map fun b => { b with start := b.start + d } }
def timersThaw (s : State) : State :=
  setJob s { s.job with grid := { s.job.grid with timers := s.job.grid.timers.map fun t => shiftTimer (s.now - t.frozen.getD s.now) t } }

/-- R356: SAVE is accepted or refused. -/
def saveBegin (s : State) (o : OpRef) : Status × Nat × State :=
  let n := imageMib s
  if s.jobc.st ≠ 1 then (Code.noJob, 0, s)
  else if 8 ≤ s.saved.length ∨ 1024 < savedMib s + n then (Code.saveAreaFull, 0, s)
  else (Code.ok, 0, timersFreeze (suspendWins (setJobSt { s with jobc := { s.jobc with op := o, began := s.now, saveMib := n } } 3) s.jobc.id true))

/-- R356: moves of pages that are in progress complete, coalescers flush and zeroing completes. -/
def saveFreeze (s : State) : State :=
  let s := ((s.tiers.moves.filter fun m => m.started && m.job == s.jobc.id).map Move.page).foldl pageMoveComplete s
  let s := s.job.grid.cells.foldl (fun s c => (List.range 32).foldl (fun s b => bankZeroDone s c.1 b) s) s
  s.job.grid.cells.foldl (fun s c => muSet s c.1 (coalFlush (getCell s c.1).mu fun _ => true)) s

/-- What the banks still hold once a job has been saved. -/
def leftover (cells : List (Nat × CellSt)) : List (Nat × CellSt) :=
  (cells.map fun c => (c.1, ({ mu := { mem := c.2.mu.mem, tags := c.2.mu.tags, powered := c.2.mu.powered, dirty := c.2.mu.dirty } } : CellSt))).filter
    fun c => c.2 != {}

/-- R333, R355, R356: the image of the frozen job is complete. -/
def saveImage (s : State) : State :=
  let id := s.jobc.id
  let i := ((List.range 8).find? fun i => !(s.saved.any fun k => k.entry == i)).getD 0
  let mine := fun (c : SepCmd) => c.job == id
  let k : SavedJob :=
    { entry := i, urgent := s.sep.urgent.filter mine, bulk := s.sep.bulk.filter mine, mib := s.jobc.saveMib, time := s.jobc.began
      ctl := { s.jobc with st := 1 }, job := s.job, ctx := jobCtxs.map (getCtx s), area := areaBytes s }
  let op := s.jobc.op
  let s := setSep s { s.sep with urgent := s.sep.urgent.filter fun c => !mine c, bulk := s.sep.bulk.filter fun c => !mine c }
  let s := jobCtxs.foldl (fun s c => let x := getCtx s c; setCtx s c { ticket := x.ticket, regStatus := x.regStatus }) s
  let s := { s with
    saved := s.saved ++ [k]
    job := { grid := { cells := leftover s.job.grid.cells } }
    jobc := { s.jobc with id := 0, nearRes := 0, vatRes := 0, noRing := false, ptEntry := 0, banksOf := id } }
  opDone (setJobSt s 0) op Code.ok

/-- R356: a job that its freeze has not faulted (R90) is saved. -/
def saveDone (s : State) : State :=
  let t := saveFreeze s
  if t.jobc.st = 3 then saveImage t else t

/-- R356, R358: a save completes, or meets an uncorrectable error in the save area. -/
def saveComplete (s : State) (areaBad : Bool) : State :=
  if s.jobc.st ≠ 3 then s
  else if areaBad then
    let op := s.jobc.op
    let s := noteRas (suspendWins (timersThaw { s with jobc := { s.jobc with st := 1 } }) s.jobc.id false) Code.saveAreaError 0 0
    opDone (raiseJobFault s Code.saveAreaError) op Code.saveAreaError
  else saveDone s

def execSaveComplete (areaBad : Bool) (s : State) : Host.Outcome State Fault Refusal := .next (saveComplete s areaBad)

/-- R357: RESTORE is accepted or refused. -/
def restoreBegin (s : State) (o : OpRef) (id : Nat) : Status × Nat × State :=
  if 2 ^ 16 ≤ id then badArg s
  else if s.jobc.st ≠ 0 then (Code.jobRunning, 0, s)
  else if !s.saved.any fun k => k.ctl.id == id then (Code.noSavedJob, 0, s)
  else (Code.ok, 0, setJobSt { s with jobc := { s.jobc with id := id, op := o } } 4)

/-- R36, R222: the times that a job keeps, moved by the time it was not running. -/
def shiftCell (d : Nat) (c : Nat × CellSt) : Nat × CellSt := (c.1, { c.2 with since := c.2.since.map fun q => (q.1, q.2 + d) })
def shiftGrid (d : Nat) (g : Grid) : Grid := { g with cells := g.cells.map (shiftCell d), timers := g.timers.map (shiftTimer d) }
def shiftWave (d : Nat) (w : Wave) : Wave := { w with start := w.start + d, heldSince := w.heldSince.map (· + d) }
def shiftLad (d : Nat) (l : Ladle) : Ladle :=
  { l with
    disps := l.disps.map fun x => { x with flight := x.flight.map fun h => { h with since := h.since + d } }
    colls := l.colls.map fun c => { c with since := c.since.map (· + d) } }
def shiftJob (d : Nat) (j : Job) : Job :=
  { j with
    grid := shiftGrid d j.grid
    churn := { j.churn with wave := shiftWave d j.churn.wave }
    streams := j.streams.map fun x => (x.1, { x.2 with ready := x.2.ready + d })
    lad := shiftLad d j.lad
    ckpt := j.ckpt.map fun k => { k with
      grid := shiftGrid d k.grid, wave := shiftWave d k.wave, lad := shiftLad d k.lad, time := k.time + d
      streams := k.streams.map fun x => (x.1, { x.2 with ready := x.2.ready + d }) } }

/-- R333: a context from its image: its timer and its wait go on where they stood. Tickets count on (R329). -/
def ctxResume (d : Nat) (now was : CtxSt) : CtxSt :=
  { was with
    ticket := now.ticket
    timer := was.timer.map (· + d)
    waits := match was.waits with
      | .event rd m u => .event rd m (u.map (· + d))
      | w => w }

/-- R108, R357: banks that held another job's contents and that the image does not write are zeroed. -/
def restoreZeroed (s : State) (k : SavedJob) : Nat :=
  if s.jobc.banksOf = k.ctl.id then 0
  else dirtyBanks (s.job.grid.cells.map fun c =>
    (c.1, { c.2 with mu := { c.2.mu with dirty := muDirty c.2.mu &&& ~~~(Tbl.get {} k.job.grid.cells c.1).mu.dirty, coal := [] } }))

/-- R333, R357: the image is back, and the job runs on. -/
def restoreJob (s : State) (k : SavedJob) : State :=
  let id := k.ctl.id
  let d := s.now - k.time
  let op := s.jobc.op
  let back := s.wins.flatMap fun w => if w.opened && w.job == id then w.later else []
  let wins := s.wins.map fun (w : Window) =>
    if w.opened && w.job == id then { w with suspended := false, later := [] } else w
  let reqs := s.adm.reqs.map fun (r : Req) =>
    if r.job == id && r.ended.isNone then
      { r with base := r.base + d, last := r.last + d, due := r.due + d, susp := r.susp + d }
    else r
  let s := { areaZero s with
    counts := { s.counts with zeroings := s.counts.zeroings + restoreZeroed s k }
    saved := s.saved.filter fun j => j.ctl.id != id
    job := { shiftJob d k.job with asks := k.job.asks ++ s.job.asks }
    jobc := { k.ctl with
      resNear := s.jobc.resNear, resVat := s.jobc.resVat, lastStatus := s.jobc.lastStatus, ctrlId := s.jobc.ctrlId
      ctrlPt := s.jobc.ctrlPt, ctrlNoRing := s.jobc.ctrlNoRing, st := 4, fault := 0, banksOf := 0 }
    wins := wins
    ring := { s.ring with loop := s.ring.loop ++ back }
    sep := { s.sep with urgent := k.urgent ++ s.sep.urgent, bulk := k.bulk ++ s.sep.bulk }
    adm := { s.adm with reqs := reqs } }
  let s := { s with cm := (k.area ++ s.cm) }
  let s := (k.ctx.zipIdx).foldl (fun s x => setCtx s (2 * x.2) (ctxResume d (getCtx s (2 * x.2)) x.1)) s
  let s := opDone (setJobSt s 1) op Code.ok
  kickMoves (if k.ctl.st = 2 then raiseJobFault s k.ctl.fault else s)

/-- R357, R313: a restore completes; one of a job that has lost its slice fails. -/
def restoreComplete (s : State) : State :=
  if s.jobc.st ≠ 4 then s
  else match s.saved.find? fun k => k.ctl.id == s.jobc.id with
    | none => s
    | some k =>
      if k.sliceLost then opDone (setJobSt { s with jobc := { s.jobc with id := 0 } } 0) s.jobc.op Code.sliceLost
      else restoreJob s k

def execRestoreComplete (s : State) : Host.Outcome State Fault Refusal := .next (restoreComplete s)

/-- R330: SAVE, by a supervisor context only. -/
def execSave (c : Ctx) (rd : GReg) (s : State) : Host.Outcome State Fault Refusal :=
  .next (runInstr s c (encD 0x37 0 rd 0 0 0) fun t =>
    if c.val % 2 = 0 then programFault t c Code.privileged else asyncIssue t c rd fun o u => saveBegin u o)

/-- R330, R357: RESTORE, by a supervisor context only. -/
def execRestore (c : Ctx) (rd rs1 : GReg) (s : State) : Host.Outcome State Fault Refusal :=
  .next (runInstr s c (encD 0x37 1 rd rs1 0 0) fun t =>
    if c.val % 2 = 0 then programFault t c Code.privileged else asyncIssue t c rd fun o u => restoreBegin u o (gnat t c rs1))

end Sys2Proof.Machine
end

