-- ==== Sys2Proof/Machine/Power.lean ====
section
/-! DEFINITION. Clocks, power and heat (file 16): the reference clocks (R361, R362), the limiters of the fabric clock (R363, R372,
R376, R377), the cap and its control loop (R366 to R371), cooling (R374) and the input (R379). -/

namespace Sys2Proof.Machine

/-! ### The clock in force, R363 -/

/-- R363: the lowest frequency that a limiter sets. -/
def fabricOf (p : Power) : Nat :=
  if p.trip then 800 else min (min p.capFreq (if p.inputLow then 1600 else 2100)) (min p.droopFreq p.warnFreq)

/-- Table 16.5: the limiter bits of CLK_STATE, from bit 12. -/
def limitBits (p : Power) : Nat :=
  flg 0 p.capLim + flg 1 (decide (p.droopFreq < 2100)) + flg 2 (decide (p.warnFreq < 2100)) + flg 3 p.trip + flg 4 p.inputLow

/-- REF_STAT, Table 16.5. -/
def refBits (p : Power) : Nat :=
  flg 0 p.refMgmt + flg 1 p.refLink + flg 2 (nth false p.refHost 0) + flg 3 (nth false p.refHost 1) + flg 4 p.holdover

/-- What vector 11 signals a change of. -/
def powerSigns (p : Power) : Nat × Nat × Nat × Bool := (limitBits p, refBits p, p.thermState, p.inRating)

/-- A time that runs while a condition holds: when it began, and what has been added up. -/
def runTime (now : Nat) (on : Bool) (since : Option Nat) (sum : Nat) : Option Nat × Nat :=
  match since with
  | none => (if on then some now else none, sum)
  | some t => if on then (some t, sum) else (none, sum + (now - t))

/-- The power state after a change: the clock in force and the times of Table 16.5 follow, and vector 11 signals (file 16). -/
def setPower (s : State) (p : Power) : State :=
  let f := fabricOf p
  let peak := runTime s.now (f == 2100) p.peakSince p.peakPp
  let trip := runTime s.now (f == 800) p.tripSince p.tripPp
  let str := runTime s.now (decide (p.droopFreq < 2100)) p.droopSince p.stretchPp
  let t := { s with power := { p with
    fabric := f, peakSince := peak.1, peakPp := peak.2, tripSince := trip.1, tripPp := trip.2, droopSince := str.1, stretchPp := str.2 } }
  if powerSigns p = powerSigns s.power then t else interrupt t 11

/-- The module is powered and its dies are (R378). -/
def diesOn (s : State) : Bool := s.boot.powered && !s.boot.shut

/-- R381: a code that PWR_EVENT and PT_FAULT record. -/
def ptRecord (s : State) (code : Status) (source : Nat) : State := notePt (notePwr s code) code source

/-! ### Reference clocks, R361, R362 -/

def refclkLost (s : State) : State :=
  if !s.power.refMgmt then s
  else
    let s := if s.boot.powered then ptRecord s Code.refclkLost 0 else s
    setPower s { s.power with refMgmt := false, holdover := s.boot.powered }

def execRefclkLost (s : State) : Host.Outcome State Fault Refusal := .next (refclkLost s)

def execRefclkRelock (s : State) : Host.Outcome State Fault Refusal :=
  .next (setPower s { s.power with refMgmt := true, holdover := false })

/-- R361, R308: without REFCLK_LINK every port's link goes down. -/
def refclkLinkLost (s : State) : State :=
  let s := setPower s { s.power with refLink := false }
  (List.range 8).foldl (fun s p => linkDown s p .refclk) s

def execRefclkLinkLost (s : State) : Host.Outcome State Fault Refusal := .next (refclkLinkLost s)

def execRefclkLinkRelock (s : State) : Host.Outcome State Fault Refusal := .next (setPower s { s.power with refLink := true })

/-- R361, R339: without its host reference a port's links go down. -/
def refclkHostLost (s : State) (p : Nat) : State :=
  let s := setPower s { s.power with refHost := s.power.refHost.set p false }
  slotLinkDown (slotLinkDown s (2 * p)) (2 * p + 1)

def execRefclkHostLost (p : Fin 2) (s : State) : Host.Outcome State Fault Refusal := .next (refclkHostLost s p)

def execRefclkHostRelock (p : Fin 2) (s : State) : Host.Outcome State Fault Refusal :=
  .next (setPower s { s.power with refHost := s.power.refHost.set p.val true })

/-! ### The cap, R367 to R370 -/

/-- R367: the cap that a request gives. -/
def capTaken (w : Nat) : Nat := max 1350 (min 1900 w)

/-- R367: the cap in force. -/
def capInForce (c : PwrCap) : Nat := if c.fastcap then min (capTaken c.cap) (capTaken c.armed) else capTaken c.cap

/-- R367, R381: requested caps outside the range are denied or clamped, and recorded; `n` denials are counted. -/
def capRequested (s : State) (c : PwrCap) (n : Nat) : State :=
  let low := decide (c.cap < 1350) || decide (c.armed < 1350)
  let high := decide (1900 < c.cap) || decide (1900 < c.armed)
  let s := { s with cap := { c with denied := low, clamped := high, denials := c.denials + n } }
  let s := if 0 < n then notePwr s Code.capDenied else s
  if high then notePwr s Code.capClamped else s

/-- R367, R368: a write of PWR_CAP. It is in force from the next evaluation of the control loop. -/
def pwrCapWrite (s : State) (v : Word) : State :=
  let v := v.toNat
  let c := { s.cap with cap := bits v 0 12, armed := bits v 16 12, timeoutMs := bits v 32 16, fallback := bits v 48 12
                        lastWrite := s.now, fellBack := false }
  capRequested s c ((if c.cap < 1350 then 1 else 0) + (if c.armed < 1350 then 1 else 0))

def execPwrCapWrite (v : Word) (s : State) : Host.Outcome State Fault Refusal :=
  .next (if s.boot.powered then pwrCapWrite s v else s)

/-- R368: TIMEOUT_MS without a write of PWR_CAP. -/
def capTimeout (s : State) : State :=
  let c := s.cap
  if !s.boot.powered || c.timeoutMs == 0 || c.fellBack || decide (s.now < c.lastWrite + c.timeoutMs * ms) then s
  else capRequested (notePwr s Code.capTimeout) { c with cap := c.fallback, fellBack := true } (if c.fallback < 1350 then 1 else 0)

def execCapTimeout (s : State) : Host.Outcome State Fault Refusal := .next (capTimeout s)

/-- The draw predicted at step `k` is at most 98% of a cap. -/
def capFits (r : PowerReading) (cap k : Nat) : Bool := decide (nth 0 r.predicted k * 100 ≤ cap * 98)

/-- R369: the highest frequency below step `n` whose prediction fits; 1,600 MHz where none does. -/
def capHighest (r : PowerReading) (cap n : Nat) : Nat :=
  1600 + 25 * ((((List.range n).filter fun k => capFits r cap k).getLast?).getD 0)

/-- The step of a frequency; the trip clock counts as the lowest. -/
def stepOf (f : Nat) : Nat := (f - 1600) / 25

/-- R369: what the loop sets. -/
def capNext (s : State) (r : PowerReading) (cap : Nat) : Nat :=
  let k := stepOf s.power.fabric
  if decide (cap < r.mean) || decide (cap < nth 0 r.predicted k) then capHighest r cap k
  else if s.power.capFreq < 2100 ∧ capFits r cap (stepOf s.power.capFreq + 1) then s.power.capFreq + 25
  else s.power.capFreq

/-- The measurements of Table 16.6. -/
def measured (s : State) (r : PowerReading) : PwrCap :=
  let c := s.cap
  { c with mean := r.mean, max10 := r.max10, inputDv := r.inputDv
           energy := c.energy + r.mean * (s.now - c.evalAt.getD s.now), evalAt := some s.now }

/-- R369: an evaluation of the control loop, every 20 µs. -/
def capLoop (s : State) (r : PowerReading) : State :=
  let due := match s.cap.evalAt with
    | none => true
    | some t => decide (t + 20 * us ≤ s.now)
  if !diesOn s || !due then s
  else
    let cap := capInForce s.cap
    let f := capNext s r cap
    setPower { s with cap := { measured s r with inForce := cap } } { s.power with capFreq := f, capLim := decide (f < 2100) }

def execCapLoopEvaluation (r : PowerReading) (s : State) : Host.Outcome State Fault Refusal := .next (capLoop s r)

/-- R370, R395: FASTCAP_N has been asserted for 1 µs. Before READY the clock already stands at 1.60 GHz. -/
def fastCapStep (s : State) (r : PowerReading) : State :=
  if !s.boot.powered || s.cap.fastcap then s
  else
    let c := { s.cap with fastcap := true }
    let cap := capInForce c
    let s := { s with cap := { c with inForce := cap } }
    if !isReady s then s
    else
      let f := capHighest r cap 21
      let s := notePwr { s with cap := { s.cap with steps := s.cap.steps + 1 } } Code.fastCapStep
      let p := { s.power with capFreq := min s.power.capFreq f }
      setPower s { p with capLim := decide (p.capFreq < 2100) }

def execFastCapStep (r : PowerReading) (s : State) : Host.Outcome State Fault Refusal := .next (fastCapStep s r)

/-- R370: FASTCAP_N is deasserted: the cap in force returns to CAP_W. -/
def execFastcapRelease (s : State) : Host.Outcome State Fault Refusal :=
  .next (if s.cap.fastcap then { s with cap := { s.cap with fastcap := false, inForce := capTaken s.cap.cap } } else s)

/-! ### Droop, R372 -/

/-- R372: a detector trips: above 1.60 GHz the limiter goes down by up to four steps. -/
def droop (s : State) (n : Nat) : State :=
  if !diesOn s then s
  else
    let p := { s.power with droops := s.power.droops + 1, droopAt := s.now }
    if s.power.fabric ≤ 1600 then setPower s p
    else setPower s { p with droopFreq := max 1600 (min p.droopFreq p.fabric - 25 * n) }

def execDroop (n : Fin 5) (s : State) : Host.Outcome State Fault Refusal := .next (droop s n)

/-- R363, Table 16.2: one step up once every detector has been clear for 10 µs, and every 10 µs. -/
def droopRecover (s : State) : State :=
  if !diesOn s || decide (2100 ≤ s.power.droopFreq) || decide (s.now < s.power.droopAt + 10 * us) then s
  else setPower s { s.power with droopFreq := min 2100 (s.power.droopFreq + 25), droopAt := s.now }

def execDroopRecover (s : State) : Host.Outcome State Fault Refusal := .next (droopRecover s)

/-! ### Heat, R375 to R378 -/

def sensorNo : Sensor → Nat
  | .d0 => 0
  | .d1 => 1
  | .hbm => 2
  | .vat => 3
  | .store => 4
  | .regulators => 5

/-- Table 16.3: the warning threshold of a class, where it has one. -/
def warnAbove (n : Nat) : Option Nat := if n < 2 then some 95 else if n = 2 then some 85 else none
def tripAbove (n : Nat) : Nat := if n < 2 then 105 else if n = 2 then 95 else 100
def shutAbove (n : Nat) : Nat := if n < 2 then 115 else if n = 2 then 105 else 110

/-- R395: the thresholds apply from FIRMWARE onward. -/
def thermOn (s : State) : Bool := diesOn s && s.boot.stage != 1

/-- THERM_MAX: the hottest sensor of a class. -/
def setTemp (p : Power) (n c : Nat) : Power := { p with maxC := p.maxC.set n (min 255 c) }

/-- R376: the warning limiter goes down one step, at most one per 100 µs. -/
def warnStep (now : Nat) (first : Bool) (p : Power) : Power :=
  if first || decide (p.warnAt + 100 * us ≤ now) then
    { p with warnFreq := max 1600 (min p.warnFreq (max 1600 p.fabric) - 25), warnAt := now }
  else p

/-- R376: a sensor is above its warning threshold. -/
def thermalWarn (s : State) (n c : Nat) : State :=
  match warnAbove n with
  | none => s
  | some w =>
    if !thermOn s || decide (c ≤ w) then s
    else
      let new := decide (nth 0 s.power.maxC n ≤ w)
      let p := setTemp s.power n c
      let s := if new then ptRecord s Code.thermalWarn n else s
      let p := if new then { p with warns := p.warns + 1, thermState := max 1 p.thermState
                                    thermSource := if p.thermState = 0 then n else p.thermSource } else p
      setPower s (warnStep s.now (decide (2100 ≤ p.warnFreq)) p)

def execThermalWarn (src : Sensor) (c : Nat) (s : State) : Host.Outcome State Fault Refusal := .next (thermalWarn s (sensorNo src) c)

/-- R377: a sensor is above its trip threshold. -/
def thermalTrip (s : State) (n c : Nat) : State :=
  if !thermOn s || decide (c ≤ tripAbove n) then s
  else
    let p := setTemp s.power n c
    if p.trip then setPower s { p with tripAt := s.now }
    else
      let s := ptRecord s Code.thermalTrip n
      setPower s { p with trip := true, tripAt := s.now, trips := min 65535 (p.trips + 1), thermState := 2, thermSource := n }

def execThermalTrip (src : Sensor) (c : Nat) (s : State) : Host.Outcome State Fault Refusal := .next (thermalTrip s (sensorNo src) c)

/-- What a class reads once its sensors are below `th`: not stated, a free value in that range (log entry 3). -/
def cooled (s : State) (n th : Nat) : State :=
  if nth 0 s.power.maxC n < th then s
  else
    let c := choose s th
    { c.2 with power := setTemp c.2.power n c.1 }

/-- R377: after a trip every sensor is below its warning threshold; a class that has none is below its trip. -/
def cooledTrip (s : State) : State := (List.range 6).foldl (fun s n => cooled s n ((warnAbove n).getD (tripAbove n))) s

/-- Table 16.2: every sensor is 5 °C below its warning threshold. -/
def cooledWarn (s : State) : State := (List.range 3).foldl (fun s n => cooled s n ((warnAbove n).getD 0 - 4)) s

/-- R363, R377, Table 16.2: after a trip, 1.60 GHz again; after a warning, one step up every 1 ms. -/
def thermalRecover (s : State) : State :=
  let p := s.power
  if !diesOn s then s
  else if p.trip then
    if s.now < p.tripAt + 100 * ms then s
    else
      let t := cooledTrip s
      setPower t { t.power with trip := false, capFreq := 1600, capLim := true, thermState := if p.warnFreq < 2100 then 1 else 0 }
  else if p.warnFreq < 2100 then
    if s.now < p.warnAt + ms then s
    else
      let t := cooledWarn s
      setPower t { t.power with warnFreq := min 2100 (p.warnFreq + 25), warnAt := s.now
                                thermState := if p.warnFreq + 25 < 2100 then 1 else 0 }
  else s

def execThermalRecover (s : State) : Host.Outcome State Fault Refusal := .next (thermalRecover s)

/-! ### Coolant and input, R374, R379 -/

/-- R374: cooling is at rating. -/
def coolantOk (inlet flow : Nat) : Bool := decide (200 ≤ inlet) && decide (inlet ≤ 400) && decide (200 ≤ flow)

def coolantOut (s : State) (inlet outlet flow : Nat) : State :=
  if !s.boot.powered || coolantOk inlet flow then s
  else
    let s := ptRecord s Code.coolantOutOfRating 0
    setPower s { s.power with inlet := inlet, outlet := outlet, flow := flow, inRating := false }

def execCoolantOutOfRating (inlet outlet flow : BitVec 12) (s : State) : Host.Outcome State Fault Refusal :=
  .next (coolantOut s inlet.toNat outlet.toNat flow.toNat)

def coolantIn (s : State) (inlet outlet flow : Nat) : State :=
  if !s.boot.powered || !coolantOk inlet flow then s
  else setPower s { s.power with inlet := inlet, outlet := outlet, flow := flow, inRating := true }

def execCoolantInRating (inlet outlet flow : BitVec 12) (s : State) : Host.Outcome State Fault Refusal :=
  .next (coolantIn s inlet.toNat outlet.toNat flow.toNat)

/-- R379: from 36 V to 40 V. -/
def inputLow (s : State) (dv : Nat) : State :=
  if !s.boot.powered || decide (dv < 360) || decide (400 ≤ dv) then s
  else
    let s := { s with cap := { s.cap with inputDv := dv } }
    if s.power.inputLow then s else setPower (ptRecord s Code.inputLow 0) { s.power with inputLow := true }

def execInputLow (dv : BitVec 12) (s : State) : Host.Outcome State Fault Refusal := .next (inputLow s dv.toNat)

/-- R363, Table 16.2: at least 40 V for 1 ms. -/
def inputRestored (s : State) (dv : Nat) : State :=
  if !s.boot.powered || decide (dv < 400) then s
  else setPower { s with cap := { s.cap with inputDv := dv } } { s.power with inputLow := false }

def execInputRestored (dv : BitVec 12) (s : State) : Host.Outcome State Fault Refusal := .next (inputRestored s dv.toNat)

/-- R379: above 60 V. -/
def inputHigh (s : State) (dv : Nat) : State :=
  if !s.boot.powered || decide (dv ≤ 600) then s else ptRecord { s with cap := { s.cap with inputDv := dv } } Code.inputHigh 0

def execInputHigh (dv : BitVec 12) (s : State) : Host.Outcome State Fault Refusal := .next (inputHigh s dv.toNat)

end Sys2Proof.Machine
end

