-- ==== Sys2Proof/Machine/Views.lean ====
section
/-! DEFINITION. What every register reads (R3, R4): the image of each register of BAR0 by its offset in its block, of the doorbell
page and of the management space. `none` is an unassigned offset (R16). -/

namespace Sys2Proof.Machine

/-- Register `i` of an array of `n` at `base`, `stride` bytes apart, and the offset in it. -/
def arr (l base stride n : Nat) : Option (Nat × Nat) :=
  if base ≤ l ∧ l < base + stride * n then some ((l - base) / stride, (l - base) % stride) else none

/-- The register of a run at offset `o`. -/
def pick (o : Nat) (regs : List Nat) : Option Nat := if o % 8 = 0 then regs[o / 8]? else none

/-- The three registers of a record, the second only where the record has one. -/
def recRegs (r : Rec) : List Nat := [r.reg.toNat, r.more.toNat]
def recRegs3 (r : Rec) : List Nat := [r.reg.toNat, r.aux.toNat, r.more.toNat]

/-- A count as a register field shows it. -/
def wrap (w n : Nat) : Nat := n % 2 ^ w

/-! ### Identity and snapshot, Table 15.4 -/

/-- ID_MODULE and the ROM version, as fused (log entry 2). -/
def idModule : Nat := 0x4A4E + fld 16 0x4801 + fld 32 0x10 + fld 40 0x10
def romVersion : Nat := 0x01000000

/-- The FW_VERSION of the copy that runs. -/
def fwRunning (s : State) : Nat :=
  match nth none s.fw.copies (if s.boot.copyB then 1 else 0) with
  | some c => if s.boot.powered && s.boot.stage != 1 then c.2.toNat else 0
  | none => 0

def rdIdentity (s : State) (l : Nat) : Option Nat :=
  pick l [idModule, moduleSerial.toNat, fwRunning s + fld 32 romVersion, wrap 64 s.now] <|>
  (arr l 0x1000 64 1).bind fun p =>
    pick p.2 ([s.snap.seq, s.snap.epoch, s.snap.time, s.snap.own, s.snap.job, s.snap.svc, s.snap.adm, s.snap.health].map BitVec.toNat)

/-! ### Ownership, slots and jobs, Table 15.6 -/

/-- A time left, in ms, rounded up. -/
def leftMs (s : State) (t : Nat) : Nat := (t - s.now + ms - 1) / ms

def ownState (s : State) : Nat :=
  fld 3 s.own.epoch.toNat +
  (if s.own.owned then
    1 + fld 1 s.own.slot + fld 35 (leftMs s s.own.leaseEnd) +
      (if s.own.handover then fld 42 1 + fld 43 s.own.target + fld 45 (leftMs s s.own.handoverEnd) else 0)
   else 0)

def jobState (s : State) : Nat :=
  s.jobc.st + (if s.jobc.st = 0 ∨ s.jobc.st = 6 then 0 else fld 3 s.jobc.id) + (if s.jobc.st = 2 then fld 19 s.jobc.fault.toNat else 0) +
  fld 35 s.jobc.lastStatus.toNat

def jobCtrlReg (s : State) : Nat := fld 2 s.jobc.ctrlId + fld 18 s.jobc.ctrlPt + flg 23 s.jobc.ctrlNoRing

def slotStat (s : State) (n : Nat) : Nat :=
  let h := getHost s n
  flg 0 h.present + fld 1 h.width + fld 6 h.rate + flg 9 (isOwner s n) + fld 10 h.errCount.toNat

def slotErrReg (s : State) (n : Nat) : Nat :=
  let h := getHost s n
  h.errCode.toNat + fld 16 h.errBar + fld 18 (wrap 36 h.errOffset)

def savedAt (s : State) (i : Nat) : Option SavedJob := s.saved.find? fun k => k.entry == i

def rdOwner (s : State) (l : Nat) : Option Nat :=
  pick l [ownState s, 0, 0, flg 0 s.own.hoValid + fld 1 s.own.hoTarget, 0, jobCtrlReg s, s.jobc.resNear + fld 20 s.jobc.resVat, jobState s,
          wrap 11 (savedMib s) + fld 11 s.saved.length] <|>
  (arr l 0x100 0x10 4).bind (fun p => pick p.2 [slotStat s p.1, slotErrReg s p.1]) <|>
  (arr l 0x200 0x10 8).bind (fun p => pick p.2 (match savedAt s p.1 with
    | none => [0, 0]
    | some k => [1 + fld 1 k.ctl.id + fld 17 (wrap 11 k.mib) + flg 28 k.sliceLost, wrap 64 k.time])) <|>
  (if l = 0x300 then some s.tiers.aperture else none)

/-! ### Raler, Tables 14.8 to 14.11 -/

/-- CTX_STAT STATE: a job context waits, suspended, while its supervisor runs (R319); SAVED while no job is held and a saved job
has a program in it. -/
def ctxState (s : State) (c : Nat) : Nat :=
  let x := getCtx s c
  if c % 2 = 0 ∧ x.st = 1 ∧ (getCtx s (c + 1)).st = 1 then 3
  else if c % 2 = 0 ∧ x.st = 0 ∧ s.jobc.st = 0 ∧ s.saved.any (fun k => (nth {} k.ctx (c / 2)).st != 0) then 4
  else x.st

def ctxRegs (s : State) (c : Nat) : List Nat :=
  let x := getCtx s c
  [ctxState s c + fld 3 (wrap 23 x.pc) + fld 32 x.tag.toNat, x.ev.toNat + fld 32 x.evq.length, fld 5 x.ticket.toNat, x.regStatus.toNat]

/-- RX_VAL, to a reader with the owner's rights. -/
def rxVal (s : State) (n : Nat) (own : Bool) : Nat :=
  let sel := (getHost s n).rxSel
  if own then (greg s (bits sel 0 3) (bits sel 3 5)).toNat else 0

def rdRaler (s : State) (own : Bool) (l : Nat) : Option Nat :=
  pick l ([4 + fld 3 1 + fld 6 1200 + fld 18 8192 + fld 32 6144 + fld 46 16 + fld 51 64,
           pack 3 s.raler.physMap + flg 12 s.raler.spareUsed] ++ recRegs s.recs.ral ++
          [s.job.inbox.length + fld 32 (wrap 32 s.job.refused)]) <|>
  (arr l 0x1000 0x20 8).bind (fun p => pick p.2 (ctxRegs s p.1)) <|>
  (arr l 0x2000 0x20 4).bind (fun p => let q := getPq s p.1; pick p.2 [q.base, q.size, q.head.toNat, q.tail.toNat]) <|>
  (arr l 0x3000 0x40 4).bind (fun p => let h := getHost s p.1; pick p.2 [h.cmBase, h.rxSel, rxVal s p.1 own])

/-! ### Configuration and Churn, Tables 7.7 to 7.9 -/

def cfgState (s : State) : Nat :=
  let c := s.job.churn
  c.baseSlot + flg 6 c.baseValid + fld 7 c.ovlSlot + flg 13 c.ovlValid + fld 14 c.shadow.slot + fld 20 c.shadow.st + fld 32 (wrap 32 c.swaps)

def waveStat (s : State) : Nat :=
  let c := s.job.churn
  c.committed + fld 10 c.changed + flg 20 c.wave.active + flg 21 c.wave.heldSince.isSome

def imgRegs (s : State) (i : Nat) : List Nat :=
  let x := getImg s i
  [x.addr, x.st + flg 2 x.overlay + fld 3 x.bytes + fld 29 x.baseSlot + fld 35 x.ovlIndex + flg 39 (imgInForce s i) + flg 40 (imgInShadow s i)]

def rdConfig (s : State) (l : Nat) : Option Nat :=
  pick l ([32 + fld 8 16 + fld 16 16 + fld 21 64 + fld 28 64 + fld 36 128, cfgState s, waveStat s,
           wrap 32 s.job.churn.waveLast + fld 32 (wrap 32 s.job.churn.waveMax), s.limits.swapUs] ++ recRegs s.recs.cfg) <|>
  (arr l 0x1000 0x10 64).bind (fun p => pick p.2 (imgRegs s p.1))

/-! ### The grid, Tables 2.6 to 2.12 -/

def spareReg (s : State) (d : Nat) : Nat :=
  let x := nth {} s.dies d
  x.oos + fld 5 x.reason + flg 7 x.held + fld 8 (x.failed.getLastD 31)

def lmapReg (s : State) (p : Nat) : Nat :=
  let q := physPair s (16 * p)
  let d := dieOf (16 * p)
  d + fld 1 q + fld 6 (2 * q) + fld 12 (2 * q + 1) + flg 18 ((nth {} s.dies d).failed.contains q)

def timerRegs (s : State) (t : Nat) : List Nat :=
  let x := getTimer s t
  [x.cfg.toNat, flg 0 x.running + flg 1 x.overrun + flg 2 x.replay + flg 3 (x.frozen.isSome && x.running) +
     (if x.running then fld 32 (wrap 21 (x.frozen.getD s.now - x.start)) else 0),
   wrap 21 x.last + fld 32 (wrap 21 x.max), wrap 32 x.beats + fld 32 (wrap 32 x.overruns)]

/-- Whether a record is in force at a cell: before the first swap of a job reaches it none is, and no select is (R149). -/
def recInForce (s : State) (c : Nat) : Bool := s.job.churn.baseValid || s.job.churn.wave.committed.contains c

/-- A slot's switch inspection window, Table 2.12. -/
def swRegs (s : State) (n : Nat) : List Nat :=
  let sel := (getHost s n).swSel
  let c := bits sel 0 9
  let net := bits sel 9 2
  let x := getCell s c
  let sw := (getRec s c).sw
  [sel, pack 6 ((List.range 6).map fun i => (getQ x (inKey net i)).length), pack 6 ((List.range (swOuts net)).map (outCredit s c net)),
   if recInForce s c then pack 4 ((List.range (swOuts net)).map (swSelect sw net)) + flg 28 (swActive sw) else 0]

def rdGrid (s : State) (l : Nat) : Option Nat :=
  pick l [16 + fld 8 32 + fld 16 17 + fld 24 12 + fld 32 1 + fld 36 8, spareReg s 0, spareReg s 1, s.limits.hangUs] <|>
  (arr l 0x100 8 32).bind (fun p => pick p.2 [lmapReg s p.1]) <|>
  (arr l 0x1000 0x20 8).bind (fun p => pick p.2 (timerRegs s p.1)) <|>
  (arr l 0x2000 24 1).bind (fun p => pick p.2 (recRegs s.recs.grid ++ [wrap 48 s.counts.linkCorr])) <|>
  (arr l 0x3000 0x40 4).bind (fun p => pick p.2 (swRegs s p.1))

/-! ### Memory units and windows, Tables 5.4 to 5.7 -/

/-- The banks that are being zeroed. -/
def zeroingBanks (s : State) : Nat :=
  (s.job.grid.cells.map fun c => ((List.range 32).filter fun b => c.2.mu.zeroing.getLsbD b).length).sum

def winRegs (s : State) (w : Nat) : List Nat :=
  let v := getWin s w
  [flg 0 v.opened + flg 1 v.suspended + flg 2 v.closing + fld 3 v.gen.toNat + fld 11 v.cell + fld 20 v.region + fld 23 v.baseUnit +
     fld 35 v.units + fld 47 v.part.toNat + flg 55 v.flip,
   v.free + fld 16 v.outstanding + fld 32 v.held, wrap 32 v.writes + fld 32 (wrap 16 v.refused) + fld 48 v.lastCode.toNat, v.lastSrc.toNat]

/-- MU_PEEK, to a reader with the owner's rights (R115). -/
def peekVal (s : State) (n : Nat) (own : Bool) : Nat :=
  if own then leNat (peekThrough s n).1 else 0

/-- R93, R95: the element that a generator visits next: in FIFO mode the place of its next entry in the region, in INDEXED mode the
element that the waiting index names, BASE while none waits. -/
def genNext (s : State) (c : Nat) (write : Bool) : Int :=
  let mu := (getRec s c).mu
  let x := getCell s c
  let g := if write then wrGen mu else rdGen mu
  let p := if write then x.mu.wr else x.mu.rd
  if !g.enable then 0
  else if g.mode = 1 then
    (Tbl.get 0 (if write then x.mu.fifoWr else x.mu.fifoRd) g.region % fifoCap g (region mu g.region) : Nat)
  else if g.mode = 2 then g.base + (((getQ x (locKey 1 5)).headD {}).data.toNat % 2 ^ 32 : Int) * nth 0 g.strides 0
  else genElem g p.elem

def muRegs (s : State) (n : Nat) (own : Bool) : List Nat :=
  let sel := (getHost s n).muSel
  let c := bits sel 0 9
  let i := bits sel 9 3
  let m := (getCell s c).mu
  [sel, leAt (getRec s c).mu (4 * i) 4 + flg 32 (m.fillHalf.getLsbD i) + flg 33 (m.flip.getLsbD i),
   m.powered.toNat + fld 32 m.zeroing.toNat, unsgn 21 (genNext s c false) + fld 32 (unsgn 21 (genNext s c true)), peekVal s n own]

def rdMu (s : State) (own : Bool) (l : Nat) : Option Nat :=
  (arr l 0 24 1).bind (fun p => pick p.2 [32 + fld 6 768 + fld 16 8 + fld 20 64 + fld 28 1 + fld 32 512,
    zeroingBanks s + fld 16 (wrap 48 s.counts.zeroings), s.limits.closeUs]) <|>
  (arr l 0x20 24 1).bind (fun p => pick p.2 (recRegs s.recs.mu ++ [wrap 48 s.counts.muCorr])) <|>
  (arr l 0x1000 0x20 64).bind (fun p => pick p.2 (winRegs s p.1)) <|>
  (arr l 0x3000 0x40 4).bind (fun p => pick p.2 (muRegs s p.1 own))

/-! ### Tiers and streams, Tables 8.7 to 8.9 -/

def framesZeroing (s : State) : Nat :=
  (s.tiers.nearF.filter fun f => f.2 == .zeroing).length + (s.tiers.vatF.filter fun f => f.2 == .zeroing).length +
  (if s.boot.powered && !s.boot.vatZeroed then vatFrames - s.boot.vatEarly.length else 0)

def isMoving : PState → Bool
  | .moving _ _ _ _ => true
  | _ => false

/-- RES_NEAR and RES_VAT; their fields are `w` bits apart. -/
def resReg (s : State) (vat : Bool) (w : Nat) : Nat :=
  if s.jobc.id = 0 then 0 else tierRes s vat + fld w (tierUsed s s.jobc.id vat) + fld (2 * w) (tierAside s s.jobc.id vat)

def resTotal (s : State) (f : JobCtl → Nat) : Nat := f s.jobc + (s.saved.map fun k => f k.ctl).sum

def migStat (s : State) : Nat :=
  let c := s.job.sched
  let n := schedPeriod s.job.churn.tables.sched
  (if n = 0 then 0 else (c.count - 1) % n) + fld 16 (c.entry % 2 ^ 13) + flg 29 c.running + fld 32 (wrap 32 c.late)

/-- VAT_SLOT: the channel that serves a slot. -/
def vatSlot (s : State) (k : Nat) : Nat :=
  ((s.ras.chans.zipIdx.find? fun c => (c.1.st == 0) && c.1.slot == k).map Prod.snd).getD 127

def pgEntry (s : State) (p : Nat) : Nat :=
  let pin := flg 3 (isPinned s p)
  match (getPage s p).st with
  | .unmapped => 0
  | .near f => 1 + pin + fld 5 f
  | .vat f => 1 + fld 1 1 + pin + fld 5 f
  | .moving _ f _ g => 1 + fld 1 2 + pin + fld 5 f + fld 25 g
  | .absent b => 1 + fld 1 3 + pin + flg 4 b.isSome

/-- A slot's page and stream inspection window, Table 8.9. -/
def tierRegs (s : State) (n : Nat) : List Nat :=
  let h := getHost s n
  let x := getStr s h.strSel
  [h.pgSel, pgEntry s h.pgSel, h.strSel, x.st + flg 3 x.shadow.isSome + fld 4 (wrap 21 (64 * x.pos)), x.addr,
   (x.shadow.map Prod.fst).getD 0]

def rdTiers (s : State) (l : Nat) : Option Nat :=
  pick l ([nearFrames + fld 19 vatFrames + fld 39 92 + fld 46 512 + fld 56 21,
           nearFree s + fld 19 (vatFree s) + fld 39 (framesZeroing s),
           (s.tiers.pages.filter fun p => p.2.st != .unmapped).length +
             fld 22 (s.tiers.pages.filter fun p => match p.2.st with | .absent _ => true | _ => false).length +
             fld 44 (s.tiers.pages.filter fun p => isMoving p.2.st).length,
           resReg s false 19, resReg s true 20, resTotal s JobCtl.nearRes + fld 19 (resTotal s JobCtl.vatRes), migStat s,
           wrap 32 s.job.sched.moves + fld 32 (wrap 32 s.job.sched.skipped)] ++ recRegs3 s.recs.str) <|>
  (arr l 0x60 32 1).bind (fun p => pick p.2 [wrap 32 (nth 0 s.tiers.hits 0) + fld 32 (wrap 32 (nth 0 s.tiers.misses 0)),
    wrap 32 (nth 0 s.tiers.hits 1) + fld 32 (wrap 32 (nth 0 s.tiers.misses 1)),
    wrap 32 (nth 0 s.tiers.pinSpill 0) + fld 32 (wrap 32 (nth 0 s.tiers.pinSpill 1)), wrap 32 s.job.rearmDropped]) <|>
  (arr l 0x100 8 16).bind (fun p => pick p.2 [nth 0 s.job.sbase p.1]) <|>
  (arr l 0x200 8 92).bind (fun p => pick p.2 [vatSlot s p.1]) <|>
  (arr l 0x3000 0x40 4).bind (fun p => pick p.2 (tierRegs s p.1))

/-! ### Store and Separator, Tables 9.5 to 9.8 -/

def activeOp (s : State) : Nat :=
  match (s.sep.urgent.head?.filter fun c => c.running), (s.sep.bulk.head?.filter fun c => c.running) with
  | some c, _ => c.op
  | none, some c => c.op
  | none, none => 0

def wsRegs (s : State) (w : Nat) : List Nat :=
  let x := getWset s w
  [x.st + flg 2 (s.adm.svcs.any fun v => v.st == 1 && v.wset == w) + fld 3 (s.adm.reqs.filter fun r => (getSvc s r.svc).wset == w).length,
   x.image.toNat]

def adRegs (s : State) (a : Nat) : List Nat :=
  let x := getAdp s a
  [x.st + fld 3 x.id + fld 15 x.version + fld 32 x.refs, x.page]

def dirRegs (s : State) (n : Nat) : List Nat :=
  let i := (getHost s n).dirSel
  let e := Tbl.get {} s.sep.dir i
  [i, e.id.toNat, if e.id = 0 then 0 else e.kind + fld 2 e.stripes.length + (if e.kind = 1 then fld 30 e.adapter + fld 42 e.version else 0)]

def rdStore (s : State) (l : Nat) : Option Nat :=
  pick l [8 + fld 4 6 + fld 8 2 + fld 12 64 + fld 20 16384 + fld 35 16 + fld 40 512,
          storeStripes - s.sep.stripes.length + fld 32 s.sep.dir.length, s.limits.spill,
          s.sep.urgent.length + fld 7 s.sep.bulk.length + fld 12 (activeOp s), wrap 32 s.sep.rebuilt + fld 32 (wrap 32 s.sep.lost),
          s.sep.scrubPos + fld 32 s.sep.passDays] <|>
  (arr l 0x40 24 1).bind (fun p => pick p.2 (recRegs3 s.recs.sep)) <|>
  (arr l 0x100 8 8).bind (fun p => pick p.2 [nth 0 s.sep.wear p.1 + fld 8 (nth 0 s.sep.spare p.1) + fld 16 (wrap 48 (nth 0 s.sep.corr p.1))]) <|>
  (arr l 0x1000 0x10 16).bind (fun p => pick p.2 (wsRegs s p.1)) <|>
  (arr l 0x2000 0x10 512).bind (fun p => pick p.2 (adRegs s p.1)) <|>
  (arr l 0x4000 0x40 4).bind (fun p => pick p.2 (dirRegs s p.1))

/-! ### Admission, Tables 10.5 and 10.6 -/

def admState (s : State) : Nat :=
  s.adm.reqs.length + fld 13 s.adm.pending.length + flg 24 (!s.adm.reqs.isEmpty)

def svcRegs (s : State) (v : Nat) : List Nat :=
  let x := getSvc s v
  [x.cfg.toNat, x.timing.toNat, x.kv.toNat, x.ctrl.toNat,
   x.st + fld 2 (s.adm.reqs.filter fun r => r.svc == v).length + fld 9 (s.adm.pending.filter fun p => dSvc p.desc == v).length +
     fld 20 (wrap 32 (x.prefillNext - x.idx)),
   wrap 32 x.rounds + fld 32 (wrap 32 x.long)]

def rdAdm (s : State) (l : Nat) : Option Nat :=
  pick l [16 + fld 5 64 + fld 12 1024 + fld 23 40 + fld 30 10, admState s, wrap 32 s.adm.admitted + fld 32 (wrap 32 s.adm.refused),
          wrap 32 s.adm.broken + fld 32 (wrap 32 s.adm.overruns), s.recs.adm.reg.toNat, wrap 64 (s.adm.promised / us),
          wrap 64 (s.adm.lost / us)] <|>
  (arr l 0x1000 0x40 16).bind (fun p => pick p.2 (svcRegs s p.1))

/-! ### Cellar and Skimmer, Tables 11.5 to 11.7 -/

def csRegs (s : State) (v : Nat) : List Nat :=
  let x := getSvc s v
  [x.pool.toNat, x.area.toNat, x.logit.toNat, x.slotmap.toNat, x.token.toNat, x.skm.toNat, wrap 32 x.steps + fld 32 (wrap 32 x.accepted)]

def seqRegs (s : State) (n : Nat) : List Nat :=
  let i := (getHost s n).seqSel
  let e := getSeq s i
  let own := if e.st = 1 then (e.stored + (getSvc s e.svc).block - 1) / (getSvc s e.svc).block else 0
  let made := ((s.adm.reqs.find? fun r => r.seq == some i && r.holdsSeq).map Req.produced).getD 0
  [i, e.st + fld 2 e.svc + (if e.st = 1 then fld 6 e.slot else 0) + flg 12 e.lost + fld 16 e.ver,
   e.length + fld 25 (max e.pool.length own),
   e.pending.getD 0 + flg 18 e.pending.isSome + fld 19 e.gram + (if e.st = 1 then fld 40 (wrap 24 made) else 0)]

def rdCellar (s : State) (l : Nat) : Option Nat :=
  let a := s.adm
  pick l ([4096 + fld 13 24 + fld 18 65536 + fld 35 64 + fld 42 16 + fld 47 1024, 262144 + fld 19 4096 + fld 32 4096 + fld 45 8,
           (a.seqs.filter fun e => e.2.st == 1).length + fld 13 (a.seqs.filter fun e => e.2.st == 2).length +
             fld 26 (a.blocks.filter fun b => b.hash.isSome).length,
           wrap 32 a.reused + fld 32 (wrap 32 a.published), wrap 16 a.notKept + fld 16 (wrap 16 a.skipped) + fld 32 (wrap 32 a.collisions),
           a.cmd.toNat / 4 * 4] ++ recRegs s.recs.cel) <|>
  (arr l 0x1000 0x40 16).bind (fun p => pick p.2 (csRegs s p.1)) <|>
  (arr l 0x3000 0x40 4).bind (fun p => pick p.2 (seqRegs s p.1))

/-! ### The Ladle, Tables 12.5 to 12.7 -/

/-- Answer slots of which every unit has landed. -/
def landedSlots (k : LadDisp) (h : DispHalf) : Nat :=
  (((h.landed.map fun u => u / max 1 k.ansUnits).eraseDups).filter (slotLanded k h)).length

def ldRegs (s : State) (d : Nat) : List Nat :=
  let x := getDisp s d
  let k := ladDisp (ladSec s) d
  match x.flight with
  | [] => [x.epoch.toNat + flg 16 x.half, wrap 32 x.halves + fld 32 (wrap 32 x.resent)]
  | h :: _ => [h.epoch.toNat + flg 16 h.letter + fld 17 (max 1 h.phase) + fld 20 (h.qs.map LadQ.sent).sum + fld 34 (landedSlots k h),
               wrap 32 x.halves + fld 32 (wrap 32 x.resent)]

def lcRegs (s : State) (c : Nat) : List Nat :=
  let x := getColl s c
  let k := ladColl (ladSec s) c
  let w := if decide (c < ladColls (ladSec s)) then winAt s k.cell k.reg else none
  [(markMembers x).length + fld 9 (wrap 12 x.rows.length) + fld 21 (wrap 8 x.lastToken) + fld 29 (w.getD 0) + flg 35 w.isSome,
   wrap 32 x.halves + fld 32 (wrap 32 x.heldN)]

def rdLadle (s : State) (l : Nat) : Option Nat :=
  let a := s.job.lad
  pick l ([4096 + fld 13 1024 + fld 24 64 + fld 31 1024 + fld 42 16 + fld 47 64, wrap 32 a.rows + fld 32 (wrap 32 a.answers),
           wrap 32 a.stale + fld 32 (wrap 32 a.zeroHalves), s.limits.halfUs] ++ recRegs s.recs.lad) <|>
  (arr l 0x1000 8 1024).bind (fun p => let b := getBind s p.1
    pick p.2 [flg 0 b.bound + fld 1 b.win + fld 7 b.gen.toNat + fld 15 b.member]) <|>
  (arr l 0x3000 0x10 16).bind (fun p => pick p.2 (ldRegs s p.1)) <|>
  (arr l 0x4000 0x10 64).bind (fun p => pick p.2 (lcRegs s p.1))

/-! ### The Miled ring, Tables 13.5 to 13.9 -/

def axisState (s : State) (a : Nat) : Nat :=
  if !s.ring.inForce.valid || axisLen s.ring.inForce a == 1 then 0 else min 3 ((nth [] s.ring.breaks a).length + 1)

def ptRegs (s : State) (i : Nat) : List Nat :=
  let p := s.ring.plan
  let e := nth {} p.pts i
  let me := p.index.toNat
  let isIn := ptValid e && inBox p e me
  [e.cfg.toNat + (if isIn then fld 49 1 + fld 50 (memberOf p e me) else 0), e.rate.toNat]

def portRegs (s : State) (p : Nat) : List Nat :=
  let x := getPort s p
  [portStat x, pack 4 x.map, x.farSerial.toNat, x.farPort + fld 3 x.farIndex.toNat + fld 32 x.farPlan.toNat,
   (nth 0 s.ring.plan.expSerial p).toNat, flg 0 (nth false s.ring.plan.expCheck p), wrap 40 x.fecCorr + fld 40 (wrap 24 x.fecUncorr),
   wrap 32 x.replays + fld 32 (wrap 16 x.swaps) + fld 48 (wrap 16 x.downs), wrap 64 x.txBytes, wrap 64 x.transitBytes,
   flg 1 x.berMode + fld 2 x.berLanes.toNat + fld 15 x.berMs,
   flg 0 x.berDone + fld 1 x.berFailed.toNat + fld 14 x.berWorst + fld 32 (wrap 32 x.berErrors)]

def senderRegs (s : State) (n : Nat) : List Nat :=
  let x := getSender s n
  [x.cfg.toNat, wrap 32 x.sends + fld 32 (if x.active then bits x.cfg.toNat 15 12 - x.pos + x.redo.length else 0)]

def wdReg (s : State) (w : Nat) : Nat :=
  let x := (getWin s w).wd
  flg 0 x.enable + fld 1 (x.senders % 256) + fld 9 x.token + fld 32 (wrap 9 x.markers.length) + fld 41 (wrap 12 (x.landed.map Prod.snd).sum)

/-- A slot's regulator inspection window, Table 13.9. -/
def rgRegs (s : State) (n : Nat) : List Nat :=
  let sel := (getHost s n).rgSel
  let i := bits sel 0 5
  let p := bits sel 5 3
  let e := nth {} s.ring.inForce.pts i
  let b := getBucket s p i
  let x := getPort s p
  let share := if s.ring.inForce.valid && ptValid e then 2 * shareFlits s.ring.inForce e else 0
  let used := Tbl.get 0 x.used (shareKey (ptPart e) false) + Tbl.get 0 x.used (shareKey (ptPart e) true)
  [sel, unsgn 32 (bucketLevel s.now e b / 16) + fld 32 (wrap 32 (b.stalls + bucketStall s.now e b)), wrap 64 b.bytes,
   share + fld 21 (if share = 0 then 0 else used)]

def rdRing (s : State) (l : Nat) : Option Nat :=
  let p := s.ring.plan
  pick l [8 + fld 4 13 + fld 8 16 + fld 13 32 + fld 19 64, p.index.toNat + fld 16 p.lengths.toNat + flg 32 p.valid, p.id.toNat,
          pack 2 ((List.range 4).map (axisState s)) + fld 8 (pack 4 ((List.range 4).map fun a => (nth [] s.ring.breaks a).headD 0)),
          s.recs.mil.reg.toNat, s.recs.mil.more.toNat + fld 32 (wrap 32 s.ring.frameBad)] <|>
  (arr l 0x400 0x10 32).bind (fun q => pick q.2 (ptRegs s q.1)) <|>
  (arr l 0x1000 0x100 8).bind (fun q => pick q.2 (portRegs s q.1)) <|>
  (arr l 0x2000 0x10 64).bind (fun q => pick q.2 (senderRegs s q.1)) <|>
  (arr l 0x2800 8 64).bind (fun q => pick q.2 [wdReg s q.1]) <|>
  (arr l 0x3000 0x40 4).bind (fun q => pick q.2 (rgRegs s q.1))

/-! ### Clocks, power and heat, Table 16.5 -/

/-- A running time in units of `u` planning periods. -/
def runSum (now : Nat) (since : Option Nat) (sum u : Nat) : Nat := (runTime now false since sum).2 / u

def clkState (s : State) : Nat := s.power.fabric + fld 12 (limitBits s.power)
def thermMax (s : State) : Nat := pack 8 s.power.maxC
def thermStat (s : State) : Nat :=
  s.power.thermState + fld 2 s.power.thermSource + fld 32 (wrap 16 s.power.trips) + fld 48 (wrap 16 s.power.warns)
def coolantReg (s : State) : Nat := s.power.inlet + fld 12 s.power.outlet + fld 24 s.power.flow + flg 36 s.power.inRating

def rdPower (s : State) (l : Nat) : Option Nat :=
  let p := s.power
  pick l ([1600 + fld 16 2100 + fld 32 25 + fld 40 800, clkState s,
           wrap 32 (runSum s.now p.peakSince p.peakPp ms) + fld 32 (wrap 32 (runSum s.now p.tripSince p.tripPp ms)),
           wrap 32 p.droops + fld 32 (wrap 32 (runSum s.now p.droopSince p.stretchPp us)), refBits p, thermMax s, thermStat s, coolantReg s] ++
          recRegs s.recs.pt)

/-! ### Faults, spares and ageing, Tables 18.8 to 18.10 -/

def spareState (s : State) : Nat :=
  flg 0 (nth {} s.dies 0).held + flg 1 (nth {} s.dies 1).held + fld 2 (s.ras.chans.filter fun c => c.st == 1).length +
  flg 5 (!s.raler.spareUsed) + fld 6 (s.ras.pool.foldl min 2047) +
  fld 17 (pack 1 (s.ring.ports.map fun x => if x.map.contains 12 || x.retired.getLsbD 12 then 0 else 1))

def errCtrl (s : State) : Nat := s.ras.ctrl.toNat / 8 * 8 + fld 32 s.ras.ctrlStatus.toNat + flg 48 (s.ras.busy != 0)

def remapReg (s : State) (i : Nat) : Nat :=
  match s.remapLog[i]? with
  | none => 0
  | some r => 1 + fld 1 r.1 + fld 2 r.2.1 + fld 7 r.2.2.1.toNat + fld 23 (wrap 32 r.2.2.2)

/-- R417, R392: the predictions rest on the fused baseline. -/
def baseline (s : State) : Bool := decide (poweredHours s < 168)

def ageRegs (s : State) (r : Nat) : List Nat :=
  let x := nth {} s.ras.age r
  [x.eol + fld 16 x.conf + fld 23 x.spare + flg 27 (baseline s) + flg 28 x.alert, x.metric + fld 16 x.offset + fld 32 (wrap 32 x.updated)]

def rdFaults (s : State) (l : Nat) : Option Nat :=
  (arr l 8 88 1).bind (fun p => pick p.2 (recRegs3 s.recs.unit ++ recRegs s.recs.ras ++
    [min 65535 s.counts.unitFaults + fld 16 (min 65535 s.counts.replays) + fld 32 (wrap 32 s.counts.worst), wrap 48 s.counts.corr, spareState s,
     s.limits.ageDays + fld 16 s.limits.ageConf, errCtrl s, wrap 32 (poweredHours s)])) <|>
  (arr l 0x100 8 12).bind (fun p => pick p.2 [nth 0 s.ras.pool p.1 + fld 11 (nth 0 s.ras.retired p.1)]) <|>
  (arr l 0x200 8 96).bind (fun p => let c := nth {} s.ras.chans p.1; pick p.2 [c.st + fld 2 (if c.st = 0 then c.slot else 127)]) <|>
  (arr l 0x600 8 8).bind (fun p => pick p.2 [remapReg s p.1]) <|>
  (arr l 0x1000 0x10 64).bind (fun p => pick p.2 (ageRegs s p.1))

/-! ### The service panel, Tables 19.8 and 19.10 -/

/-- R390: READY with a loss. -/
def degraded (s : State) : Bool :=
  s.boot.stage == 4 && ((s.dies.any fun d => !d.failed.isEmpty) || s.ring.ports.any fun x => x.map.length != 12 || (x.st == 0 && decide (0 < x.downs)))

/-- R436, Table 19.8: the state listed lowest. -/
def statusLamp (s : State) : Nat :=
  if !s.boot.powered then 0
  else if s.panel.removal = 2 ∨ s.boot.stage = 5 ∨ s.boot.shut then 5
  else if s.panel.removal = 1 then 4
  else if s.boot.stage = 4 then
    if degraded s || s.ras.age.any fun x => x.alert && x.spare == 8 then 3 else 2
  else 1

def locateLit (s : State) : Bool := s.panel.locate || s.panel.mgLocate

def panelState (s : State) : Nat :=
  flg 0 s.panel.latchClosed + flg 1 s.panel.leverMoved + fld 3 s.panel.removal + fld 5 (statusLamp s) + flg 8 (locateLit s) +
  flg 9 s.panel.split0 + flg 10 s.panel.split1

def rdPanel (s : State) (l : Nat) : Option Nat :=
  let p := s.panel
  pick l [1 + fld 16 1, panelState s, p.events.toNat, flg 0 p.locate, min 65535 p.removedReqs + fld 16 (wrap 20 p.doneUs), wrap 32 p.insertions]

/-! ### BAR0 and the doorbell page -/

/-- R3, R16: what a register of BAR0 reads, to a reader with or without the owner's rights; none where no register stands. -/
def regAt (s : State) (own : Bool) (off : Nat) : Option Nat :=
  let l := off % 0x100000
  match off / 0x100000 with
  | 0 => rdIdentity s l
  | 1 => rdOwner s l
  | 2 => rdRaler s own l
  | 3 => rdConfig s l
  | 4 => rdGrid s l
  | 5 => rdMu s own l
  | 6 => rdTiers s l
  | 7 => rdStore s l
  | 8 => rdAdm s l
  | 9 => rdCellar s l
  | 10 => rdLadle s l
  | 11 => rdRing s l
  | 12 => rdPower s l
  | 13 => rdFaults s l
  | 14 => rdPanel s l
  | _ => none

/-- R347: the request ring of a slot in control memory. -/
def rqHead (s : State) (n : Nat) : Nat := leNat (cmRead s (getHost s n).rqBase 4)
def rqTailWord (s : State) (n : Nat) : Nat := leNat (cmRead s ((getHost s n).rqBase + 4) 4)

/-- The registers of a slot's doorbell page, Table 15.5. -/
def pageRegs (s : State) (n : Nat) : List Nat :=
  let h := getHost s n
  ((List.range 4).map fun q => (getPq s q).tail.toNat) ++
  [h.rqBase, h.rqTail.toNat, rqHead s n, h.crAddr.toNat, flg 0 h.crEnable + fld 1 h.crLog2, h.crTail.toNat, h.crHead.toNat,
   h.buf.length + fld 32 h.lost.toNat, h.intEn.toNat, n + flg 2 (isOwner s n), h.pba.toNat]

/-! ### The management space, Tables 16.6, 17.4 and 19.7 -/

def bootStat (s : State) : Nat :=
  s.boot.stage + fld 4 s.boot.cause + flg 8 s.boot.copyB + flg 9 (degraded s) + flg 10 (baseline s) + fld 11 s.boot.stackFail.toNat +
  fld 23 (4 - min 4 (s.ras.chans.filter fun c => c.st == 1).length) + fld 32 (wrap 32 s.boot.readyMs)

def mgPanel (s : State) : Nat :=
  flg 0 s.panel.mgLocate + fld 1 (statusLamp s) + fld 4 s.panel.removal + fld 6 s.panel.mgEvents.toNat

def fwStat (s : State) : Nat :=
  s.fw.status.toNat + fld 16 s.fw.reject + flg 19 s.fw.active + flg 20 s.fw.target + fld 21 s.fw.data.length

/-- R433: what a register of the management space reads; an unassigned offset reads zero. -/
def mgmtAt (s : State) (off : Nat) : Nat :=
  let c := s.cap
  let r := pick off [idModule, moduleSerial.toNat, fwRunning s + fld 32 romVersion] <|>
    (arr off 0x40 24 1).bind (fun p => pick p.2 [bootStat s, 0, wrap 32 s.boot.cold + fld 32 (wrap 32 s.boot.warm)]) <|>
    (arr off 0x100 48 1).bind (fun p => pick p.2 [c.cap + fld 16 c.armed + fld 32 c.timeoutMs + fld 48 c.fallback,
      c.inForce + flg 12 c.denied + flg 13 c.fastcap + flg 14 c.clamped,
      wrap 12 c.mean + fld 12 (wrap 12 c.max10) + fld 24 (wrap 12 c.inputDv) + fld 36 s.power.fabric, wrap 64 (c.energy / 1600000000),
      s.recs.pwr.reg.toNat, wrap 32 c.steps + fld 32 (wrap 32 c.denials)]) <|>
    (arr off 0x180 8 1).bind (fun p => pick p.2 [mgPanel s]) <|>
    (arr off 0x200 24 1).bind (fun p => pick p.2 [fld 32 s.fw.size, fwStat s, 0])
  if s.boot.powered then r.getD 0 else 0

end Sys2Proof.Machine
end

