-- ==== Sys2Proof/Machine/Boot.lean ====
section
/-! DEFINITION. Power-up, bring-up, the loss of power, the warm reset and firmware (file 17, R339, R345, R434). -/

namespace Sys2Proof.Machine

/-! ### Requests and services that stop with the module, R393, R438 -/

/-- R228, R438: every service that is OPEN or SUSPENDED closes with REOPEN_AT_MS 0, and its pending requests are refused. -/
def closeAll (s : State) : State := (List.range 16).foldl (fun s v => if (getSvc s v).st = 0 then s else svcShut s v 0) s

/-- The requests that have not ended. -/
def openReqs (s : State) : List Req := s.adm.reqs.filter fun r => r.ended.isNone

/-- R438, R393: every open request ends REMOVED, and the completion record of every request that has ended is written. -/
def removeReqs (s : State) : State :=
  let s := (openReqs s).foldl (fun s r => endReq s r.svc r.slot 4 Code.removed) s
  s.adm.reqs.foldl (fun s r => match r.ended with
    | none => s
    | some o => writeCompletion s r o.1 o.2) s

/-- R353: every saved job ends. -/
def endSaved (s : State) : State := s.saved.foldl savedJobEnd s

/-! ### What a reset keeps, R394, Table 17.3 -/

/-- R194, R209: the store keeps its images, wrapped keys and scrub position; the images of SPILL, which belong to jobs, are freed. -/
def keptSep (x : Sep) : Sep :=
  let spills := (x.dir.filter fun e => e.2.kind == 2).map Prod.fst
  { dir := x.dir.filter fun e => e.2.kind != 2
    stripes := x.stripes.filter fun t => !spills.contains t.2.dir
    writes := x.writes, drawn := x.drawn, scrubPos := x.scrubPos, scrubSince := x.scrubSince, passDays := x.passDays
    wear := x.wear, spare := x.spare }

/-- R408: a copy to a standby channel that has not completed is dropped. -/
def keptChan (c : VatCh) : VatCh := if c.st = 2 then ⟨1, 127, 127⟩ else c

/-- Spares, retired parts and ageing. -/
def keptRas (x : Ras) : Ras :=
  { pool := x.pool, retired := x.retired, chans := x.chans.map keptChan, rails := x.rails, failedStacks := x.failedStacks
    testHour := x.testHour, age := x.age, mismatches := x.mismatches }

/-- R412: a port keeps its retired lanes, and the lane that stands by. -/
def keptPort (x : PortSt) : PortSt :=
  { retired := x.retired, spare := x.spare, map := laneMapOf (0x1FFF#13 &&& ~~~x.retired) x.spare
    spareUsed := (laneMapOf (0x1FFF#13 &&& ~~~x.retired) x.spare).contains x.spare, wire := x.wire }

def keptRaler (x : Raler) : Raler := { physMap := x.physMap, spareUsed := x.spareUsed, out := x.out }

/-- A slot whose link and configuration space are reset: what the module has sent is in the host's memory. -/
def coldHost (n : Nat) (h : HostSlot) : HostSlot := { rqBase := 0x5F0000 + 0x1000 * n, ring := h.ring, msgs := h.msgs }

/-- Table 17.3: host links, the configuration space, the MSI-X table and pending bits are kept; R393: doorbell registers are reset. -/
def warmHost (n : Nat) (h : HostSlot) : HostSlot :=
  { coldHost n h with present := h.present, width := h.width, rate := h.rate, pba := h.pba, msix := h.msix, sentAt := h.sentAt }

/-- R378, R379, R395: the module loses its power: what the fuses and the store's system area hold stays, and what is outside it. -/
def powerOff (s : State) : State :=
  { pending := s.pending, free := s.free, hours := poweredHours s
    dies := s.dies, remapLog := s.remapLog, ras := keptRas s.ras, raler := keptRaler s.raler, sep := { keptSep s.sep with scrubSince := 0 }
    ring := { ports := s.ring.ports.map keptPort }
    hosts := (s.hosts.zipIdx).map fun h => coldHost h.2 h.1
    fw := { copies := s.fw.copies, fusedMin := s.fw.fusedMin }
    mgmt := { alerts := s.mgmt.alerts }
    panel := { latchClosed := s.panel.latchClosed, leverMoved := s.panel.leverMoved, insertions := s.panel.insertions }
    power := { refMgmt := s.power.refMgmt, refLink := s.power.refLink, refHost := s.power.refHost }
    boot := { cold := s.boot.cold, warm := s.boot.warm, modEn := s.boot.modEn, perst := s.boot.perst } }

/-- Clocks and heat across a warm reset: what is measured stays, the limiters that heat, the input and the trip set stay, and counts
restart. The clock stands at 1.60 GHz (R392). -/
def warmPower (s : State) : Power :=
  let p := s.power
  let q := { p with
    capFreq := 1600, capLim := p.capLim, droopFreq := 2100, droopAt := 0, peakSince := none, peakPp := 0, tripSince := none, tripPp := 0
    droops := 0, droopSince := none, stretchPp := 0, trips := 0, warns := 0 }
  { q with fabric := fabricOf q, tripSince := if p.trip then some s.now else none }

/-- R393, R394: the warm reset's wipe: everything but the state of Table 17.3 returns to its reset value. -/
def warmWipe (s : State) : State :=
  { pending := s.pending, free := s.free, now := s.now, hours := s.hours
    dies := s.dies, remapLog := s.remapLog, ras := keptRas s.ras, raler := keptRaler s.raler, sep := keptSep s.sep
    ring := { ports := s.ring.ports.map keptPort }
    hosts := (s.hosts.zipIdx).map fun h => warmHost h.2 h.1
    fw := s.fw, mgmt := s.mgmt, cap := s.cap, recs := { pwr := s.recs.pwr }
    panel := { s.panel with removal := 0, byLever := false, events := 0, locate := false, removedReqs := 0, doneUs := 0 }
    power := warmPower s
    boot := { s.boot with vatZeroed := false, vatEarly := [] } }

/-! ### Stages, R385, R390, R432 -/

/-- STAGE changes, which the management port signals. -/
def setStage (s : State) (n : Nat) : State :=
  if s.boot.stage = n then s else mgmtAlert { s with boot := { s.boot with stage := n } }

/-- R388: the copy's security version, where the boot ROM accepts it. -/
def copyVersion (s : State) (b : Bool) : Option Nat :=
  match nth none s.fw.copies (if b then 1 else 0) with
  | none => none
  | some c => if s.fw.fusedMin ≤ c.1 then some c.1 else none

/-- R388: the copy that boots: that with the higher security version, A on a tie. -/
def bootCopy (s : State) : Option Bool :=
  match copyVersion s false, copyVersion s true with
  | none, none => none
  | some _, none => some false
  | none, some _ => some true
  | some a, some b => some (decide (a < b))

/-- R385, R388: time zero: the pins are read, the boot ROM verifies a firmware copy, and firmware begins to train the module. -/
def coldPowerUp (s : State) (x : Straps) : State :=
  if s.boot.powered then s
  else
    let s := { s with
      boot := { s.boot with powered := true, modEn := true, cold := s.boot.cold + 1 }
      panel := { s.panel with split0 := x.split0, split1 := x.split1 }
      mgmt := { s.mgmt with addr := x.mgmtAddr, smbus := x.smbus, dynAddr := none } }
    match bootCopy s with
    | none => setStage { s with boot := { s.boot with cause := 1 } } 5
    | some b => setStage (setStage { s with boot := { s.boot with copyB := b } } 2) 3

def execColdPowerUp (straps : Straps) (s : State) : Host.Outcome State Fault Refusal := .next (coldPowerUp s straps)

/-- R395: MOD_EN is deasserted: the module, or its bring-up, stops at once. -/
def execModEnDeassert (s : State) : Host.Outcome State Fault Refusal :=
  .next (if s.boot.modEn then powerOff { s with boot := { s.boot with modEn := false } } else s)

/-- R440: the input is lost without warning. -/
def execInputLoss (s : State) : Host.Outcome State Fault Refusal := .next (if s.boot.powered then powerOff s else s)

/-- R379: an input below 36 V: the module records BROWN_OUT if it can (log entry 3), and stops. -/
def brownOut (s : State) : State :=
  if !s.boot.powered then s
  else
    let c := choose s 2
    powerOff (if c.1 = 1 then notePwr c.2 Code.brownOut else c.2)

def execBrownOut (s : State) : Host.Outcome State Fault Refusal := .next (brownOut s)

/-- R386, R339: PERST of a host port: it resets that port alone, with its slots' links and configuration space. -/
def perst (s : State) (p : Nat) (asserted : Bool) : State :=
  let s := { s with boot := { s.boot with perst := s.boot.perst.set p asserted } }
  if !asserted then s
  else
    let s := slotLinkDown (slotLinkDown s (2 * p)) (2 * p + 1)
    [2 * p, 2 * p + 1].foldl (fun s n => setHost s n { getHost s n with msix := [], pba := 0, sentAt := [] }) s

def execPerst (p : Fin 2) (asserted : Bool) (s : State) : Host.Outcome State Fault Refusal := .next (perst s p asserted)

/-! ### The snapshot, R345 -/

/-- SNAP_HEALTH FAULT_BLOCKS: the blocks that hold a record of vector 8. -/
def faultBlocks (r : Records) : Nat :=
  flg 2 r.ral.valid + flg 3 r.cfg.valid + flg 4 r.grid.valid + flg 5 r.mu.valid + flg 6 r.str.valid + flg 7 r.sep.valid + flg 8 r.adm.valid +
  flg 9 r.cel.valid + flg 10 r.lad.valid + flg 11 r.mil.valid + flg 12 r.pt.valid + flg 13 (r.unit.valid || r.ras.valid)

/-- R345: a publication; SNAP_SEQ ends even, at twice SNAP_EPOCH. -/
def publish (s : State) : State :=
  let w := BitVec.ofNat 64
  let health := faultBlocks s.recs + fld 15 (pack 1 (s.ring.ports.map fun x => if portRuns x && x.st == 2 then 1 else 0)) + fld 23 s.saved.length
  interrupt { s with snap := {
    seq := s.snap.seq + 2, epoch := s.snap.epoch + 1, time := w s.now, own := w (ownState s), job := w (jobState s)
    svc := w (pack 2 (s.adm.svcs.map Service.st)), adm := w (admState s), health := w health } } 2

/-- R345: every 1 ms of the timebase. -/
def snapshotPublish (s : State) : State :=
  if isReady s && decide (s.snap.time.toNat + ms ≤ s.now) then publish s else s

def execSnapshotPublish (s : State) : Host.Outcome State Fault Refusal := .next (snapshotPublish s)

/-! ### READY, FAILED and the Vat, R389, R390 -/

/-- A bring-up that runs: cold, or after a warm request. -/
def bringsUp (s : State) : Bool := s.boot.powered && !s.boot.shut && (s.boot.stage == 3 || s.boot.stage == 6)

/-- What a warm reset has left to discard. -/
def settleWarm (s : State) : State := if s.boot.stage = 6 ∧ s.ring.leaving then warmWipe s else s

/-- R390, R389: every item has completed: the module is READY, its first snapshot is published, and the fused minimum advances. -/
def ready (s : State) : State :=
  if !bringsUp s || s.panel.removal != 0 || s.ras.failedStacks != 0 then s
  else
    let s := settleWarm s
    let min := max s.fw.fusedMin (((nth none s.fw.copies (if s.boot.copyB then 1 else 0)).map Prod.fst).getD 0)
    publish (setStage { s with fw := { s.fw with fusedMin := min }, boot := { s.boot with readyMs := (s.now - s.boot.startAt) / ms } } 4)

def execReady (s : State) : Host.Outcome State Fault Refusal := .next (ready s)

/-- Table 17.4: the causes that a stage can fail with; a warm reset repeats neither the store nor the fuses and rails. -/
def causeOk (stage c : Nat) : Bool := if stage = 3 then decide (2 ≤ c) else decide (4 ≤ c) && decide (c ≤ 6)

/-- R390, R409: an item fails. CAUSE 5 names the stack that has failed outright, or one that fails now (log entry 3). -/
def bringupFailed (s : State) (c : Nat) : State :=
  if !bringsUp s || !causeOk s.boot.stage c then s
  else
    let s := settleWarm s
    let h := choose s 12
    let bad := if s.ras.failedStacks = 0 then 1#12 <<< h.1 else s.ras.failedStacks
    let s := if c = 5 then { h.2 with boot := { h.2.boot with stackFail := bad } } else s
    setStage { s with boot := { s.boot with cause := c } } 5

def execBringupFailed (cause : Fin 8) (s : State) : Host.Outcome State Fault Refusal := .next (bringupFailed s cause)

/-- R385: every Vat frame has been zeroed: what waits for one goes on (R163, R224). -/
def vatZeroComplete (s : State) : State :=
  if !s.boot.powered || s.boot.shut || s.boot.vatZeroed || !(s.boot.stage == 3 || s.boot.stage == 4 || s.boot.stage == 6) then s
  else recheckAll (kickMoves { s with boot := { s.boot with vatZeroed := true, vatEarly := [] } })

def execVatZeroComplete (s : State) : Host.Outcome State Fault Refusal := .next (vatZeroComplete s)

/-! ### The warm reset, R393 -/

/-- No port is in the midst of its departure. -/
def allLeft (s : State) : Bool := s.ring.ports.all fun x => x.st != 4

/-- R393, step 2: the running job ends. -/
def endRunning (s : State) : State := if s.jobc.st = 1 ∨ s.jobc.st = 2 ∨ s.jobc.st = 3 then jobEndBegin s else s

/-- R393: a warm reset's first steps, and the wipe once the ring is left. -/
def warmBegin (s : State) : State :=
  let s := setStage { s with boot := { s.boot with warm := s.boot.warm + 1, startAt := s.now, cause := 0 } } 6
  let s := endSaved (endRunning (removeReqs (closeAll s)))
  let s := leaveRing s
  if allLeft s then warmWipe s else s

/-- R393, R395, R439, R441: a warm reset is requested: before READY, while one runs and while a removal proceeds the request is ignored;
after a removal that stopped a warm reset it is not. -/
def warmReset (s : State) : State :=
  if s.panel.removal ≠ 1 ∧ (isReady s ∨ (s.panel.removal = 2 ∧ bringsUp s ∧ s.boot.stage = 6)) then warmBegin s else s

def execWarmReset (_pin : Bool) (s : State) : Host.Outcome State Fault Refusal := .next (warmReset s)

/-! ### Firmware updates, R434 -/

/-- FW_STAT STATUS after an operation that is refused or rejected. -/
def fwStatus (s : State) (c : Status) (reject : Nat) : State := { s with fw := { s.fw with status := c, reject := reject } }

/-- R434: operations work at READY only. -/
def fwStage (s : State) : Bool := s.boot.stage == 4

def fwBegin (s : State) (size : Nat) : State :=
  if !s.boot.powered then s
  else if s.fw.active || !fwStage s then fwStatus s Code.busy 0
  else if size % 8 ≠ 0 ∨ 2 ^ 24 < size then fwStatus s Code.badArgument 3
  else { s with fw := { s.fw with status := 0, reject := 0, active := true, target := !s.boot.copyB, size := size, data := [] } }

def execFwBegin (size : BitVec 25) (s : State) : Host.Outcome State Fault Refusal := .next (fwBegin s size.toNat)

def fwData (s : State) (d : Word) : State :=
  if !s.boot.powered || !s.fw.active || decide (s.fw.size < s.fw.data.length + 8) then s
  else { s with fw := { s.fw with data := s.fw.data ++ leBytes 8 d.toNat } }

def execFwData (data : Word) (s : State) : Host.Outcome State Fault Refusal := .next (fwData s data)

/-- R434: why COMMIT rejects the image, with REJECT. -/
def fwReject (s : State) (storeWriteOk : Bool) : Nat :=
  if s.fw.data.length ≠ s.fw.size then 3
  else if !Config.fwSignatureOk s.fw.data then 1
  else if Config.fwSecurityVersion s.fw.data < s.fw.fusedMin then 2
  else if !storeWriteOk then 4
  else 0

def fwCommit (s : State) (storeWriteOk : Bool) : State :=
  if !s.boot.powered then s
  else if !fwStage s then fwStatus s Code.busy 0
  else if !s.fw.active then fwStatus s Code.badArgument 0
  else
    let s' := { s with fw := { s.fw with active := false } }
    let r := fwReject s storeWriteOk
    if r ≠ 0 then fwStatus s' Code.badArgument r
    else
      let c := some (Config.fwSecurityVersion s.fw.data, Config.fwVersion s.fw.data)
      fwStatus { s' with fw := { s'.fw with copies := s.fw.copies.set (if s.fw.target then 1 else 0) c } } 0 0

def execFwCommit (storeWriteOk : Bool) (s : State) : Host.Outcome State Fault Refusal := .next (fwCommit s storeWriteOk)

def fwAbort (s : State) : State :=
  if !s.boot.powered then s
  else if !fwStage s then fwStatus s Code.busy 0
  else fwStatus { s with fw := { s.fw with active := false, data := [] } } 0 0

def execFwAbort (s : State) : Host.Outcome State Fault Refusal := .next (fwAbort s)

end Sys2Proof.Machine
end

