-- ==== Sys2Proof/Machine/Panel.lean ====
section
/-! DEFINITION. The service panel and warned removal (R378, R432 to R441), and the writes of the management space. -/

namespace Sys2Proof.Machine

/-! ### Panel events, R432, R435, R442 -/

/-- A new bit of PANEL_EVENT signals vector 10; a new bit of MG_PANEL EVENTS raises a management alert. -/
def panelEvent (s : State) (b : Nat) : State :=
  let m := 1#4 <<< b
  let t := { s with panel := { s.panel with events := s.panel.events ||| m, mgEvents := s.panel.mgEvents ||| m } }
  let t := if s.panel.events.getLsbD b then t else interrupt t 10
  if s.panel.mgEvents.getLsbD b then t else mgmtAlert t

/-! ### Warned removal, R438 -/

/-- R438, R202, R204: a LOAD that was running leaves its target FAILED. -/
def loadStops (s : State) (c : SepCmd) : State :=
  match c.slot with
  | some a => setAdp s a { getAdp s a with st := 5 }
  | none => if (getWset s c.wset).st = 1 then setWset s c.wset { getWset s c.wset with st := 3 } else s

/-- R438: a Separator command stops or is discarded, with REMOVED. -/
def sepStops (s : State) (c : SepCmd) : State :=
  opDone (if c.running && c.op == 2 then loadStops s c else s) c.forOp Code.removed

/-- R438: the Separator stops; a command whose work is done keeps its result. -/
def sepStopAll (s : State) : State :=
  let stop := fun (c : SepCmd) => c.result.isNone
  let cs := (s.sep.urgent ++ s.sep.bulk).filter stop
  cs.foldl sepStops (setSep s { s.sep with urgent := s.sep.urgent.filter fun c => !stop c, bulk := s.sep.bulk.filter fun c => !stop c })

/-- R438: the running job becomes FAULTED with REMOVED, and a save or a restore in progress stops. -/
def jobRemoved (s : State) : State :=
  if s.jobc.st = 4 then opDone (setJobSt { s with jobc := { s.jobc with id := 0 } } 0) s.jobc.op Code.removed
  else raiseJobFault (if s.jobc.st = 6 then { s with jobc := { s.jobc with st := 1 } } else s) Code.removed

/-- R378: power is removed from the dies, the stacks, the Vat, the store and the ports; the management core stays powered. -/
def shutDown (s : State) : State :=
  let t := warmWipe s
  { t with
    hours := poweredHours s, panel := s.panel, boot := { t.boot with shut := true }
    hosts := (s.hosts.zipIdx).map fun h => coldHost h.2 h.1 }

/-- R438: the departure is complete, and REMOVAL reads REMOVED. -/
def removalDone (s : State) : State :=
  if s.panel.removal = 1 ∧ allLeft s then
    let s := { s with panel := { s.panel with removal := 2, doneUs := (s.now - s.panel.began) / us } }
    if s.boot.shutHeat then shutDown s else s
  else s

/-- R438, Table 19.9: warned removal starts, and ends every request and job. -/
def removal (s : State) (lever : Bool) : State :=
  if !s.boot.powered || s.boot.shut || s.panel.removal != 0 then s
  else
    let n := (openReqs s).length
    let s := { s with panel := { s.panel with removal := 1, byLever := lever, began := s.now, removedReqs := n, doneUs := 0 } }
    let s := leaveRing (sepStopAll (closeAll s))
    removalDone (endSaved (jobRemoved (removeReqs s)))

/-- R437: LATCH_CLOSED changes. -/
def latchMoves (s : State) (closed : Bool) : State :=
  if s.panel.latchClosed = closed then s
  else
    let t := { s with panel := { s.panel with
      latchClosed := closed, latchSince := s.now, leverMoved := if closed then false else s.panel.leverMoved } }
    if diesOn s then panelEvent t 3 else t

def execLatchClosed (closed : Bool) (s : State) : Host.Outcome State Fault Refusal := .next (latchMoves s closed)

/-- R437, R438: the lever passes 6 mm, and is no longer home. -/
def leverStart (s : State) : State :=
  if s.panel.leverMoved then s
  else
    let t := latchMoves s false
    let t := { t with panel := { t.panel with leverMoved := true } }
    removal (if diesOn t then panelEvent t 2 else t) true

/-- R435: a press held for 5 s. -/
def attnLong (s : State) : State :=
  if !diesOn s || s.panel.removal != 0 then s else removal (panelEvent s 1) false

def execAttnLong (s : State) : Host.Outcome State Fault Refusal := .next (attnLong s)

/-- R435: a press of 50 ms to 2 s. -/
def execAttnShort (s : State) : Host.Outcome State Fault Refusal :=
  .next (if !diesOn s || s.panel.removal != 0 then s else panelEvent s 0)

/-- R411: a rail has lost a phase beyond its redundant one. -/
def railFailed (s : State) : Bool := s.ras.rails.any fun r => decide (2 ≤ s.ras.rails.count r)

/-- R438: what starts a removal; heat and the regulators start it only where R378 or R411 applies. -/
def warnedRemoval (s : State) : RemovalStart → State
  | .lever => leverStart s
  | .button => attnLong s
  | .thermal => if s.boot.shutHeat then removal s false else s
  | .regulator => if railFailed s then removal s false else s

def execWarnedRemoval (start : RemovalStart) (s : State) : Host.Outcome State Fault Refusal := .next (warnedRemoval s start)

/-- R439: the lever is home again after a removal it began, and has been for 1 s. -/
def latchReturn (s : State) : State :=
  let p := s.panel
  if !s.boot.powered || s.boot.shut || p.removal != 2 || !p.byLever || !p.latchClosed || decide (s.now < p.latchSince + 1000 * ms) then s
  else warmBegin s

def execLatchReturn (s : State) : Host.Outcome State Fault Refusal := .next (latchReturn s)

/-- R314, R438, R393: the ports send LEAVING DONE; a removal, or else a warm reset, that waited for it goes on. -/
def leavingDoneSend (s : State) : State :=
  let s := removalDone (leavingDone s)
  if s.boot.stage = 6 ∧ s.panel.removal = 0 ∧ s.ring.leaving ∧ allLeft s then warmWipe s else s

def execLeavingDoneSend (s : State) : Host.Outcome State Fault Refusal := .next (leavingDoneSend s)

/-- R378: a sensor passes its shutdown threshold. -/
def thermalShutdown (s : State) (n c : Nat) : State :=
  if !thermOn s || decide (c ≤ shutAbove n) then s
  else
    let t := setPower s (setTemp s.power n c)
    if s.boot.shutHeat then t
    else
      let t := ptRecord { t with boot := { t.boot with shutHeat := true } } Code.thermalShutdown n
      if t.panel.removal = 2 then shutDown t else removal t false

def execThermalShutdown (src : Sensor) (c : Nat) (s : State) : Host.Outcome State Fault Refusal := .next (thermalShutdown s (sensorNo src) c)

/-! ### The management space, R432, R433 -/

/-- FW_CTRL, R434. COMMIT's write of the store may fail (log entry 3); OP 0 keeps SIZE. -/
def fwCtrlWrite (s : State) (v : Nat) : State :=
  match bits v 0 2 with
  | 1 => fwBegin s (bits v 32 25)
  | 2 =>
    let c := choose s 2
    fwCommit c.2 (c.1 == 0)
  | 3 => fwAbort s
  | _ => if s.fw.active then s else { s with fw := { s.fw with size := bits v 32 25 } }

/-- MG_PANEL: LOCATE, and the bits of EVENTS that a write clears. -/
def mgPanelWrite (s : State) (v : Nat) : State :=
  { s with panel := { s.panel with mgLocate := bit v 0, mgEvents := s.panel.mgEvents &&& ~~~BitVec.ofNat 4 (bits v 6 4) } }

/-- R433: a register of the management space is written; an unassigned offset and a RO register discard the write. -/
def mgmtReg (s : State) (off : Nat) (v : Word) : State :=
  match off with
  | 0x48 => if v.getLsbD 0 then warmReset s else s
  | 0x100 => pwrCapWrite s v
  | 0x120 => { s with recs := { s.recs with pwr := recClear s.recs.pwr v } }
  | 0x180 => mgPanelWrite s v.toNat
  | 0x200 => fwCtrlWrite s v.toNat
  | 0x210 => fwData s v
  | _ => s

/-- R432: a write transfer: discarded where the PEC fails under SMBus, the offset is no multiple of 8 or the length is not 8. -/
def mgmtWrite (s : State) (off : Nat) (data : List Byte) (pecOk : Bool) : State :=
  if !s.boot.powered || (s.mgmt.smbus && !pecOk) || off % 8 != 0 || data.length != 8 then s
  else mgmtReg s (off % 65536) (BitVec.ofNat 64 (leNat data))

def execMgmtRegisterWrite (off : Nat) (data : List Byte) (pecOk : Bool) (s : State) : Host.Outcome State Fault Refusal :=
  .next (mgmtWrite s off data pecOk)

/-- R432: under I3C the controller assigns a dynamic address. -/
def execSetdasa (addr : BitVec 7) (s : State) : Host.Outcome State Fault Refusal :=
  .next (if s.boot.powered && !s.mgmt.smbus then { s with mgmt := { s.mgmt with dynAddr := some addr.toNat } } else s)

end Sys2Proof.Machine
end

