-- ==== Sys2Proof/Machine/Ras.lean ====
section
/-! DEFINITION. Faults, spares and ageing (file 18): beats that overrun or hang (R34, R35), the checkpoint (R401), unit faults (R403), the
spares (R407 to R414), ERR_CTRL, and ageing (R415 to R418). -/

namespace Sys2Proof.Machine

/-! ### Beats, R33 to R35, R401 -/

/-- R34: a beat that has overrun is charged once to the requests of its round. -/
def overrunCharged (was s : State) (t : Nat) : State :=
  if (getTimer was t).overruns < (getTimer s t).overruns then chargeOverrun s else s

def execBeatEnd (t : Fin 8) (s : State) : Host.Outcome State Fault Refusal := .next (overrunCharged s (beatEnd s t) t)
def execBeatOverrun (t : Fin 8) (s : State) : Host.Outcome State Fault Refusal := .next (overrunCharged s (beatOverrun s t) t)
def execGridHang (t : Fin 8) (s : State) : Host.Outcome State Fault Refusal := .next (gridHang s t)

/-- R401: the checkpoint of the beat that timer 0 runs, once; a replayed beat keeps the one it replays from. -/
def checkpoint (s : State) : State :=
  let t := getTimer s 0
  let due := match s.job.ckpt with
    | none => true
    | some k => decide (k.time < t.start)
  if jobRuns s && t.running && !t.replay && due then takeCheckpoint s else s

def execCheckpoint (s : State) : Host.Outcome State Fault Refusal := .next (checkpoint s)

/-! ### Unit faults, R403, R419, R420 -/

/-- The fault record of the detecting block: a switch input for the codes of R30, an MU word for that of R90; its place there is not
stated by the command (log entry 3). -/
def strikeNote (s : State) (cell : Nat) (code : Status) : State :=
  if code = Code.linkUncorrectable ∨ code = Code.tokenParity then
    let a := choose s (if code = Code.tokenParity then 1 else 2)
    let b := choose a.2 6
    noteGrid b.2 code cell (punit s cell false) (if code = Code.tokenParity then 2 else a.1) b.1
  else if code = Code.muUncorrectable then
    let a := choose s (32 * bankBytes)
    noteMu a.2 code cell (a.1 / bankBytes) a.1 0
  else s

/-- R403, R420: a unit fault, real or injected; during a restore the restore completes first. -/
def strike (s : State) (cell : Nat) (code : Status) (inMu injected : Bool) : State :=
  unitFault (strikeNote (restoreComplete s) cell code) cell code inMu injected

/-- Table 18.1: the codes of unit faults, and whether the unit may be in the MU column. -/
def faultUnit (code : Status) (inMu : Bool) : Bool :=
  if code = Code.muUncorrectable then inMu
  else if code = Code.residueMismatch then true
  else (code == Code.linkUncorrectable || code == Code.tokenParity || code == Code.vecUncorrectable) && !inMu

/-- R385, R378: the parts of the package work: training, READY or a warm reset. -/
def partsOn (s : State) : Bool := diesOn s && (s.boot.stage == 3 || s.boot.stage == 4 || s.boot.stage == 6)

/-- A unit fault, also one that the grid BIST finds at bring-up (Table 17.2). -/
def execUnitFault (cell : Cell) (code : Status) (inMu : Bool) (s : State) : Host.Outcome State Fault Refusal :=
  .next (if partsOn s && faultUnit code inMu then strike s cell code inMu false else s)

/-! ### Near frames, R407 -/

def setRas (s : State) (x : Ras) : State := { s with ras := x }
def modAge (s : State) (r : Nat) (f : AgeReg → AgeReg) : State := setRas s { s.ras with age := s.ras.age.modify r f }

/-- R407: a near frame begins to retire, or its stack's pool is empty. -/
def frameRetired (s : State) (f : Nat) : State :=
  let h := f / stackFrames
  if !partsOn s || decide (nearFrames ≤ f) || s.ras.retiring.contains f then s
  else if nth 0 s.ras.pool h = 0 then noteRas (modAge s (8 + h) fun x => { x with spare := 8 }) Code.retirePoolEmpty (8 + h) f
  else setRas s { s.ras with pool := s.ras.pool.modify h (· - 1), retiring := s.ras.retiring ++ [f] }

def execFrameRetired (f : Nat) (s : State) : Host.Outcome State Fault Refusal := .next (frameRetired s f)

/-- R407, R398: the copy completes: words that could not be corrected are poisoned, and the replacement takes the frame's number. -/
def frameRetireDone (s : State) (f : Nat) (bad : List Nat) : State :=
  if !s.ras.retiring.contains f then s
  else
    let h := f / stackFrames
    let words := (bad.filter fun w => decide (w < 32768)).map fun w => f * 32768 + w
    let s := setRas s { s.ras with retiring := s.ras.retiring.erase f, retired := s.ras.retired.modify h (· + 1) }
    noteRas { s with tiers := { s.tiers with badNear := (s.tiers.badNear ++ words).eraseDups } } Code.frameRetired (8 + h) f

def execFrameRetireComplete (f : Nat) (bad : List Nat) (s : State) : Host.Outcome State Fault Refusal := .next (frameRetireDone s f bad)

/-! ### Vat channels, R408, R409 -/

def getChan (s : State) (c : Nat) : VatCh := nth {} s.ras.chans c
def setChan (s : State) (c : Nat) (x : VatCh) : State := setRas s { s.ras with chans := s.ras.chans.set c x }
def vatRegion (c : Nat) : Nat := 20 + c / 4

/-- The lowest-numbered standby channel. -/
def standby (s : State) : Option Nat := (List.range 96).find? fun c => (getChan s c).st == 1
/-- The standby channel that receives a copy of a channel. -/
def copyOf (s : State) (c : Nat) : Option Nat := (List.range 96).find? fun k => (getChan s k).st == 2 && (getChan s k).src == c

/-- R408: the copy of a channel to a standby begins. -/
def chanReplace (s : State) (c : Nat) : State :=
  if (getChan s c).st ≠ 0 ∨ (copyOf s c).isSome then s
  else match standby s with
    | none => noteRas s Code.vatNoStandby (vatRegion c) c
    | some k => setChan s k ⟨2, (getChan s c).slot, c⟩

def execVatChannelReplace (c : Fin 96) (s : State) : Host.Outcome State Fault Refusal := .next (if partsOn s then chanReplace s c else s)

/-- The operation of ERR_CTRL that runs ends with a status. -/
def errDone (s : State) (op : Nat) (c : Status) : State := if s.ras.busy = op then setRas s { s.ras with busy := 0, ctrlStatus := c } else s

/-- REPLACE of a channel ends. -/
def replaceDone (s : State) (c : Nat) (code : Status) : State := if bits s.ras.ctrl.toNat 21 7 = c then errDone s 4 code else s

/-- R408, R398: the copy completes: VAT_SLOT names the standby channel, and the old channel is retired. -/
def chanReplaced (s : State) (c : Nat) (bad : List Nat) : State :=
  match copyOf s c with
  | none => s
  | some k =>
    let slot := (getChan s c).slot
    let gs := bad.filter fun g => g % 92 == slot && decide (g < vatFrames * 8192)
    let s := setChan (setChan s k ⟨0, slot, 127⟩) c ⟨3, 127, 127⟩
    let s := { s with tiers := { s.tiers with badVat := (s.tiers.badVat ++ gs).eraseDups } }
    replaceDone (noteRas s Code.vatChannelReplaced (vatRegion c) c) c Code.ok

def execVatChannelReplaced (c : Fin 96) (bad : List Nat) (s : State) : Host.Outcome State Fault Refusal := .next (chanReplaced s c bad)

/-- R409: every granule of a slot is poisoned. -/
def slotLost (s : State) (slot : Nat) : State :=
  { s with tiers := { s.tiers with
    lostSlots := if s.tiers.lostSlots.contains slot then s.tiers.lostSlots else s.tiers.lostSlots ++ [slot]
    cured := s.tiers.cured.filter fun g => g % 92 != slot } }

/-- R409: a channel fails outright: a standby, or the one that copies it, takes its slot. One that serves no slot is retired; a copy
to it starts nowhere. Without a standby the channel keeps its slot (log entry 30). Before READY its granules hold nothing yet, and are
zeroed before they are used (Table 17.2). -/
def chanLost (s : State) (c : Nat) : State :=
  let x := getChan s c
  if !partsOn s || x.st == 3 then s
  else if x.st ≠ 0 then replaceDone (noteRas (setChan s c ⟨3, 127, 127⟩) Code.vatChannelLost (vatRegion c) c) x.src Code.vatChannelLost
  else
    let t := match (copyOf s c) <|> standby s with
      | none => s
      | some k => setChan (setChan s k ⟨0, x.slot, 127⟩) c ⟨3, 127, 127⟩
    replaceDone (noteRas (if isReady s then slotLost t x.slot else t) Code.vatChannelLost (vatRegion c) c) c Code.vatChannelLost

def execVatChannelLost (c : Fin 96) (s : State) : Host.Outcome State Fault Refusal := .next (chanLost s c)

/-- R409: a stack fails outright. -/
def stackLost (s : State) (h : Nat) : State :=
  if !partsOn s || s.ras.failedStacks.getLsbD h then s
  else noteRas (setRas s { s.ras with failedStacks := s.ras.failedStacks ||| (1#12 <<< h) }) Code.stackFailed (8 + h) h

def execStackFailed (h : Fin 12) (s : State) : Host.Outcome State Fault Refusal := .next (stackLost s h)

/-! ### Processors and regulators, R410, R411 -/

/-- R410, Table 17.2: a lockstep mismatch, or a test failed at the cold bring-up: the spare takes over, or the logical processor leaves
service; at the bring-up that failure ends it. -/
def processorFault (s : State) (p : Nat) : State :=
  if !(isReady s || (diesOn s && s.boot.stage == 3)) || s.raler.out.contains p then s
  else if !isReady s && s.raler.spareUsed then bringupFailed s 4
  else
    let s := if isReady s then setRas s { s.ras with mismatches := s.ras.mismatches + 1 } else s
    if !s.raler.spareUsed then
      let s := { s with raler := { s.raler with physMap := s.raler.physMap.set p 4, spareUsed := true } }
      chargeInterruption (noteRas s Code.processorReplaced 60 p)
    else
      let ran := (getCtx s (2 * p)).st != 0
      let s := endProgram (endProgram s (2 * p) Code.processorFailed 0) (2 * p + 1) Code.processorFailed 0
      let s := noteRas { s with raler := { s.raler with out := s.raler.out ++ [p] } } Code.processorFailed 60 p
      if ran then raiseJobFault s Code.processorFailed else s

def execProcessorReplaced (rp : Fin 4) (s : State) : Host.Outcome State Fault Refusal := .next (processorFault s rp)

/-- R411: a rail loses a phase; the second loss of a rail starts a warned removal. -/
def phaseLost (s : State) (r : Nat) : State :=
  if !diesOn s then s
  else
    let second := s.ras.rails.contains r
    let s := noteRas (setRas s { s.ras with rails := if s.ras.rails.count r < 2 then s.ras.rails ++ [r] else s.ras.rails }) Code.regPhaseLost 61 r
    if second then removal s false else s

def execRegPhaseLost (rail : Fin 64) (s : State) : Host.Outcome State Fault Refusal := .next (phaseLost s rail)

/-! ### Held spare pairs, R413, R420 -/

def anyHeld (s : State) : Bool := s.dies.any Die.held

/-- R413: the periodic test, once in every 24 powered hours. -/
def spareTestDue (s : State) : State :=
  if !isReady s || decide (poweredHours s < s.ras.testHour + 24) then s
  else setRas s { s.ras with testHour := poweredHours s, testing := s.ras.testing || anyHeld s }

/-- R413: a held pair that has failed its test is no spare. -/
def spareFails (s : State) (d : Nat) (pass : Bool) : State :=
  let x := nth {} s.dies d
  if pass || !x.held then s
  else
    let s := { s with
      dies := s.dies.set d { x with held := false, reason := 2 }
      remapLog := s.remapLog ++ [(d, x.oos, Code.spareTestFailed, poweredHours s)] }
    noteRas s Code.spareTestFailed (4 * d) x.oos

/-- R413, R420: the test ends; unit faults that waited for it are handled. -/
def spareTested (s : State) (pass0 pass1 : Bool) : State :=
  if !s.ras.testing then s
  else
    let bad := (!pass0 && (nth {} s.dies 0).held) || (!pass1 && (nth {} s.dies 1).held)
    let held := s.ras.heldFaults
    let s := spareFails (spareFails s 0 pass0) 1 pass1
    let s := errDone (setRas s { s.ras with testing := false, heldFaults := [] }) 2 (if bad then Code.spareTestFailed else Code.ok)
    held.foldl (fun s f => unitFaultNow s f.1 f.2.1 f.2.2.1 f.2.2.2.1 f.2.2.2.2) s

def execSpareTestComplete (pass0 pass1 : Bool) (s : State) : Host.Outcome State Fault Refusal := .next (spareTested s pass0 pass1)

/-! ### ERR_CTRL, R408, R412, R413, R419 -/

/-- STATUS of an operation that ends at once. -/
def errStatus (s : State) (c : Status) : State := setRas s { s.ras with ctrlStatus := c }

/-- R412: the test of a retired lane begins, on a port that is DOWN or MISWIRED. -/
def laneTest (s : State) (p l : Nat) : State :=
  let x := getPort s p
  if !(x.st == 0 || x.st == 3) || !x.retired.getLsbD l then errStatus s Code.badArgument
  else setRas (setPort s p { x with st := 5, identAt := none }) { s.ras with busy := 1, opAt := s.now }

/-- R412: the 60 s end: a lane with at most 12 bit errors rejoins the port, as its spare where L12 is in service. -/
def laneTested (s : State) (errors : Nat) : State :=
  if s.ras.busy ≠ 1 ∨ s.now < s.ras.opAt + 60000 * ms then s
  else
    let p := bits s.ras.ctrl.toNat 3 3
    let l := bits s.ras.ctrl.toNat 6 4
    let x := getPort s p
    let y := { x with st := 0 }
    if 12 < errors then errDone (setPort s p y) 1 Code.berFail
    else
      let y := { y with retired := x.retired &&& ~~~(1#13 <<< l) }
      errDone (setPort s p (if x.map.contains 12 then { y with spare := l, spareUsed := false } else y)) 1 Code.ok

def execLaneRestoreEnd (errors : Nat) (s : State) : Host.Outcome State Fault Refusal := .next (laneTested s errors)

/-- R413: SPARE_TEST; it joins a test that runs. -/
def spareTestOp (s : State) : State :=
  if anyHeld s then setRas s { s.ras with busy := 2, testing := true } else errStatus s Code.ok

/-- R419: INJECT. -/
def injectOp (s : State) (cell kind : Nat) : State :=
  if s.jobc.st ≠ 1 then errStatus s Code.noJob
  else strike (errStatus s Code.ok) cell (if kind = 0 then Code.residueMismatch else if kind = 1 then Code.linkUncorrectable else Code.muUncorrectable)
    (kind == 2) true

/-- R408: REPLACE, where the channel's ageing entry recommends it. -/
def replaceOp (s : State) (c : Nat) : State :=
  if (getChan s c).st ≠ 0 ∨ (nth {} s.ras.age (vatRegion c)).spare ≠ 3 then errStatus s Code.badArgument
  else
    let t := chanReplace s c
    if (copyOf t c).isSome then setRas t { t.ras with busy := 4 } else errStatus t Code.vatNoStandby

/-- R422, R448: a write of ERR_CTRL: the status it records for the slot, if any. -/
def errCtrlWrite (s : State) (v : Nat) : Option Status × State :=
  let op := bits v 0 3
  let ch := bits v 21 7
  if s.ras.busy ≠ 0 then (some Code.busy, s)
  else if op = 0 ∨ 4 < op then (some Code.badArgument, errStatus s Code.badArgument)
  else if bits v 19 2 = 3 ∨ (op = 1 ∧ 12 < bits v 6 4) ∨ (op = 4 ∧ 96 ≤ ch) then (some Code.badArgument, s)
  else
    let s := setRas s { s.ras with ctrl := BitVec.ofNat 64 (bits v 0 28) }
    (none, match op with
      | 1 => laneTest s (bits v 3 3) (bits v 6 4)
      | 2 => spareTestOp s
      | 3 => injectOp s (bits v 10 9) (bits v 19 2)
      | _ => replaceOp s ch)

/-! ### Tables, R414 -/

/-- R414: an uncorrectable word of a sequence entry: its request ends FAULTED and the entry is free. -/
def seqStruck (s : State) (q : Nat) : State :=
  let e := getSeq s q
  match e.st with
  | 1 => endReq s e.svc e.slot 5 Code.cellarUncorrectable
  | 2 => freeSeq s e.job e.svc q []
  | _ => s

/-- R414: an uncorrectable word of a prefix index entry: lookups miss it. -/
def indexStruck (s : State) (n : Nat) : State :=
  match s.adm.blocks[n]? with
  | none => s
  | some b => settleBlock (modBlock s b.job b.svc b.idx fun b => { b with hash := none }) b.job b.svc b.idx

/-- R414, R320: an uncorrectable word of control memory ends the program that reads it; in the job area it also faults the job. -/
def controlStruck (s : State) (c a : Nat) : State :=
  if (getCtx s c).st = 0 ∨ !cmAllows c a 1 then s
  else
    let s := noteRas (endProgram s c Code.cmUncorrectable 0) Code.cmUncorrectable 0 a
    if a < jobAreaEnd then raiseJobFault s Code.cmUncorrectable else s

def cellarStruck (s : State) (w : TableWord) : State :=
  if !isReady s then s
  else match w with
    | .control c a => controlStruck s c a.toNat
    | .sequence q => noteRas (seqStruck s q) Code.cellarUncorrectable 0 q
    | .indexEntry n => noteRas (indexStruck s n) Code.cellarUncorrectable 0 (n % 2 ^ 32)
    | .request v k => noteRas (endReq s v k 5 Code.cellarUncorrectable) Code.cellarUncorrectable 0 (64 * v + k)

def execCellarUncorrectable (w : TableWord) (s : State) : Host.Outcome State Fault Refusal := .next (cellarStruck s w)

/-! ### Ageing, R415 to R418 -/

/-- R416: the alert of a region, recorded when it is set. -/
def ageAlert (s : State) (r : Nat) : State :=
  let x := nth {} s.ras.age r
  let on := decide (x.eol ≤ s.limits.ageDays) && decide (s.limits.ageConf ≤ x.conf)
  let t := modAge s r fun x => { x with alert := on }
  if on && !x.alert then noteRas t Code.ageingAlert r 0 else t

/-- R418: a quadrant's margin below 20 ps raises its offset, once in 24 powered hours and up to 40 mV. -/
def ageOffset (h : Nat) (metric : BitVec 16) (x : AgeReg) : AgeReg :=
  let due : Bool := match x.raisedAt with
    | none => true
    | some t => decide (t + 24 ≤ h)
  if metric.toInt < 200 ∧ due ∧ x.offset < 40 then { x with offset := x.offset + 5, raisedAt := some h } else x

/-- Table 18.5: the metrics that other state holds. -/
def ageMetric (s : State) (r : Nat) (metric : BitVec 16) : Nat :=
  if 52 ≤ r ∧ r ≤ 59 then nth 0 s.sep.spare (r - 52) else if r = 60 then min 65535 s.ras.mismatches else metric.toNat

/-- R415 to R417: a region's prediction is updated, once in a powered hour. CONFIDENCE is the fused value before 168 hours. -/
def ageing (s : State) (r eol conf spare : Nat) (metric : BitVec 16) : State :=
  let h := poweredHours s
  let x := nth {} s.ras.age r
  if !isReady s || decide (h ≤ x.updated) then s
  else
    let empty := 8 ≤ r ∧ r < 20 ∧ nth 0 s.ras.pool (r - 8) = 0
    let y := { x with
      eol := eol, conf := if baseline s then x.conf else min 100 conf, spare := if empty then 8 else spare
      metric := ageMetric s r metric, updated := h }
    ageAlert (modAge s r fun _ => if r < 8 then ageOffset h metric y else y) r

def execAgeingUpdate (region : Fin 62) (eolDays : BitVec 16) (confidence : BitVec 7) (spare : Fin 9) (metric : BitVec 16) (s : State) :
    Host.Outcome State Fault Refusal := .next (ageing s region eolDays.toNat confidence.toNat spare metric)

/-- A write of AGE_CTRL: every region is judged by the new limits. -/
def ageCtrlWrite (s : State) (v : Nat) : State :=
  (List.range 62).foldl ageAlert { s with limits := { s.limits with ageDays := bits v 0 16, ageConf := bits v 16 7 } }

end Sys2Proof.Machine
end

