-- ==== Sys2Proof/Machine/Regs.lean ====
section
/-! DEFINITION. Writes of the registers of BAR0 and of the doorbell pages, in the order of R445 (R3 to R5, R16, R448), by host slots
and by Raler contexts (R326). -/

namespace Sys2Proof.Machine

/-! ### Which fields a register has, R4, R5 -/

/-- A register that has a writable field: whether it holds an RWO field, and its bits that are not reserved. -/
abbrev RegKind := Option (Bool × Nat)

/-- The register at `o` in a list of kinds, 8 bytes apart. -/
def kindAt (l base stride n : Nat) (ks : List RegKind) : RegKind :=
  (arr l base stride n).bind fun p => if p.2 % 8 = 0 then (ks[p.2 / 8]?).getD none else none

/-- The bits of a register from `lo` upwards. -/
def ones (n : Nat) : Nat := 2 ^ n - 1

/-- A record register: VALID is W1C, and no field is RWO; `n` bits from 0 are not reserved. -/
def recKind (n : Nat) : RegKind := some (false, ones n)

def ownerKind (l : Nat) : RegKind :=
  kindAt l 8 48 1 [some (false, ones 64), some (false, ones 64), some (true, 7), some (false, ones 64), some (true, ones 24),
    some (true, ones 19 + fld 20 (ones 20))] <|>
  kindAt l 0x300 8 1 [some (true, ones 12)]

def ralerKind (l : Nat) : RegKind :=
  kindAt l 0x10 8 1 [recKind 43] <|>
  kindAt l 0x2000 0x20 4 [some (true, ones 23), some (true, 15), none, some (true, ones 32)] <|>
  kindAt l 0x3000 0x40 4 [some (false, fld 19 15), some (false, ones 8)]

def gridKind (l : Nat) : RegKind :=
  kindAt l 0x18 8 1 [some (true, ones 10)] <|> kindAt l 0x2000 8 1 [recKind 42] <|> kindAt l 0x3000 0x40 4 [some (false, ones 11)]

def muKind (l : Nat) : RegKind :=
  kindAt l 0x10 8 1 [some (true, ones 11)] <|> kindAt l 0x20 8 1 [recKind 58] <|> kindAt l 0x3000 0x40 4 [some (false, ones 33)]

def tierKind (l : Nat) : RegKind :=
  kindAt l 0x40 8 1 [recKind 52] <|> kindAt l 0x3000 0x40 4 [some (false, ones 27), none, some (false, ones 11)]

def storeKind (l : Nat) : RegKind :=
  kindAt l 0x10 8 1 [some (true, ones 28)] <|> kindAt l 0x40 8 1 [recKind 56] <|> kindAt l 0x4000 0x40 4 [some (false, ones 14)]

def admKind (l : Nat) : RegKind :=
  kindAt l 0x20 8 1 [recKind 27] <|>
  kindAt l 0x1000 0x40 16 [some (true, ones 12), some (true, ones 64), some (true, ones 41), some (true, ones 41)]

def cellarKind (l : Nat) : RegKind :=
  kindAt l 0x28 16 1 [some (true, ones 18 + fld 32 (ones 16)), recKind 39] <|>
  kindAt l 0x1000 0x40 16 [some (true, ones 47), some (true, ones 32), some (true, ones 49), some (true, ones 48), some (true, ones 48),
    some (true, ones 45)] <|>
  kindAt l 0x3000 0x40 4 [some (false, ones 12)]

def ringKind (l : Nat) : RegKind :=
  kindAt l 8 16 1 [some (true, ones 33), some (true, ones 32)] <|> kindAt l 0x20 8 1 [recKind 48] <|>
  kindAt l 0x400 0x10 32 [some (true, ones 58), some (true, ones 24)] <|>
  kindAt l 0x1000 0x100 8 [none, none, none, none, some (true, ones 64), some (true, 1), none, none, none, none, some (true, ones 31)] <|>
  kindAt l 0x2000 0x10 64 [some (true, ones 61)] <|>
  kindAt l 0x2800 8 64 [some (true, ones 17 + fld 32 (ones 21))] <|>
  kindAt l 0x3000 0x40 4 [some (false, ones 8)]

def faultKind (l : Nat) : RegKind :=
  kindAt l 8 8 1 [recKind 42] <|> kindAt l 0x20 8 1 [some (false, ones 23 + fld 32 (ones 32))] <|>
  kindAt l 0x48 16 1 [some (true, ones 23), some (true, ones 28 + fld 32 (ones 17))]

/-- The kind of a register of BAR0. -/
def regKind (off : Nat) : RegKind :=
  let l := off % 0x100000
  match off / 0x100000 with
  | 1 => ownerKind l
  | 2 => ralerKind l
  | 3 => kindAt l 0x20 16 1 [some (true, ones 13), recKind 61]
  | 4 => gridKind l
  | 5 => muKind l
  | 6 => tierKind l
  | 7 => storeKind l
  | 8 => admKind l
  | 9 => cellarKind l
  | 10 => kindAt l 0x18 16 1 [some (true, ones 13), recKind 61]
  | 11 => ringKind l
  | 12 => kindAt l 0x40 8 1 [recKind 20]
  | 13 => faultKind l
  | 14 => kindAt l 0x10 16 1 [some (false, 15), some (true, 1)]
  | _ => none

/-! ### What a write does, by block: the status that the register's own chapter records, if any, and the state -/

/-- A write that a stated range lets through (R448). -/
def inRange (v lo hi : Nat) (s t : State) : Option Status × State :=
  if lo ≤ v ∧ v ≤ hi then (none, t) else (some Code.badArgument, s)

def setLimits (s : State) (x : Limits) : State := { s with limits := x }
def setRecs (s : State) (r : Records) : State := { s with recs := r }

/-- The block at 0x0010_0000. -/
def wrOwner (s : State) (n l v : Nat) : Option Status × State :=
  let w := BitVec.ofNat 64 v
  match l with
  | 0x08 => ownClaim s n w
  | 0x10 => ownHeartbeat s n w
  | 0x18 => ownHandover s (bit v 0) (bits v 1 2)
  | 0x20 => ownRelease s n w
  | 0x28 => jobCtrlWrite s v
  | 0x30 => (none, { s with jobc := { s.jobc with resNear := bits v 0 19, resVat := bits v 20 20 } })
  | _ => (none, { s with tiers := { s.tiers with aperture := bits v 0 12 } })

/-- Table 14.10: whether a program queue's ring may lie at `base` with `size`. -/
def pqOk (base size : Nat) : Bool :=
  decide (4 ≤ size) && decide (size ≤ 10) && base % (32 * 2 ^ size) == 0 && decide (jobAreaEnd ≤ base) && decide (base + 32 * 2 ^ size ≤ cmEnd)

/-- A write of PQ_BASE or PQ_SIZE: only while PQ_HEAD equals PQ_TAIL. -/
def pqPlace (s : State) (q base size : Nat) : Option Status × State :=
  let p := getPq s q
  if p.head = p.tail ∧ pqOk base size then (none, setPq s q { p with base := base, size := size, begun := [], ended := [] })
  else (some Code.badArgument, s)

/-- The block at 0x0020_0000. -/
def wrRaler (s : State) (l v : Nat) : Option Status × State :=
  let q := (l - 0x2000) / 0x20
  let h := (l - 0x3000) / 0x40
  if l = 0x10 then (none, setRecs s { s.recs with ral := recClear s.recs.ral (BitVec.ofNat 64 v) })
  else if l < 0x3000 then
    if l % 0x20 = 0 then pqPlace s q v (getPq s q).size
    else if l % 0x20 = 8 then pqPlace s q (getPq s q).base v
    else pqTailWrite s q (BitVec.ofNat 32 v)
  else (none, setHost s h (if l % 0x40 = 0 then { getHost s h with cmBase := v } else { getHost s h with rxSel := v }))

/-- The blocks at 0x0030_0000 to 0x0070_0000. -/
def wrConfig (s : State) (l v : Nat) : Option Status × State :=
  if l = 0x20 then inRange v 20 5000 s (setLimits s { s.limits with swapUs := v })
  else (none, setRecs s { s.recs with cfg := recClear s.recs.cfg (BitVec.ofNat 64 v) })

def wrGrid (s : State) (l v : Nat) : Option Status × State :=
  let h := (l - 0x3000) / 0x40
  if l = 0x18 then inRange v 20 1000 s (setLimits s { s.limits with hangUs := v })
  else if l = 0x2000 then (none, setRecs s { s.recs with grid := recClear s.recs.grid (BitVec.ofNat 64 v) })
  else inRange (bits v 9 2) 0 2 s (setHost s h { getHost s h with swSel := v })

def wrMu (s : State) (l v : Nat) : Option Status × State :=
  let h := (l - 0x3000) / 0x40
  if l = 0x10 then inRange v 100 2000 s (setLimits s { s.limits with closeUs := v })
  else if l = 0x20 then (none, setRecs s { s.recs with mu := recClear s.recs.mu (BitVec.ofNat 64 v) })
  else (none, setHost s h { getHost s h with muSel := v })

def wrTiers (s : State) (l v : Nat) : Option Status × State :=
  let h := (l - 0x3000) / 0x40
  if l = 0x40 then (none, setRecs s { s.recs with str := recClear s.recs.str (BitVec.ofNat 64 v) })
  else (none, setHost s h (if l % 0x40 = 0 then { getHost s h with pgSel := v } else { getHost s h with strSel := v }))

def wrStore (s : State) (l v : Nat) : Option Status × State :=
  let h := (l - 0x4000) / 0x40
  if l = 0x10 then inRange v 0 134217727 s (setLimits s { s.limits with spill := v })
  else if l = 0x40 then (none, setRecs s { s.recs with sep := recClear s.recs.sep (BitVec.ofNat 64 v) })
  else (none, setHost s h { getHost s h with dirSel := v })

/-- R231: a configuration field of a service. -/
def svcWrite (s : State) (n : Nat) (ok : Bool) (x : Service) : Option Status × State :=
  if svcLocked s n then (some Code.busy, s) else if ok then (none, setSvc s n x) else (some Code.badArgument, s)

/-- The block at 0x0080_0000. -/
def wrAdm (s : State) (l v : Nat) : Option Status × State :=
  let w := BitVec.ofNat 64 v
  let n := (l - 0x1000) / 0x40
  let x := getSvc s n
  if l = 0x20 then (none, setRecs s { s.recs with adm := recClear s.recs.adm w })
  else match l % 0x40 with
    | 0 => svcWrite s n true { x with cfg := w }
    | 8 => svcWrite s n true { x with timing := w }
    | 16 => svcWrite s n (decide (bits v 34 7 ≤ 64)) { x with kv := w }
    | _ => svcCtrlWrite s n w

/-- R257: VOCAB and MASK_FMT of CS_SKM. -/
def skmOk (v : Nat) : Bool := decide (1 ≤ bits v 0 19) && decide (bits v 0 19 ≤ 262144) && [0, 1, 4].contains (bits v 42 3)

/-- The block at 0x0090_0000. -/
def wrCellar (s : State) (l v : Nat) : Option Status × State :=
  let w := BitVec.ofNat 64 v
  let n := (l - 0x1000) / 0x40
  let x := getSvc s n
  if l = 0x28 then celCmdWrite s w
  else if l = 0x30 then (none, setRecs s { s.recs with cel := recClear s.recs.cel w })
  else if 0x3000 ≤ l then let h := (l - 0x3000) / 0x40; (none, setHost s h { getHost s h with seqSel := v })
  else match l % 0x40 with
    | 0 => poolWrite s n w
    | 8 => kvAreaWrite s n w
    | 16 => svcWrite s n true { x with logit := w }
    | 24 => svcWrite s n true { x with slotmap := w }
    | 32 => svcWrite s n true { x with token := w }
    | _ => svcWrite s n (skmOk v) { x with skm := w }

/-- R317: a register of the plan that RING_PLAN puts in force. -/
def planStage (s : State) (p : Plan) : Option Status × State := (none, setRing s { s.ring with plan := p })

/-- R448: PARTITION and DIR of PT_CFG, RATE and BURST of PT_RATE have values that Table 13.6 gives them. -/
def ptCfgOk (v : Nat) : Bool := bits v 0 8 != 0 && (List.range 4).all fun a => bits v (9 + 2 * a) 2 != 3
def ptRateOk (v : Nat) : Bool := decide (1 ≤ bits v 0 12) && decide (bits v 0 12 ≤ 2950) && bits v 12 12 != 0

/-- R317, R448: a write of PT_CFG or PT_RATE of entry `i`. -/
def ptWrite (s : State) (i : Nat) (rate : Bool) (v : Nat) : Option Status × State :=
  let p := s.ring.plan
  let e := nth {} p.pts i
  let w := BitVec.ofNat 64 v
  if !(if rate then ptRateOk v else ptCfgOk v) then (some Code.badArgument, s)
  else planStage s { p with pts := p.pts.set i (if rate then { e with rate := w } else { e with cfg := w &&& 0x1FFFFFFFFFFFF }) }

/-- R304: WDONE of a window slot; a token may be due at once. -/
def wdWrite (s : State) (w v : Nat) : State :=
  let x := getWin s w
  wdCheck (setWin s w { x with wd := { x.wd with enable := bit v 0, senders := bits v 1 8, token := bits v 9 8 } }) w

/-- The block at 0x00B0_0000. -/
def wrRing (s : State) (l v : Nat) : Option Status × State :=
  let w := BitVec.ofNat 64 v
  let p := s.ring.plan
  let port := (l - 0x1000) / 0x100
  if l = 8 then planWrite s v
  else if l = 0x10 then planStage s { p with id := BitVec.ofNat 32 v }
  else if l = 0x20 then (none, setRecs s { s.recs with mil := recClear s.recs.mil w })
  else if l < 0x1000 then ptWrite s ((l - 0x400) / 0x10) (l % 0x10 == 8) v
  else if l < 0x2000 then
    if l % 0x100 = 0x20 then planStage s { p with expSerial := p.expSerial.set port w }
    else if l % 0x100 = 0x28 then planStage s { p with expCheck := p.expCheck.set port (bit v 0) }
    else berWrite s port v
  else if l < 0x2800 then
    let r := senderWrite s ((l - 0x2000) / 0x10) w
    (if r.1 = Code.ok then none else some r.1, r.2)
  else if l < 0x3000 then (none, wdWrite s ((l - 0x2800) / 8) v)
  else let h := (l - 0x3000) / 0x40; (none, setHost s h { getHost s h with rgSel := v })

/-- The block at 0x00D0_0000. -/
def wrFaults (s : State) (l v : Nat) : Option Status × State :=
  let w := BitVec.ofNat 64 v
  match l with
  | 0x08 => (none, setRecs s { s.recs with unit := recClear s.recs.unit w })
  | 0x20 => (none, setRecs s { s.recs with ras := recClear s.recs.ras w })
  | 0x48 => (none, ageCtrlWrite s v)
  | _ => errCtrlWrite s v

/-- The block at 0x00E0_0000. -/
def wrPanel (s : State) (l v : Nat) : Option Status × State :=
  if l = 0x10 then (none, { s with panel := { s.panel with events := s.panel.events &&& ~~~BitVec.ofNat 4 v } })
  else (none, { s with panel := { s.panel with locate := bit v 0 } })

/-- A write of `v`, reserved bits taken as zero, to a register that has a writable field, from slot `n`. -/
def regDo (s : State) (n off v : Nat) : Option Status × State :=
  let l := off % 0x100000
  match off / 0x100000 with
  | 1 => wrOwner s n l v
  | 2 => wrRaler s l v
  | 3 => wrConfig s l v
  | 4 => wrGrid s l v
  | 5 => wrMu s l v
  | 6 => wrTiers s l v
  | 7 => wrStore s l v
  | 8 => wrAdm s l v
  | 9 => wrCellar s l v
  | 10 =>
    if l = 0x18 then inRange v 20 5000 s (setLimits s { s.limits with halfUs := v })
    else (none, setRecs s { s.recs with lad := recClear s.recs.lad (BitVec.ofNat 64 v) })
  | 11 => wrRing s l v
  | 12 => (none, setRecs s { s.recs with pt := recClear s.recs.pt (BitVec.ofNat 64 v) })
  | 13 => wrFaults s l v
  | _ => wrPanel s l v

/-! ### The order of R445 -/

/-- R445, rule 7: the rest of a write that set a reserved bit has taken effect. -/
def reservedNote (r : Option Status × State) (v mask : Nat) : Option Status × State :=
  match r.1 with
  | some c => (some c, r.2)
  | none => (if v &&& mask = v then none else some Code.reservedSet, r.2)

/-- R445, rules 3 to 7: a write of 64 bits to a register of BAR0, with or without the owner's rights: the status it records, if any. -/
def regWrite (s : State) (n : Nat) (own : Bool) (off v : Nat) : Option Status × State :=
  match regAt s true off with
  | none => (some Code.badArgument, s)
  | some _ =>
    match regKind off with
    | none => (none, s)
    | some k => if k.1 && !own then (some Code.notOwner, s) else reservedNote (regDo s n off (v &&& k.2)) v k.2

/-- R3: a naturally aligned 64-bit access, its width in bytes. -/
def wide (off width : Nat) : Bool := width == 8 && off % 8 == 0

/-- R337: the control memory aperture. -/
def inAperture (off : Nat) : Bool := decide (0x280000 ≤ off) && decide (off < 0x300000)
def apertureAddr (s : State) (n off : Nat) : Nat := (getHost s n).cmBase + (off - 0x280000)

/-- R445: a host write to BAR0. -/
def bar0Write (s : State) (n off width v : Nat) : Option Status × State :=
  if !isReady s then (some Code.busy, s)
  else if !wide off width then (some Code.accessWidth, s)
  else if inAperture off then
    if isOwner s n then (none, cmWrite s (apertureAddr s n off) (leBytes 8 v)) else (some Code.notOwner, s)
  else regWrite s n (isOwner s n) off v

/-! ### Doorbell pages, R346 to R349 -/

/-- R346: the widths and alignments that a write within a page may have, in bytes. -/
def pageWide (o width : Nat) : Bool :=
  if 0x800 ≤ o then decide (4 ≤ width) && width % 4 == 0 && o % 4 == 0 && decide (o % 64 + width ≤ 64)
  else if 0x400 ≤ o ∨ (0x70 ≤ o ∧ o < 0x78) then (width == 4 || width == 8) && o % width == 0
  else wide o width

/-- R346: the widths and alignments that a read within a page may have. -/
def pageReadWide (o width : Nat) : Bool :=
  (width == 8 && o % 8 == 0) || (width == 4 && o % 4 == 0)

/-- The kind of a register of a doorbell page, Table 15.5; the outer none is an unassigned offset. -/
def pageKind (o : Nat) : Option RegKind :=
  if o % 8 ≠ 0 then none
  else [some (true, ones 32), some (true, ones 32), some (true, ones 32), some (true, ones 32), some (true, ones 23), some (true, ones 32), none,
    some (false, ones 64), some (false, ones 6), none, some (false, ones 32), none, some (false, ones 64), none, none][o / 8]?

/-- R347: a write of RQ_TAIL. -/
def rqTailWrite (s : State) (n : Nat) (tail : BitVec 32) : Option Status × State :=
  let head := BitVec.ofNat 32 (rqHead s n)
  let old := BitVec.ofNat 32 (rqTailWord s n)
  if !jobOn s then (some Code.noJob, s)
  else if 32 < (tail - head).toNat then (some Code.badArgument, s)
  else
    let h := getHost s n
    let s := cmWrite (setHost s n { h with rqTail := tail }) (h.rqBase + 4) (leBytes 4 tail.toNat)
    (none, if old = head ∧ tail ≠ head then raiseAll s jobCtxs 4 (evRecord Code.ok 0 n) else s)

/-- A write of a register of slot `n`'s page, reserved bits taken as zero. -/
def pageDo (s : State) (n o v : Nat) : Option Status × State :=
  let h := getHost s n
  match o with
  | 0x20 => if v % 64 ≠ 0 ∨ jobAreaEnd < v + 2112 then (some Code.badArgument, s) else (none, setHost s n { h with rqBase := v })
  | 0x28 => rqTailWrite s n (BitVec.ofNat 32 v)
  | 0x38 => if v % 64 ≠ 0 then (some Code.badArgument, s) else (none, setHost s n { h with crAddr := BitVec.ofNat 64 v })
  | 0x40 =>
    if bits v 1 5 < 6 ∨ 16 < bits v 1 5 then (some Code.badArgument, s)
    else (none, setHost s n (crFill s.now { h with crEnable := bit v 0, crLog2 := bits v 1 5 }))
  | 0x50 => (none, setHost s n (crFill s.now { h with crHead := BitVec.ofNat 32 v }))
  | 0x60 => (none, setHost s n { h with intEn := BitVec.ofNat 64 v ||| 1 })
  | _ => pqTailWrite s (o / 8) (BitVec.ofNat 32 v)

/-- R350: the mask bit of an MSI-X entry, which is kept inverted, so that the table that nothing has written masks every vector. -/
def msixFlip (a : Nat) (b : Byte) : Byte := if a % 16 = 12 then b ^^^ 1 else b

/-- R346, R350: a write of the MSI-X table; a pending vector that it unmasks is sent. -/
def msixWrite (s : State) (n a : Nat) (data : List Byte) : State :=
  let h := getHost s n
  let bs := data.zipIdx.map fun b => msixFlip (a + b.2) b.1
  let h := { h with msix := Mem.writeN h.msix a bs }
  setHost s n ((List.range 12).foldl (msixSend s.now) h)

/-- R346, R347: a write of the request ring window. -/
def windowWrite (s : State) (n a : Nat) (data : List Byte) : Option Status × State :=
  if !isOwner s n then (some Code.notOwner, s)
  else if !jobOn s then (some Code.noJob, s)
  else (none, cmWrite s ((getHost s n).rqBase + 64 + a) data)

/-- R445, R346: a host write to BAR2. -/
def bar2Write (s : State) (n off : Nat) (data : List Byte) : Option Status × State :=
  let o := off % 0x1000
  let v := leNat data
  if !isReady s then (some Code.busy, s)
  else if !pageWide o data.length then (some Code.accessWidth, s)
  else if off / 0x1000 ≠ n then (some Code.badArgument, s)
  else if 0x800 ≤ o then windowWrite s n (o - 0x800) data
  else if 0x400 ≤ o then (none, msixWrite s n (o - 0x400) data)
  else if 0x70 ≤ o ∧ o < 0x78 then (none, s)
  else match pageKind o with
    | none => (some Code.badArgument, s)
    | some none => (none, s)
    | some (some k) =>
      if k.1 && !isOwner s n then (some Code.notOwner, s) else reservedNote (pageDo s n o (v &&& k.2)) v k.2

/-! ### Accesses of Raler contexts, R326 -/

/-- R326: REG_STATUS of a context. -/
def setRegStatus (s : State) (c : Nat) (code : Status) : State := setCtx s c { getCtx s c with regStatus := code }

/-- R326: RDREG. -/
def ctxRead (s : State) (c rd off : Nat) : State :=
  if off % 8 ≠ 0 then programFault s c Code.misaligned
  else if inAperture off then setRegStatus (putReg s c rd 0) c Code.badArgument
  else
    let t := if 0x503000 ≤ off ∧ off < 0x503100 ∧ off % 0x40 = 0x20 then (peekThrough s ((off - 0x503000) / 0x40)).2 else s
    setRegStatus (putReg t c rd (BitVec.ofNat 64 ((regAt s true off).getD 0))) c Code.ok

/-- R326: WRREG. -/
def ctxWrite (s : State) (c off v : Nat) : State :=
  if off % 8 ≠ 0 then programFault s c Code.misaligned
  else if off / 0x100000 = 1 ∨ (c % 2 = 0 ∧ (off < 0x300000 ∨ 0xB10000 ≤ off)) then programFault s c Code.privileged
  else if inAperture off then setRegStatus s c Code.badArgument
  else
    let r := regWrite s 0 true off v
    setRegStatus r.2 c (r.1.getD Code.ok)

def execRdreg (c : Ctx) (rd rs1 : GReg) (x : Bool) (imm : BitVec 47) (s : State) : Host.Outcome State Fault Refusal :=
  .next (runInstr s c (encI 0x20 rd rs1 x imm) fun t => ctxRead t c rd (effAddr t c rs1 imm))

def execWrreg (c : Ctx) (rs rs1 : GReg) (x : Bool) (imm : BitVec 47) (s : State) : Host.Outcome State Fault Refusal :=
  .next (runInstr s c (encI 0x21 rs rs1 x imm) fun t => ctxWrite t c (effAddr t c rs1 imm) (gnat t c rs))

end Sys2Proof.Machine
end

