-- ==== Sys2Proof/Machine/Host.lean ====
section
/-! DEFINITION. The commands that a host slot gives by an access to BAR0 or BAR2 (R3, R445), each at its register's offset. -/

namespace Sys2Proof.Machine

/-- R15: an access of `width` bytes lies in BAR0, 64 MiB, or in BAR2, 16 KiB; one that does not reaches no BAR. -/
def inBar (bar2 : Bool) (off width : Nat) : Bool := decide (off + width ≤ if bar2 then 0x4000 else 0x4000000)

/-- A host write of `width` bytes to BAR0, or to BAR2. A slot whose link is down makes no access; what has expired is settled first
(R340). -/
def hostWrite (s : State) (n : Nat) (bar2 : Bool) (off width v : Nat) : State :=
  let t := ownSettle s
  if !(getHost t n).present || !inBar bar2 off width then s
  else if bar2 then slotNote (bar2Write t n off (leBytes width v)) n 1 off
  else slotNote (bar0Write t n off width v) n 0 off

/-- A 64-bit write to BAR0. -/
def hostReg (s : State) (n off v : Nat) : Host.Outcome State Fault Refusal := .next (hostWrite s n false off 8 v)

def execHostRegisterWrite (slot : Slot) (bar2 : Bool) (off width v : Nat) (s : State) : Host.Outcome State Fault Refusal :=
  .next (hostWrite s slot bar2 off width v)

/-- R3, R346, R387: a read of another width or alignment than 64 or 32 bits returns zero; from READY on it is recorded. -/
def hostReadBad (s : State) (n : Nat) (bar2 : Bool) (off width : Nat) : State :=
  let h := getHost s n
  if !h.present || !inBar bar2 off width || pageReadWide off width then s
  else
    let t := setHost s n { h with resp := List.replicate width 0 }
    if isReady s then slotErr t n Code.accessWidth (if bar2 then 1 else 0) off else t

def execHostRegisterReadBadWidth (slot : Slot) (bar2 : Bool) (off width : Nat) (s : State) : Host.Outcome State Fault Refusal :=
  .next (hostReadBad s slot bar2 off width)

/-! ### Admission and the Cellar -/

def execSvcOpen (slot : Slot) (v : Svc) (reopenMs : BitVec 40) (s : State) : Host.Outcome State Fault Refusal :=
  hostReg s slot (0x801018 + 0x40 * v) (1 + fld 1 reopenMs.toNat)

def execSvcClose (slot : Slot) (v : Svc) (reopenMs : BitVec 40) (s : State) : Host.Outcome State Fault Refusal :=
  hostReg s slot (0x801018 + 0x40 * v) (fld 1 reopenMs.toNat)

def execRelease (slot : Slot) (seq : Fin 4096) (s : State) : Host.Outcome State Fault Refusal := hostReg s slot 0x900028 (1 + fld 2 seq)

def execDropPrefix (slot : Slot) (v : Svc) (s : State) : Host.Outcome State Fault Refusal := hostReg s slot 0x900028 (2 + fld 14 v)

def execCsKvareaWrite (slot : Slot) (v : Svc) (value : Word) (s : State) : Host.Outcome State Fault Refusal :=
  hostReg s slot (0x901008 + 0x40 * v) value.toNat

def execCsPoolWrite (slot : Slot) (v : Svc) (value : Word) (s : State) : Host.Outcome State Fault Refusal :=
  hostReg s slot (0x901000 + 0x40 * v) value.toNat

/-! ### The ring -/

def execPlanLoad (slot : Slot) (value : Word) (s : State) : Host.Outcome State Fault Refusal := hostReg s slot 0xB00008 value.toNat

def execBerTestStart (slot : Slot) (p : Port) (value : Word) (s : State) : Host.Outcome State Fault Refusal :=
  hostReg s slot (0xB01050 + 0x100 * p) value.toNat

/-! ### Program queues, rings and the aperture -/

/-- R322, R348: PQ_TAIL, by its register of BAR0 or a doorbell page. -/
def execProgramQueueTailWrite (slot : Slot) (page : Option Slot) (q : Fin 4) (tail : BitVec 32) (s : State) : Host.Outcome State Fault Refusal :=
  match page with
  | none => hostReg s slot (0x202018 + 0x20 * q) tail.toNat
  | some p => .next (hostWrite s slot true (0x1000 * p + 8 * q) 8 tail.toNat)

def execRqTailWrite (slot page : Slot) (tail : BitVec 32) (s : State) : Host.Outcome State Fault Refusal :=
  .next (hostWrite s slot true (0x1000 * page + 0x28) 8 tail.toNat)

/-- A write to a page's request ring window, `offset` bytes into it. -/
def execRequestRingWrite (slot page : Slot) (offset : Nat) (data : List Byte) (s : State) : Host.Outcome State Fault Refusal :=
  .next (hostWrite s slot true (0x1000 * page + 0x800 + offset % 0x800) data.length (leNat data))

def execCrHeadWrite (slot page : Slot) (head : BitVec 32) (s : State) : Host.Outcome State Fault Refusal :=
  .next (hostWrite s slot true (0x1000 * page + 0x50) 8 head.toNat)

/-- R337: a read through the control memory aperture: zero for any slot but the owner. -/
def cmApertureRead (s : State) (n off width : Nat) : State :=
  let t := ownSettle s
  let h := getHost t n
  if !h.present then s
  else if !pageReadWide off width then hostReadBad t n false off width
  else setHost t n { h with resp := if isReady t && isOwner t n then cmRead t (apertureAddr t n off) width else List.replicate width 0 }

/-- R337: an access `offset` bytes into the control memory aperture. -/
def execControlMemoryApertureAccess (slot : Slot) (write : Bool) (offset width value : Nat) (s : State) : Host.Outcome State Fault Refusal :=
  let off := 0x280000 + offset % 0x80000
  .next (if write then hostWrite s slot false off width value else cmApertureRead s slot off width)

/-! ### Ownership and jobs -/

def execOwnClaim (slot : Slot) (nonce : Word) (s : State) : Host.Outcome State Fault Refusal := hostReg s slot 0x100008 nonce.toNat
def execOwnHeartbeat (slot : Slot) (nonce : Word) (s : State) : Host.Outcome State Fault Refusal := hostReg s slot 0x100010 nonce.toNat
def execOwnRelease (slot : Slot) (nonce : Word) (s : State) : Host.Outcome State Fault Refusal := hostReg s slot 0x100020 nonce.toNat

def execOwnHandover (slot : Slot) (valid : Bool) (target : Slot) (s : State) : Host.Outcome State Fault Refusal :=
  hostReg s slot 0x100018 (flg 0 valid + fld 1 target)

def execJobStart (slot : Slot) (jobId : BitVec 16) (ptEntry : Fin 32) (noRing : Bool) (s : State) : Host.Outcome State Fault Refusal :=
  hostReg s slot 0x100028 (1 + fld 2 jobId.toNat + fld 18 ptEntry + flg 23 noRing)

def execJobEnd (slot : Slot) (jobId : BitVec 16) (s : State) : Host.Outcome State Fault Refusal :=
  hostReg s slot 0x100028 (2 + fld 2 jobId.toNat)

/-! ### Faults, spares and the panel -/

def execLaneRestore (slot : Slot) (p : Port) (lane : Fin 13) (s : State) : Host.Outcome State Fault Refusal :=
  hostReg s slot 0xD00050 (1 + fld 3 p + fld 6 lane)

/-- R413: SPARE_TEST written, or due. -/
def execSpareTest (slot : Option Slot) (s : State) : Host.Outcome State Fault Refusal :=
  match slot with
  | some n => hostReg s n 0xD00050 2
  | none => .next (spareTestDue s)

def execInject (slot : Slot) (cell : Cell) (kind : Fin 4) (s : State) : Host.Outcome State Fault Refusal :=
  hostReg s slot 0xD00050 (3 + fld 10 cell + fld 19 kind)

def execReplace (slot : Slot) (channel : Fin 128) (s : State) : Host.Outcome State Fault Refusal :=
  hostReg s slot 0xD00050 (4 + fld 21 channel)

/-- R436, R441: LOCATE of PANEL_LOCATE by a slot, or of MG_PANEL. -/
def execLocate (slot : Option Slot) (on : Bool) (s : State) : Host.Outcome State Fault Refusal :=
  match slot with
  | some n => hostReg s n 0xE00018 (flg 0 on)
  | none => .next (if s.boot.powered then mgPanelWrite s (flg 0 on) else s)

end Sys2Proof.Machine
end

