-- ==== Sys2Proof/Machine/Dispatch.lean ====
section
/-! DEFINITION. The meaning of each command: one direct call per constructor of Instr. -/

namespace Sys2Proof.Machine

def exec (i : Instr) (s : State) : Host.Outcome State Fault Refusal :=
  match i with
  | .hostRegisterWrite slot bar2 offset width value => Sys2Proof.Machine.execHostRegisterWrite slot bar2 offset width value s
  | .hostRegisterReadBadWidth slot bar2 offset width => Sys2Proof.Machine.execHostRegisterReadBadWidth slot bar2 offset width s
  | .linkEntryReceive cell net port check => Sys2Proof.Machine.execLinkEntryReceive cell net port check s
  | .beatBegin timer => Sys2Proof.Machine.execBeatBegin timer s
  | .beatEnd timer => Sys2Proof.Machine.execBeatEnd timer s
  | .beatOverrun timer => Sys2Proof.Machine.execBeatOverrun timer s
  | .gridHang timer => Sys2Proof.Machine.execGridHang timer s
  | .matrixTileComplete cell upsetElem upset => Sys2Proof.Machine.execMatrixTileComplete cell upsetElem upset s
  | .tileDrain cell => Sys2Proof.Machine.execTileDrain cell s
  | .bPanelLoad cell => Sys2Proof.Machine.execBPanelLoad cell s
  | .vectorRowEnter cell check => Sys2Proof.Machine.execVectorRowEnter cell check s
  | .tileEndCommit cell check => Sys2Proof.Machine.execTileEndCommit cell check s
  | .muGeneratorAccess cell write check => Sys2Proof.Machine.execMuGeneratorAccess cell write check s
  | .flipRequest cell => Sys2Proof.Machine.execFlipRequest cell s
  | .flipTakeEffect cell => Sys2Proof.Machine.execFlipTakeEffect cell s
  | .windowCloseComplete w => Sys2Proof.Machine.execWindowCloseComplete w s
  | .closeTimeout w => Sys2Proof.Machine.execCloseTimeout w s
  | .bankZeroDone cell bank => Sys2Proof.Machine.execBankZeroDone cell bank s
  | .bankWake cell bank => Sys2Proof.Machine.execBankWake cell bank s
  | .muPeek slot => Sys2Proof.Machine.execMuPeek slot s
  | .steerFire cell su => Sys2Proof.Machine.execSteerFire cell su s
  | .registrationComplete img => Sys2Proof.Machine.execRegistrationComplete img s
  | .shadowLoadComplete => Sys2Proof.Machine.execShadowLoadComplete s
  | .switchTokenInject => Sys2Proof.Machine.execSwitchTokenInject s
  | .switchTokenArrive cell side parityBad => Sys2Proof.Machine.execSwitchTokenArrive cell side parityBad s
  | .cellCommit cell => Sys2Proof.Machine.execCellCommit cell s
  | .waveComplete => Sys2Proof.Machine.execWaveComplete s
  | .swapStalled => Sys2Proof.Machine.execSwapStalled s
  | .pageMoveComplete page => Sys2Proof.Machine.execPageMoveComplete page s
  | .frameZeroDone vat frame => Sys2Proof.Machine.execFrameZeroDone vat frame s
  | .streamTransferStart d => Sys2Proof.Machine.execStreamTransferStart d s
  | .streamTransferComplete d => Sys2Proof.Machine.execStreamTransferComplete d s
  | .streamHaltedAbsent d => Sys2Proof.Machine.execStreamHaltedAbsent d s
  | .tierUncorrectable sched index addr => Sys2Proof.Machine.execTierUncorrectable sched index addr s
  | .prefetchLate entry => Sys2Proof.Machine.execPrefetchLate entry s
  | .sepCommandStart turn => Sys2Proof.Machine.execSepCommandStart turn s
  | .sepCommandComplete urgent => Sys2Proof.Machine.execSepCommandComplete urgent s
  | .sepPack ph => Sys2Proof.Machine.execSepPack ph s
  | .sepLoad ph => Sys2Proof.Machine.execSepLoad ph s
  | .sepSpill ph => Sys2Proof.Machine.execSepSpill ph s
  | .sepRestore ph => Sys2Proof.Machine.execSepRestore ph s
  | .sepDelete ph => Sys2Proof.Machine.execSepDelete ph s
  | .sepPublish ph => Sys2Proof.Machine.execSepPublish ph s
  | .sepDrop ph => Sys2Proof.Machine.execSepDrop ph s
  | .storeScrub nand => Sys2Proof.Machine.execStoreScrub nand s
  | .svcOpen slot svc reopenMs => Sys2Proof.Machine.execSvcOpen slot svc reopenMs s
  | .svcClose slot svc reopenMs => Sys2Proof.Machine.execSvcClose slot svc reopenMs s
  | .roundEnd svc => Sys2Proof.Machine.execRoundEnd svc s
  | .promiseBroken svc k => Sys2Proof.Machine.execPromiseBroken svc k s
  | .requestCompletion svc k => Sys2Proof.Machine.execRequestCompletion svc k s
  | .blockCopyComplete copy => Sys2Proof.Machine.execBlockCopyComplete copy s
  | .slotMapRearm svc k which => Sys2Proof.Machine.execSlotMapRearm svc k which s
  | .release slot seq => Sys2Proof.Machine.execRelease slot seq s
  | .dropPrefix slot svc => Sys2Proof.Machine.execDropPrefix slot svc s
  | .csKvareaWrite slot svc value => Sys2Proof.Machine.execCsKvareaWrite slot svc value s
  | .csPoolWrite slot svc value => Sys2Proof.Machine.execCsPoolWrite slot svc value s
  | .ladleRowSend d => Sys2Proof.Machine.execLadleRowSend d s
  | .ladleRow rx win gen offset tag data => Sys2Proof.Machine.execLadleRow rx win gen offset tag data s
  | .ladleAnswerSend c => Sys2Proof.Machine.execLadleAnswerSend c s
  | .ladleAnswer rx win gen offset epoch aslot data => Sys2Proof.Machine.execLadleAnswer rx win gen offset epoch aslot data s
  | .ladleStalled collector index => Sys2Proof.Machine.execLadleStalled collector index s
  | .portTrained p lanesOk => Sys2Proof.Machine.execPortTrained p lanesOk s
  | .frameTransmit p part data => Sys2Proof.Machine.execFrameTransmit p part data s
  | .crcFailure p malformed => Sys2Proof.Machine.execCrcFailure p malformed s
  | .transitFrame p lseq f => Sys2Proof.Machine.execTransitFrame p lseq f s
  | .wreq rx win gen n epoch => Sys2Proof.Machine.execWreq rx win gen n epoch s
  | .wgrant rx win gen g status => Sys2Proof.Machine.execWgrant rx win gen g status s
  | .write rx win gen offset data => Sys2Proof.Machine.execWrite rx win gen offset data s
  | .reduceFrame rx win gen offset data => Sys2Proof.Machine.execReduceFrame rx win gen offset data s
  | .wnak rx win gen offset status => Sys2Proof.Machine.execWnak rx win gen offset status s
  | .wreturn rx win gen n => Sys2Proof.Machine.execWreturn rx win gen n s
  | .close rx win gen => Sys2Proof.Machine.execClose rx win gen s
  | .marker rx win gen queue sender epoch count plain => Sys2Proof.Machine.execMarker rx win gen queue sender epoch count plain s
  | .msg rx data => Sys2Proof.Machine.execMsg rx data s
  | .msgnak rx status => Sys2Proof.Machine.execMsgnak rx status s
  | .lost rx cause module => Sys2Proof.Machine.execLost rx cause module s
  | .ack p ackLseq releaseLseq nak creditPart creditDl creditFlits => Sys2Proof.Machine.execAck p ackLseq releaseLseq nak creditPart creditDl creditFlits s
  | .ackSend p => Sys2Proof.Machine.execAckSend p s
  | .ident p serial farPort planId src => Sys2Proof.Machine.execIdent p serial farPort planId src s
  | .identSend p => Sys2Proof.Machine.execIdentSend p s
  | .heartbeat p => Sys2Proof.Machine.execHeartbeat p s
  | .linkDown p cause => Sys2Proof.Machine.execLinkDown p cause s
  | .break p axis position up => Sys2Proof.Machine.execBreak p axis position up s
  | .routeRestore axis => Sys2Proof.Machine.execRouteRestore axis s
  | .laneRetire p lane => Sys2Proof.Machine.execLaneRetire p lane s
  | .swap p lane width => Sys2Proof.Machine.execSwap p lane width s
  | .leaving p done => Sys2Proof.Machine.execLeaving p done s
  | .leavingDoneSend => Sys2Proof.Machine.execLeavingDoneSend s
  | .ringSenderUnitSend n => Sys2Proof.Machine.execRingSenderUnitSend n s
  | .planLoad slot value => Sys2Proof.Machine.execPlanLoad slot value s
  | .berTestStart slot p value => Sys2Proof.Machine.execBerTestStart slot p value s
  | .berTestEnd p errors => Sys2Proof.Machine.execBerTestEnd p errors s
  | .programQueueTailWrite slot page q tail => Sys2Proof.Machine.execProgramQueueTailWrite slot page q tail s
  | .programStart rp => Sys2Proof.Machine.execProgramStart rp s
  | .illegalInstruction ctx => Sys2Proof.Machine.execIllegalInstruction ctx s
  | .add ctx rd rs1 rs2 => Sys2Proof.Machine.execAdd ctx rd rs1 rs2 s
  | .sub ctx rd rs1 rs2 => Sys2Proof.Machine.execSub ctx rd rs1 rs2 s
  | .and ctx rd rs1 rs2 => Sys2Proof.Machine.execAnd ctx rd rs1 rs2 s
  | .or ctx rd rs1 rs2 => Sys2Proof.Machine.execOr ctx rd rs1 rs2 s
  | .xor ctx rd rs1 rs2 => Sys2Proof.Machine.execXor ctx rd rs1 rs2 s
  | .sll ctx rd rs1 rs2 => Sys2Proof.Machine.execSll ctx rd rs1 rs2 s
  | .srl ctx rd rs1 rs2 => Sys2Proof.Machine.execSrl ctx rd rs1 rs2 s
  | .sra ctx rd rs1 rs2 => Sys2Proof.Machine.execSra ctx rd rs1 rs2 s
  | .mul ctx rd rs1 rs2 => Sys2Proof.Machine.execMul ctx rd rs1 rs2 s
  | .mulhu ctx rd rs1 rs2 => Sys2Proof.Machine.execMulhu ctx rd rs1 rs2 s
  | .divu ctx rd rs1 rs2 => Sys2Proof.Machine.execDivu ctx rd rs1 rs2 s
  | .remu ctx rd rs1 rs2 => Sys2Proof.Machine.execRemu ctx rd rs1 rs2 s
  | .slt ctx rd rs1 rs2 => Sys2Proof.Machine.execSlt ctx rd rs1 rs2 s
  | .sltu ctx rd rs1 rs2 => Sys2Proof.Machine.execSltu ctx rd rs1 rs2 s
  | .addi ctx rd rs1 x imm => Sys2Proof.Machine.execAddi ctx rd rs1 x imm s
  | .andi ctx rd rs1 x imm => Sys2Proof.Machine.execAndi ctx rd rs1 x imm s
  | .ori ctx rd rs1 x imm => Sys2Proof.Machine.execOri ctx rd rs1 x imm s
  | .xori ctx rd rs1 x imm => Sys2Proof.Machine.execXori ctx rd rs1 x imm s
  | .slti ctx rd rs1 x imm => Sys2Proof.Machine.execSlti ctx rd rs1 x imm s
  | .sltiu ctx rd rs1 x imm => Sys2Proof.Machine.execSltiu ctx rd rs1 x imm s
  | .slli ctx rd rs1 amount => Sys2Proof.Machine.execSlli ctx rd rs1 amount s
  | .srli ctx rd rs1 amount => Sys2Proof.Machine.execSrli ctx rd rs1 amount s
  | .srai ctx rd rs1 amount => Sys2Proof.Machine.execSrai ctx rd rs1 amount s
  | .li ctx rd x imm => Sys2Proof.Machine.execLi ctx rd x imm s
  | .lih ctx rd ext => Sys2Proof.Machine.execLih ctx rd ext s
  | .beq ctx rs1 rs2 x off => Sys2Proof.Machine.execBeq ctx rs1 rs2 x off s
  | .bne ctx rs1 rs2 x off => Sys2Proof.Machine.execBne ctx rs1 rs2 x off s
  | .blt ctx rs1 rs2 x off => Sys2Proof.Machine.execBlt ctx rs1 rs2 x off s
  | .bge ctx rs1 rs2 x off => Sys2Proof.Machine.execBge ctx rs1 rs2 x off s
  | .bltu ctx rs1 rs2 x off => Sys2Proof.Machine.execBltu ctx rs1 rs2 x off s
  | .bgeu ctx rs1 rs2 x off => Sys2Proof.Machine.execBgeu ctx rs1 rs2 x off s
  | .jal ctx rd x off => Sys2Proof.Machine.execJal ctx rd x off s
  | .jalr ctx rd rs1 x imm => Sys2Proof.Machine.execJalr ctx rd rs1 x imm s
  | .ld ctx rd rs1 x imm => Sys2Proof.Machine.execLd ctx rd rs1 x imm s
  | .lw ctx rd rs1 x imm => Sys2Proof.Machine.execLw ctx rd rs1 x imm s
  | .lbu ctx rd rs1 x imm => Sys2Proof.Machine.execLbu ctx rd rs1 x imm s
  | .sd ctx rs rs1 x imm => Sys2Proof.Machine.execSd ctx rs rs1 x imm s
  | .sw ctx rs rs1 x imm => Sys2Proof.Machine.execSw ctx rs rs1 x imm s
  | .sb ctx rs rs1 x imm => Sys2Proof.Machine.execSb ctx rs rs1 x imm s
  | .aadd ctx rd rs1 rs2 => Sys2Proof.Machine.execAadd ctx rd rs1 rs2 s
  | .cas ctx rd rs1 rs2 rs3 => Sys2Proof.Machine.execCas ctx rd rs1 rs2 rs3 s
  | .rdreg ctx rd rs1 x imm => Sys2Proof.Machine.execRdreg ctx rd rs1 x imm s
  | .wrreg ctx rs rs1 x imm => Sys2Proof.Machine.execWrreg ctx rs rs1 x imm s
  | .wait ctx rd rs1 rs2 => Sys2Proof.Machine.execWait ctx rd rs1 rs2 s
  | .waitTimeout ctx => Sys2Proof.Machine.execWaitTimeout ctx s
  | .evpop ctx rd => Sys2Proof.Machine.execEvpop ctx rd s
  | .signal ctx rs1 rs2 => Sys2Proof.Machine.execSignal ctx rs1 rs2 s
  | .settimer ctx rs1 => Sys2Proof.Machine.execSettimer ctx rs1 s
  | .timerExpire ctx => Sys2Proof.Machine.execTimerExpire ctx s
  | .rdtime ctx rd => Sys2Proof.Machine.execRdtime ctx rd s
  | .halt ctx rs1 => Sys2Proof.Machine.execHalt ctx rs1 s
  | .fence ctx => Sys2Proof.Machine.execFence ctx s
  | .creg ctx rd rs1 => Sys2Proof.Machine.execCreg ctx rd rs1 s
  | .cload ctx rd rs1 => Sys2Proof.Machine.execCload ctx rd rs1 s
  | .cswap ctx rd => Sys2Proof.Machine.execCswap ctx rd s
  | .crel ctx rd rs1 => Sys2Proof.Machine.execCrel ctx rd rs1 s
  | .arm ctx rd rs1 => Sys2Proof.Machine.execArm ctx rd rs1 s
  | .rearm ctx rd rs1 rs2 rs3 imm => Sys2Proof.Machine.execRearm ctx rd rs1 rs2 rs3 imm s
  | .resume ctx rd rs1 => Sys2Proof.Machine.execResume ctx rd rs1 s
  | .flip ctx rd rs1 rs2 => Sys2Proof.Machine.execFlip ctx rd rs1 rs2 s
  | .wopen ctx rd rs1 => Sys2Proof.Machine.execWopen ctx rd rs1 s
  | .wclose ctx rd rs1 rs2 => Sys2Proof.Machine.execWclose ctx rd rs1 rs2 s
  | .wbind ctx rd rs1 rs2 rs3 => Sys2Proof.Machine.execWbind ctx rd rs1 rs2 rs3 s
  | .sbind ctx rd rs1 rs2 => Sys2Proof.Machine.execSbind ctx rd rs1 rs2 s
  | .mapPages ctx rd rs1 rs2 rs3 => Sys2Proof.Machine.execMapPages ctx rd rs1 rs2 rs3 s
  | .unmap ctx rd rs1 rs2 => Sys2Proof.Machine.execUnmap ctx rd rs1 rs2 s
  | .promote ctx rd rs1 rs2 => Sys2Proof.Machine.execPromote ctx rd rs1 rs2 s
  | .demote ctx rd rs1 rs2 => Sys2Proof.Machine.execDemote ctx rd rs1 rs2 s
  | .sbase ctx rd rs1 rs2 => Sys2Proof.Machine.execSbase ctx rd rs1 rs2 s
  | .admitRequest ctx rd rs1 rs2 => Sys2Proof.Machine.execAdmitRequest ctx rd rs1 rs2 s
  | .round ctx rd rs1 rs2 rs3 => Sys2Proof.Machine.execRound ctx rd rs1 rs2 rs3 s
  | .cancel ctx rd rs1 rs2 => Sys2Proof.Machine.execCancel ctx rd rs1 rs2 s
  | .msend ctx rd rs1 rs2 rs3 => Sys2Proof.Machine.execMsend ctx rd rs1 rs2 rs3 s
  | .mrecv ctx rd rs1 => Sys2Proof.Machine.execMrecv ctx rd rs1 s
  | .save ctx rd => Sys2Proof.Machine.execSave ctx rd s
  | .restore ctx rd rs1 => Sys2Proof.Machine.execRestore ctx rd rs1 s
  | .saveComplete areaBad => Sys2Proof.Machine.execSaveComplete areaBad s
  | .restoreComplete => Sys2Proof.Machine.execRestoreComplete s
  | .processorReplaced rp => Sys2Proof.Machine.execProcessorReplaced rp s
  | .slotLinkUp slot width rate => Sys2Proof.Machine.execSlotLinkUp slot width rate s
  | .slotLinkDown slot => Sys2Proof.Machine.execSlotLinkDown slot s
  | .ownClaim slot nonce => Sys2Proof.Machine.execOwnClaim slot nonce s
  | .ownHeartbeat slot nonce => Sys2Proof.Machine.execOwnHeartbeat slot nonce s
  | .ownRelease slot nonce => Sys2Proof.Machine.execOwnRelease slot nonce s
  | .ownHandover slot valid target => Sys2Proof.Machine.execOwnHandover slot valid target s
  | .leaseExpire => Sys2Proof.Machine.execLeaseExpire s
  | .handoverLapse => Sys2Proof.Machine.execHandoverLapse s
  | .snapshotPublish => Sys2Proof.Machine.execSnapshotPublish s
  | .rqTailWrite slot page tail => Sys2Proof.Machine.execRqTailWrite slot page tail s
  | .requestRingWrite slot page offset data => Sys2Proof.Machine.execRequestRingWrite slot page offset data s
  | .crHeadWrite slot page head => Sys2Proof.Machine.execCrHeadWrite slot page head s
  | .bar4Read slot offset len => Sys2Proof.Machine.execBar4Read slot offset len s
  | .bar4Write slot offset data => Sys2Proof.Machine.execBar4Write slot offset data s
  | .controlMemoryApertureAccess slot write offset width value => Sys2Proof.Machine.execControlMemoryApertureAccess slot write offset width value s
  | .jobStart slot jobId ptEntry noRing => Sys2Proof.Machine.execJobStart slot jobId ptEntry noRing s
  | .jobRunning => Sys2Proof.Machine.execJobRunning s
  | .jobEnd slot jobId => Sys2Proof.Machine.execJobEnd slot jobId s
  | .jobEndComplete => Sys2Proof.Machine.execJobEndComplete s
  | .jobFault code => Sys2Proof.Machine.execJobFault code s
  | .refclkLost => Sys2Proof.Machine.execRefclkLost s
  | .refclkRelock => Sys2Proof.Machine.execRefclkRelock s
  | .refclkLinkLost => Sys2Proof.Machine.execRefclkLinkLost s
  | .refclkHostLost hostPort => Sys2Proof.Machine.execRefclkHostLost hostPort s
  | .pwrCapWrite value => Sys2Proof.Machine.execPwrCapWrite value s
  | .capTimeout => Sys2Proof.Machine.execCapTimeout s
  | .capLoopEvaluation reading => Sys2Proof.Machine.execCapLoopEvaluation reading s
  | .fastCapStep reading => Sys2Proof.Machine.execFastCapStep reading s
  | .fastcapRelease => Sys2Proof.Machine.execFastcapRelease s
  | .droop steps => Sys2Proof.Machine.execDroop steps s
  | .droopRecover => Sys2Proof.Machine.execDroopRecover s
  | .thermalWarn src celsius => Sys2Proof.Machine.execThermalWarn src celsius s
  | .thermalTrip src celsius => Sys2Proof.Machine.execThermalTrip src celsius s
  | .thermalRecover => Sys2Proof.Machine.execThermalRecover s
  | .thermalShutdown src celsius => Sys2Proof.Machine.execThermalShutdown src celsius s
  | .coolantOutOfRating inlet outlet flow => Sys2Proof.Machine.execCoolantOutOfRating inlet outlet flow s
  | .inputLow dv => Sys2Proof.Machine.execInputLow dv s
  | .inputHigh dv => Sys2Proof.Machine.execInputHigh dv s
  | .brownOut => Sys2Proof.Machine.execBrownOut s
  | .coldPowerUp straps => Sys2Proof.Machine.execColdPowerUp straps s
  | .modEnDeassert => Sys2Proof.Machine.execModEnDeassert s
  | .perst hostPort asserted => Sys2Proof.Machine.execPerst hostPort asserted s
  | .ready => Sys2Proof.Machine.execReady s
  | .bringupFailed cause => Sys2Proof.Machine.execBringupFailed cause s
  | .vatZeroComplete => Sys2Proof.Machine.execVatZeroComplete s
  | .warmReset pin => Sys2Proof.Machine.execWarmReset pin s
  | .fwBegin size => Sys2Proof.Machine.execFwBegin size s
  | .fwData data => Sys2Proof.Machine.execFwData data s
  | .fwCommit storeWriteOk => Sys2Proof.Machine.execFwCommit storeWriteOk s
  | .fwAbort => Sys2Proof.Machine.execFwAbort s
  | .mgmtRegisterWrite offset data pecOk => Sys2Proof.Machine.execMgmtRegisterWrite offset data pecOk s
  | .checkpoint => Sys2Proof.Machine.execCheckpoint s
  | .unitFault cell code inMu => Sys2Proof.Machine.execUnitFault cell code inMu s
  | .frameRetired frame => Sys2Proof.Machine.execFrameRetired frame s
  | .frameRetireComplete frame badWords => Sys2Proof.Machine.execFrameRetireComplete frame badWords s
  | .vatChannelReplace channel => Sys2Proof.Machine.execVatChannelReplace channel s
  | .vatChannelReplaced channel badGranules => Sys2Proof.Machine.execVatChannelReplaced channel badGranules s
  | .vatChannelLost channel => Sys2Proof.Machine.execVatChannelLost channel s
  | .stackFailed stack => Sys2Proof.Machine.execStackFailed stack s
  | .regPhaseLost rail => Sys2Proof.Machine.execRegPhaseLost rail s
  | .laneRestore slot p lane => Sys2Proof.Machine.execLaneRestore slot p lane s
  | .laneRestoreEnd errors => Sys2Proof.Machine.execLaneRestoreEnd errors s
  | .spareTest slot => Sys2Proof.Machine.execSpareTest slot s
  | .inject slot cell kind => Sys2Proof.Machine.execInject slot cell kind s
  | .replace slot channel => Sys2Proof.Machine.execReplace slot channel s
  | .cellarUncorrectable word => Sys2Proof.Machine.execCellarUncorrectable word s
  | .ageingUpdate region eolDays confidence spare metric => Sys2Proof.Machine.execAgeingUpdate region eolDays confidence spare metric s
  | .warnedRemoval start => Sys2Proof.Machine.execWarnedRemoval start s
  | .attnShort => Sys2Proof.Machine.execAttnShort s
  | .attnLong => Sys2Proof.Machine.execAttnLong s
  | .latchReturn => Sys2Proof.Machine.execLatchReturn s
  | .locate slot on => Sys2Proof.Machine.execLocate slot on s
  | .inputLoss => Sys2Proof.Machine.execInputLoss s
  | .creditReturn cell queue => Sys2Proof.Machine.execCreditReturn cell queue s
  | .laneSwapped p => Sys2Proof.Machine.execLaneSwapped p s
  | .heartbeatReceive p state news => Sys2Proof.Machine.execHeartbeatReceive p state news s
  | .wreqRetry n => Sys2Proof.Machine.execWreqRetry n s
  | .mapComplete ctx ticket => Sys2Proof.Machine.execMapComplete ctx ticket s
  | .spareTestComplete pass0 pass1 => Sys2Proof.Machine.execSpareTestComplete pass0 pass1 s
  | .coolantInRating inlet outlet flow => Sys2Proof.Machine.execCoolantInRating inlet outlet flow s
  | .inputRestored dv => Sys2Proof.Machine.execInputRestored dv s
  | .refclkLinkRelock => Sys2Proof.Machine.execRefclkLinkRelock s
  | .refclkHostRelock hostPort => Sys2Proof.Machine.execRefclkHostRelock hostPort s
  | .latchClosed closed => Sys2Proof.Machine.execLatchClosed closed s
  | .setdasa addr => Sys2Proof.Machine.execSetdasa addr s

end Sys2Proof.Machine
end

