-- ==== Sys2Proof/Machine/Step.lean ====
section
/-! DEFINITION. One step of the module: the command at the front of the queue, or a planning period passes. -/

namespace Sys2Proof.Machine

/-- R6: one planning period passes: the timebase of a powered module counts, and messages that R350 held back may be sent. -/
def tick (s : State) : State := if s.boot.powered then msixFlush { s with now := s.now + 1 } else s

/-- The command that waits longest takes its effect; while none waits, a planning period passes (log entry 1). -/
def step (s : State) : Host.Outcome State Fault Refusal :=
  match s.pending with
  | [] => .next (tick s)
  | c :: rest => exec c { s with pending := rest }

/-- `s` with the command that the word spells at the front of its queue; no word spells one. -/
def State.withFetchWord (s : State) (nbits w : Nat) : State :=
  match decodeTableWord nbits w with
  | none => s
  | some c => { s with pending := c :: s.pending }

end Sys2Proof.Machine
end

