-- ==== Sys2Proof/Safety.lean ====
section
/-! DEFINITION. What a safe run of the module is, and the terms that statements use. -/

namespace Sys2Proof.Machine

/-- The command takes its effect: `exec` answers a next state, of which `P` holds. -/
def Ends (i : Instr) (s : State) (P : State → Prop) : Prop := ∃ t, exec i s = .next t ∧ P t

/-! ### The sizes of the module's tables: what every state has that a run reaches -/

/-- The tables of a grid, a Ladle and the ring senders: 8 beat timers, 16 dispatches, 64 collectors, 64 senders. -/
abbrev LadSized (g : Grid) (l : Ladle) (n : List Sender) : Prop :=
  g.timers.length = 8 ∧ l.disps.length = 16 ∧ l.colls.length = 64 ∧ n.length = 64

/-- The tables of what belongs to a job, and of its checkpoint. -/
abbrev JobSized (j : Job) : Prop :=
  LadSized j.grid j.lad j.senders ∧ j.churn.images.length = 64 ∧ j.sbase.length = 16 ∧
  ∀ k ∈ j.ckpt, LadSized k.grid k.lad k.senders

/-- R324: each context has 32 registers. -/
abbrev CtxSized (l : List CtxSt) : Prop := ∀ x ∈ l, x.regs.length = 32

/-- Every table of the module has the number of entries that the spec gives it. -/
abbrev Sized (s : State) : Prop :=
  s.hosts.length = 4 ∧ s.wins.length = 64 ∧ (s.raler.ctx.length = 8 ∧ CtxSized s.raler.ctx) ∧ s.raler.pq.length = 4 ∧
  s.dies.length = 2 ∧ s.ring.ports.length = 8 ∧ s.adm.svcs.length = 16 ∧ s.sep.wsets.length = 16 ∧ JobSized s.job ∧
  ∀ k ∈ s.saved, k.ctx.length = 4 ∧ CtxSized k.ctx ∧ JobSized k.job

/-- The memories are in their canonical form: control memory, device memory in both tiers, the part of a host's memory that the completion
ring writes, and the job areas of saved jobs, which lie in the job area (R321). -/
abbrev Canonical (s : State) : Prop :=
  Mem.wf s.cm = true ∧ Mem.wf s.tiers.near = true ∧ Mem.wf s.tiers.vat = true ∧ (∀ h ∈ s.hosts, Mem.wf h.ring = true) ∧
  ∀ k ∈ s.saved, Mem.wf k.area = true ∧ ∀ b ∈ k.area, b.1 < jobAreaEnd

/-! ### Host accesses -/

/-- Nothing of ownership has expired that the module would settle first (R340, R342, R343). -/
abbrev Settled (s : State) : Prop :=
  (s.own.owned = true → s.now < s.own.leaseEnd) ∧ (s.own.handover = true → s.now < s.own.handoverEnd)

/-- A host slot whose accesses the module answers in full: its link is up, the module is READY, and nothing has expired. -/
abbrev Answers (s : State) (n : Slot) : Prop := isReady s = true ∧ (getHost s n).present = true ∧ Settled s

/-- The same, and the slot is the owner. -/
abbrev OwnerAnswers (s : State) (n : Slot) : Prop := Answers s n ∧ s.own.owned = true ∧ s.own.slot = n

/-- An access of a slot met `code` at BAR `bar`, offset `off`: SLOT_ERR and ERR_COUNT take it, and nothing else changes. -/
def met (s : State) (n : Slot) (code : Status) (bar off : Nat) : State :=
  { s with hosts := s.hosts.set n { getHost s n with
    errCode := code, errBar := bar, errOffset := off, errCount := (getHost s n).errCount + 1 } }

/-! ### Frames for this module -/

/-- Module `s` has taken the frame with body `b` from its port or the loopback (R289, R302), its plan knows the frame's partition, and what
the frame does happens in `t`. -/
abbrev Taken (s : State) (rx : Rx) (b : Body) (t : State) : Prop := rxTake s rx b = some t ∧ (findPt t rx.part.toNat).isSome = true

/-- The window that a frame names accepts it: its slot is open under the frame's GEN and partition, which is the running job's, and it is
not suspended (R103). -/
abbrev WindowTakes (t : State) (rx : Rx) (w : Win) (gen : Byte) : Prop :=
  (getWin t w).opened = true ∧ (getWin t w).gen = gen ∧ (getWin t w).part = rx.part ∧ (getWin t w).suspended = false ∧
  jobPart t = some rx.part.toNat

/-! ### Raler instructions -/

/-- A context runs, and the word at its program counter is `w`, with the extension word `e` where one follows. -/
abbrev At (s : State) (c : Ctx) (w : Nat) (e : Option Nat) : Prop := ctxRuns s c = true ∧ fetchWords s c = some (w, e)

/-- Context `c` has moved `n` bytes past its instruction, and nothing else has changed. -/
def moved (s : State) (c : Ctx) (n : Nat) : State :=
  setCtx s c { getCtx s c with lastPc := (getCtx s c).pc, pc := (getCtx s c).pc + n }

/-- Context `c` has moved `n` bytes past its instruction, register `rd` holds `v` (g0 stays zero), and nothing else has changed. -/
def wrote (s : State) (c : Ctx) (rd : Nat) (v : Word) (n : Nat) : State :=
  setCtx s c { getCtx s c with
    lastPc := (getCtx s c).pc, pc := (getCtx s c).pc + n
    regs := if rd = 0 then (getCtx s c).regs else (getCtx s c).regs.set rd v }

/-- Context `c` has written `v` to `rd` and continues at `pc`. -/
def jumped (s : State) (c : Ctx) (rd : Nat) (v : Word) (pc : Nat) : State :=
  setCtx s c { getCtx s c with
    lastPc := (getCtx s c).pc, pc := pc
    regs := if rd = 0 then (getCtx s c).regs else (getCtx s c).regs.set rd v }

/-- Context `c` has issued an asynchronous device operation and moved past it: `rd` holds the issue status OK, its ticket `n` and the
immediate result (R329). -/
def issued (s : State) (c : Ctx) (rd : Nat) (n : BitVec 16) (imm : Nat) : State :=
  setCtx s c { getCtx (wrote s c rd (BitVec.ofNat 64 (n.toNat * 2 ^ 16 + imm * 2 ^ 32)) 4) c with ticket := n }

/-- R329: tickets count from 1 and wrap past 65,535 to 1. -/
def ticketAfter (s : State) (c : Ctx) : BitVec 16 := if (getCtx s c).ticket = 65535 then 1 else (getCtx s c).ticket + 1

/-- The asynchronous operation that a context issues next. -/
def opOf (s : State) (c : Ctx) : OpRef := { ctx := c, prog := (getCtx s c).prog, ticket := ticketAfter s c }

/-- A word of the R format (R324). -/
def wordR (op fn rd rs1 rs2 : Nat) : Nat := op * 2 ^ 26 + rd * 2 ^ 20 + rs1 * 2 ^ 15 + rs2 * 2 ^ 10 + fn

/-- A word of the D format (R324). -/
def wordD (op sub rd rs1 rs2 rs3 : Nat) : Nat :=
  op * 2 ^ 26 + rd * 2 ^ 20 + rs1 * 2 ^ 15 + rs2 * 2 ^ 10 + rs3 * 2 ^ 5 + sub

/-- The instruction of the I or B format with OP `op` at a context's program counter (R324): a 15-bit signed immediate, or with X a
47-bit one whose upper 32 bits are the extension word. -/
abbrev AtI (s : State) (c : Ctx) (op r1 r2 : Nat) (x : Bool) (imm : BitVec 47) : Prop :=
  if x then At s c (op * 2 ^ 26 + 2 ^ 25 + r1 * 2 ^ 20 + r2 * 2 ^ 15 + imm.toNat % 2 ^ 15) (some (imm.toNat / 2 ^ 15))
  else (-16384 ≤ imm.toInt ∧ imm.toInt < 16384) ∧ At s c (op * 2 ^ 26 + r1 * 2 ^ 20 + r2 * 2 ^ 15 + imm.toNat % 2 ^ 15) none

/-- The bytes of an instruction with and without an extension word. -/
def len (x : Bool) : Nat := if x then 8 else 4

end Sys2Proof.Machine
end

