-- ==== Sys2Proof/Certificates/Slice0/Obligations.lean ====
section
/-! DEFINITION. The statements about the module. -/

open Sys2Proof Sys2Proof.Machine

/-- A step takes the command at the front of the queue, with the rest of the queue waiting; while none waits, a planning period passes
(the model's choice, log entry 1): the timebase of a powered module counts, and interrupts that were held back may be sent. -/
def Obligations.StepRunsCommand : Prop :=
  (∀ (c : Instr) (s : State), step { s with pending := c :: s.pending } = exec c s) ∧
  (∀ s : State, s.pending = [] → s.boot.powered = false → step s = .next s) ∧
  (∀ s : State, s.pending = [] → s.boot.powered = true → ∃ t, step s = .next t ∧ t = { s with now := s.now + 1, hosts := t.hosts })

/-- Every command takes an effect in every state: none of the module's statuses, faults and shutdowns stops the model. -/
def Obligations.EveryCommandAnswers : Prop :=
  ∀ (c : Instr) (s : State), ∃ t, exec c s = .next t

/-- What registers read at time zero, from the Reset columns of Tables 2.6, 2.8, 5.4, 5.5, 7.7, 8.7, 9.5, 10.5, 11.5, 12.5, 13.5, 14.8,
15.6, 16.5 and 18.8; nothing runs, nobody owns the module, and no command waits. -/
def Obligations.ResetValues : Prop :=
  (∀ p ∈ [(0x400000, 554253230096), (0x400018, 48), (0x500000, 2199359373344), (0x500010, 1000), (0x300000, 8813408161824),
      (0x300020, 200), (0x600000, 1549289244487596032), (0x700000, 563516889367144), (0x700010, 11184810), (0x800000, 11077158928),
      (0x900000, 144187773023358976), (0x900008, 299069310500864), (0xA00000, 9079768104308736), (0xA00018, 200),
      (0xB00000, 33820888), (0x200000, 145267478409325580), (0xC00000, 879716814030400), (0xC00008, 1600), (0xD00048, 5898330),
      (0x100000, 0), (0x100038, 0)],
    regAt State.reset true p.1 = some p.2) ∧
  State.reset.pending = [] ∧ State.reset.boot.powered = false ∧ State.reset.jobc.st = 0 ∧ State.reset.own.owned = false ∧
  (∀ c : Ctx, (getCtx State.reset c).st = 0)

/-- At time zero every table has its size, and every memory is in its canonical form. -/
def Obligations.ResetKeepsForm : Prop :=
  Sized State.reset ∧ Canonical State.reset

/-- Every step keeps the sizes of the module's tables: 4 host slots, 64 windows, 8 contexts of 32 registers, 4 program queues, 2 dies, 8
ports, 16 services, 16 weight sets, 8 beat timers, 16 dispatches, 64 collectors, 64 ring senders, 64 images, 16 bases, and a saved job's.
-/
def Obligations.StepKeepsSizes : Prop :=
  ∀ s t : State, Sized s → step s = .next t → Sized t

/-- Every step keeps the canonical form of the memories, and a saved job's area stays within the job area of control memory. -/
def Obligations.StepKeepsMemories : Prop :=
  ∀ s t : State, Canonical s → step s = .next t → Canonical t

/-- R324, R325: the register arithmetic of Table 14.3, OP 0x00; g0 stays zero. R324, R325: the immediate arithmetic of Table 14.3, OP 0x01
to 0x0B. -/
def Obligations.Arithmetic : Prop :=
  (∀ (s : State) (c : Ctx) (rd rs1 rs2 : GReg), Sized s →
    let a := greg s c rs1
    let b := greg s c rs2
    let here := fun fn => At s c (wordR 0 fn rd rs1 rs2) none
    (here 0 → Ends (.add c rd rs1 rs2) s fun t => t = wrote s c rd (a + b) 4) ∧
    (here 1 → Ends (.sub c rd rs1 rs2) s fun t => t = wrote s c rd (a - b) 4) ∧
    (here 2 → Ends (.and c rd rs1 rs2) s fun t => t = wrote s c rd (a &&& b) 4) ∧
    (here 3 → Ends (.or c rd rs1 rs2) s fun t => t = wrote s c rd (a ||| b) 4) ∧
    (here 4 → Ends (.xor c rd rs1 rs2) s fun t => t = wrote s c rd (a ^^^ b) 4) ∧
    (here 5 → Ends (.sll c rd rs1 rs2) s fun t => t = wrote s c rd (a <<< (b.toNat % 64)) 4) ∧
    (here 6 → Ends (.srl c rd rs1 rs2) s fun t => t = wrote s c rd (a >>> (b.toNat % 64)) 4) ∧
    (here 7 → Ends (.sra c rd rs1 rs2) s fun t => t = wrote s c rd (a.sshiftRight (b.toNat % 64)) 4) ∧
    (here 8 → Ends (.mul c rd rs1 rs2) s fun t => t = wrote s c rd (a * b) 4) ∧
    (here 9 → Ends (.mulhu c rd rs1 rs2) s fun t => t = wrote s c rd (BitVec.ofNat 64 (a.toNat * b.toNat / 2 ^ 64)) 4) ∧
    (here 10 → Ends (.divu c rd rs1 rs2) s fun t => t = wrote s c rd (if b = 0 then BitVec.allOnes 64 else a / b) 4) ∧
    (here 11 → Ends (.remu c rd rs1 rs2) s fun t => t = wrote s c rd (if b = 0 then a else a % b) 4) ∧
    (here 12 → Ends (.slt c rd rs1 rs2) s fun t => t = wrote s c rd (if a.toInt < b.toInt then 1 else 0) 4) ∧
    (here 13 → Ends (.sltu c rd rs1 rs2) s fun t => t = wrote s c rd (if a.toNat < b.toNat then 1 else 0) 4) ∧
    (∀ (v : Word) (n : Nat), greg (wrote s c rd v n) c rd = (if rd = 0 then 0 else v) ∧
      ∀ r : GReg, r ≠ rd → greg (wrote s c rd v n) c r = greg s c r)) ∧
  (∀ (s : State) (c : Ctx) (rd rs1 : GReg), Sized s →
    let a := greg s c rs1
    (∀ (x : Bool) (imm : BitVec 47),
      let b : Word := imm.signExtend 64
      let here := fun op => AtI s c op rd rs1 x imm
      (here 1 → Ends (.addi c rd rs1 x imm) s fun t => t = wrote s c rd (a + b) (len x)) ∧
      (here 2 → Ends (.andi c rd rs1 x imm) s fun t => t = wrote s c rd (a &&& b) (len x)) ∧
      (here 3 → Ends (.ori c rd rs1 x imm) s fun t => t = wrote s c rd (a ||| b) (len x)) ∧
      (here 4 → Ends (.xori c rd rs1 x imm) s fun t => t = wrote s c rd (a ^^^ b) (len x)) ∧
      (here 5 → Ends (.slti c rd rs1 x imm) s fun t => t = wrote s c rd (if a.toInt < b.toInt then 1 else 0) (len x)) ∧
      (here 6 → Ends (.sltiu c rd rs1 x imm) s fun t => t = wrote s c rd (if a.toNat < b.toNat then 1 else 0) (len x))) ∧
    (∀ (x : Bool) (n : BitVec 6),
      let here := fun op => AtI s c op rd rs1 x (n.setWidth 47)
      (here 7 → Ends (.slli c rd rs1 n) s fun t => t = wrote s c rd (a <<< n.toNat) (len x)) ∧
      (here 8 → Ends (.srli c rd rs1 n) s fun t => t = wrote s c rd (a >>> n.toNat) (len x)) ∧
      (here 9 → Ends (.srai c rd rs1 n) s fun t => t = wrote s c rd (a.sshiftRight n.toNat) (len x))) ∧
    (∀ (x : Bool) (imm : BitVec 47), AtI s c 0x0A rd 0 x imm →
      Ends (.li c rd x imm) s fun t => t = wrote s c rd (imm.signExtend 64) (len x)) ∧
    (∀ (ext : BitVec 32), At s c (0x0B * 2 ^ 26 + 2 ^ 25 + rd.val * 2 ^ 20) (some ext.toNat) →
      Ends (.lih c rd ext) s fun t => t = wrote s c rd (ext ++ (greg s c rd).setWidth 32) 8))

/-- R324, R325: branches and jumps: the target of a branch or JAL is its own address plus 4 × OFF. -/
def Obligations.BranchesAndJumps : Prop :=
  ∀ (s : State) (c : Ctx) (x : Bool) (off : BitVec 47), Sized s →
    let pc := (getCtx s c).pc
    let target := (BitVec.ofNat 64 pc + 4 * off.signExtend 64).toNat
    (∀ (rs1 rs2 : GReg),
      let a := greg s c rs1
      let b := greg s c rs2
      let here := fun op => AtI s c op rs1 rs2 x off
      let goes := fun (p : Bool) => if p then jumped s c 0 0 target else moved s c (len x)
      (here 0x10 → Ends (.beq c rs1 rs2 x off) s fun t => t = goes (decide (a = b))) ∧
      (here 0x11 → Ends (.bne c rs1 rs2 x off) s fun t => t = goes (decide (a ≠ b))) ∧
      (here 0x12 → Ends (.blt c rs1 rs2 x off) s fun t => t = goes (decide (a.toInt < b.toInt))) ∧
      (here 0x13 → Ends (.bge c rs1 rs2 x off) s fun t => t = goes (decide (b.toInt ≤ a.toInt))) ∧
      (here 0x14 → Ends (.bltu c rs1 rs2 x off) s fun t => t = goes (decide (a.toNat < b.toNat))) ∧
      (here 0x15 → Ends (.bgeu c rs1 rs2 x off) s fun t => t = goes (decide (b.toNat ≤ a.toNat)))) ∧
    (∀ (rd : GReg), AtI s c 0x16 rd 0 x off →
      Ends (.jal c rd x off) s fun t => t = jumped s c rd (BitVec.ofNat 64 (pc + len x)) target) ∧
    (∀ (rd rs1 : GReg), AtI s c 0x17 rd rs1 x off →
      Ends (.jalr c rd rs1 x off) s fun t =>
        t = jumped s c rd (BitVec.ofNat 64 (pc + len x)) ((greg s c rs1 + off.signExtend 64).toNat / 4 * 4))

/-- R320, R325: loads and stores that keep their alignment and their context's area; every other byte of control memory stays. A
misaligned access and one outside the area end the program with their codes. R325: AADD and CAS: rd takes the old word; the word takes old
+ rs2, or rs3 where old is rs2. A store changes the bytes it names and no other byte of a memory. -/
def Obligations.MemoryAccesses : Prop :=
  (∀ (s : State) (c : Ctx) (rd rs1 : GReg) (x : Bool) (imm : BitVec 47), Sized s →
    let a := (greg s c rs1 + imm.signExtend 64).toNat
    let inside := fun n => a + n ≤ if c.val % 2 = 1 then 0x800000 else 0x600000
    let here := fun op => AtI s c op rd rs1 x imm
    let loaded := fun n => wrote s c rd (BitVec.ofNat 64 (leNat (Mem.readN s.cm a n))) (len x)
    let stored := fun n => { moved s c (len x) with cm := Mem.writeN s.cm a (leBytes n (greg s c rd).toNat) }
    let stops := fun code => programFault (moved s c (len x)) c code
    (here 0x18 → a % 8 = 0 → inside 8 → Ends (.ld c rd rs1 x imm) s fun t => t = loaded 8) ∧
    (here 0x19 → a % 4 = 0 → inside 4 → Ends (.lw c rd rs1 x imm) s fun t => t = loaded 4) ∧
    (here 0x1A → inside 1 → Ends (.lbu c rd rs1 x imm) s fun t => t = loaded 1) ∧
    (here 0x1B → a % 8 = 0 → inside 8 → Ends (.sd c rd rs1 x imm) s fun t => t = stored 8) ∧
    (here 0x1C → a % 4 = 0 → inside 4 → Ends (.sw c rd rs1 x imm) s fun t => t = stored 4) ∧
    (here 0x1D → inside 1 → Ends (.sb c rd rs1 x imm) s fun t => t = stored 1) ∧
    (here 0x18 → a % 8 ≠ 0 → Ends (.ld c rd rs1 x imm) s fun t => t = stops Code.misaligned) ∧
    (here 0x19 → a % 4 ≠ 0 → Ends (.lw c rd rs1 x imm) s fun t => t = stops Code.misaligned) ∧
    (here 0x1B → a % 8 ≠ 0 → Ends (.sd c rd rs1 x imm) s fun t => t = stops Code.misaligned) ∧
    (here 0x1C → a % 4 ≠ 0 → Ends (.sw c rd rs1 x imm) s fun t => t = stops Code.misaligned) ∧
    (here 0x18 → a % 8 = 0 → ¬ inside 8 → Ends (.ld c rd rs1 x imm) s fun t => t = stops Code.cmRange) ∧
    (here 0x19 → a % 4 = 0 → ¬ inside 4 → Ends (.lw c rd rs1 x imm) s fun t => t = stops Code.cmRange) ∧
    (here 0x1A → ¬ inside 1 → Ends (.lbu c rd rs1 x imm) s fun t => t = stops Code.cmRange) ∧
    (here 0x1B → a % 8 = 0 → ¬ inside 8 → Ends (.sd c rd rs1 x imm) s fun t => t = stops Code.cmRange) ∧
    (here 0x1C → a % 4 = 0 → ¬ inside 4 → Ends (.sw c rd rs1 x imm) s fun t => t = stops Code.cmRange) ∧
    (here 0x1D → ¬ inside 1 → Ends (.sb c rd rs1 x imm) s fun t => t = stops Code.cmRange)) ∧
  (∀ (s : State) (c : Ctx) (rd rs1 rs2 rs3 : GReg), Sized s →
    let a := (greg s c rs1).toNat
    let old : Word := BitVec.ofNat 64 (leNat (Mem.readN s.cm a 8))
    a % 8 = 0 → a + 8 ≤ (if c.val % 2 = 1 then 0x800000 else 0x600000) →
      (At s c (wordR 0x1E 0 rd rs1 rs2) none →
        Ends (.aadd c rd rs1 rs2) s fun t =>
          t = { wrote s c rd old 4 with cm := Mem.writeN s.cm a (leBytes 8 (old + greg s c rs2).toNat) }) ∧
      (At s c (wordD 0x1F 0 rd rs1 rs2 rs3) none →
        Ends (.cas c rd rs1 rs2 rs3) s fun t =>
          t = { wrote s c rd old 4 with
            cm := if old = greg s c rs2 then Mem.writeN s.cm a (leBytes 8 (greg s c rs3).toNat) else s.cm })) ∧
  (∀ (m : Bytes) (a : Nat) (d : List Byte), Mem.wf m = true →
    Mem.readN (Mem.writeN m a d) a d.length = d ∧ Mem.wf (Mem.writeN m a d) = true ∧
    ∀ b, b < a ∨ a + d.length ≤ b → Mem.read (Mem.writeN m a d) b = Mem.read m b)

/-- R328: WAIT, EVPOP, SIGNAL, SETTIMER, RDTIME, HALT and FENCE, and the end of a WAIT's time and of a timer. -/
def Obligations.SystemInstructions : Prop :=
  ∀ (s : State) (c : Ctx) (rd rs1 rs2 : GReg), Sized s →
    let x := getCtx s c
    let mask := (greg s c rs1).setWidth 32
    (At s c (wordD 0x28 0 rd rs1 rs2 0) none → x.ev &&& mask ≠ 0 →
      Ends (.wait c rd rs1 rs2) s fun t =>
        getCtx t c = { getCtx (wrote s c rd ((x.ev &&& mask).setWidth 64) 4) c with ev := x.ev &&& ~~~mask, st := 1, waits := .none } ∧
        t = { s with raler := { s.raler with ctx := s.raler.ctx.set c (getCtx t c) } }) ∧
    (At s c (wordD 0x28 0 rd rs1 rs2 0) none → greg s c rs1 ≠ 0 → x.ev &&& mask = 0 →
      Ends (.wait c rd rs1 rs2) s fun t =>
        t = setCtx s c { getCtx (moved s c 4) c with
          st := 2, waits := .event rd mask (if greg s c rs2 = 0 then none else some (s.now + (greg s c rs2).toNat)) }) ∧
    (At s c (wordD 0x28 1 rd 0 0 0) none →
      Ends (.evpop c rd) s fun t => t = setCtx s c { getCtx (wrote s c rd (x.evq.headD 0) 4) c with evq := x.evq.tail }) ∧
    (∀ (d : Ctx) (b : Nat), At s c (wordD 0x28 2 0 rs1 rs2 0) none → (greg s c rs1).toNat = d → (greg s c rs2).toNat = b → b < 8 →
      (c.val % 2 = 1 ∨ d.val % 2 = 0) →
        Ends (.signal c rs1 rs2) s fun t =>
          t = raiseEvent (moved s c 4) d (8 + b) (BitVec.ofNat 64 (c.val * 2 ^ 32))) ∧
    (At s c (wordD 0x28 3 0 rs1 0 0) none →
      Ends (.settimer c rs1) s fun t => t = setCtx s c { getCtx (moved s c 4) c with
        timer := if greg s c rs1 = 0 then none else some (s.now + (greg s c rs1).toNat) }) ∧
    (At s c (wordD 0x28 4 rd 0 0 0) none → Ends (.rdtime c rd) s fun t => t = wrote s c rd (BitVec.ofNat 64 s.now) 4) ∧
    (At s c (wordD 0x28 5 0 rs1 0 0) none →
      Ends (.halt c rs1) s fun t => t = endProgram (moved s c 4) c 0 ((greg s c rs1).setWidth 16)) ∧
    (At s c (wordD 0x28 6 0 0 0 0) none → Ends (.fence c) s fun t => t = moved s c 4) ∧
    (∀ (r : Nat) (m : BitVec 32) (u : Nat), x.waits = .event r m (some u) → u ≤ s.now →
      Ends (.waitTimeout c) s fun t =>
        t = setCtx s c { x with
          regs := if r = 0 then x.regs else x.regs.set r ((x.ev &&& m).setWidth 64), ev := x.ev &&& ~~~m, waits := .none, st := 1 }) ∧
    (∀ (u : Nat), x.timer = some u → u ≤ s.now →
      Ends (.timerExpire c) s fun t => t = raiseEvent (setCtx s c { x with timer := none }) c 5 0)

/-- R322, R323: a processor starts the entry at the head of its queue in the context that SUPER selects. R322, R334: a program that ends:
its context is idle, the entry's completion fields are written and its DONE is set. R324: a word that is no instruction ends its program
with ILLEGAL_INSTRUCTION, recorded with its address. -/
def Obligations.ProgramsStartAndEnd : Prop :=
  (∀ (s : State) (p : Fin 4), Sized s →
    let q := nth {} s.raler.pq p
    let a := q.base + 32 * (q.head.toNat % 2 ^ q.size)
    let e := leNat (Mem.readN s.cm a 32)
    let c := 2 * p.val + (if e.testBit 23 then 1 else 0)
    isReady s = true → p.val ∉ s.raler.out → q.head ≠ q.tail → q.head ∉ q.begun → (getCtx s c).st = 0 →
      ((e % 4 = 0 ∧ e / 2 ^ 25 % 2 ^ 7 = 0 ∧ e / 2 ^ 248 % 2 ^ 8 = 0 ∧
          (if e.testBit 23 then 0x600000 ≤ e % 2 ^ 23 else e % 2 ^ 23 < 0x600000 ∧ s.jobc.st = 1)) →
        Ends (.programStart p) s fun t =>
          getCtx t c = { pc := e % 2 ^ 23, lastPc := e % 2 ^ 23, st := 1, tag := BitVec.ofNat 32 (e / 2 ^ 32)
                         regs := [0, BitVec.ofNat 64 (e / 2 ^ 64), BitVec.ofNat 64 (e / 2 ^ 128), BitVec.ofNat 64 c] ++ List.replicate 28 0
                         ticket := (getCtx s c).ticket, regStatus := (getCtx s c).regStatus
                         entry := q.head.toNat, prog := s.raler.progs + 1 } ∧
          (∀ d : Ctx, d.val ≠ c → getCtx t d = getCtx s d) ∧ t = { s with raler := t.raler }) ∧
      (e % 4 ≠ 0 → Ends (.programStart p) s fun t =>
        (∀ d : Ctx, getCtx t d = getCtx s d) ∧
        t.cm = Mem.writeN s.cm (a + 24) (leBytes 7 (0x0924 + 2 ^ 32)) ∧ t = { s with raler := t.raler, cm := t.cm, hosts := t.hosts })) ∧
  (∀ (s : State) (c : Ctx) (status user : Status), Sized s → (getCtx s c).st ≠ 0 →
    let x := getCtx s c
    let q := nth {} s.raler.pq (c.val / 2)
    let a := q.base + 32 * (x.entry % 2 ^ 32 % 2 ^ q.size)
    let t := endProgram s c status user
    (getCtx t c).st = 0 ∧ (getCtx t c).timer = none ∧ (∀ d : Ctx, d ≠ c → getCtx t d = getCtx s d) ∧
    t.cm = Mem.writeN s.cm (a + 24) (leBytes 7 (status.toNat + user.toNat * 2 ^ 16 + 2 ^ 32 + x.lastPc % 2 ^ 23 * 2 ^ 33)) ∧
    t = { s with raler := t.raler, cm := t.cm, hosts := t.hosts } ∧
    (programFault s c status) = { endProgram s c status 0 with
      recs := (programFault s c status).recs, hosts := (programFault s c status).hosts }) ∧
  (∀ (s : State) (c : Ctx) (w : Nat), Sized s → At s c w none →
    (∀ op ∈ [0x0C, 0x0D, 0x0E, 0x0F, 0x22, 0x27, 0x29, 0x2F, 0x38, 0x3F], w = op * 2 ^ 26 →
      Ends (.illegalInstruction c) s fun t => t = programFault (moved s c 0) c 0x0920) ∧
    (∀ fn ∈ [14, 15, 1023], w = fn → Ends (.illegalInstruction c) s fun t => t = programFault (moved s c 0) c 0x0920))

/-- R330: while no job exists every device operation but SAVE and RESTORE is refused at issue with NO_JOB, and nothing is done. R164,
R165, R330: MAP, UNMAP, PROMOTE and DEMOTE are accepted, and an accepted MAP completes. -/
def Obligations.RefusedWithoutJob : Prop :=
  (∀ (s : State) (c : Ctx) (rd rs1 rs2 rs3 : GReg), Sized s → s.jobc.st = 0 ∨ s.jobc.st = 6 →
    ∀ p ∈ ([(wordD 0x30 0 rd rs1 0 0, .creg c rd rs1), (wordD 0x30 1 rd rs1 0 0, .cload c rd rs1), (wordD 0x30 2 rd 0 0 0, .cswap c rd),
        (wordD 0x30 3 rd rs1 0 0, .crel c rd rs1), (wordD 0x31 0 rd rs1 0 0, .arm c rd rs1), (wordD 0x31 1 rd rs1 rs2 rs3, .rearm c rd rs1 rs2 rs3 none),
        (wordD 0x31 2 rd rs1 0 0, .resume c rd rs1), (wordD 0x31 3 rd rs1 rs2 0, .flip c rd rs1 rs2), (wordD 0x32 0 rd rs1 0 0, .wopen c rd rs1),
        (wordD 0x32 1 rd rs1 rs2 0, .wclose c rd rs1 rs2), (wordD 0x32 2 rd rs1 rs2 rs3, .wbind c rd rs1 rs2 rs3),
        (wordD 0x32 3 rd rs1 rs2 0, .sbind c rd rs1 rs2), (wordD 0x33 0 rd rs1 rs2 rs3, .mapPages c rd rs1 rs2 rs3),
        (wordD 0x33 1 rd rs1 rs2 0, .unmap c rd rs1 rs2), (wordD 0x33 2 rd rs1 rs2 0, .promote c rd rs1 rs2),
        (wordD 0x33 3 rd rs1 rs2 0, .demote c rd rs1 rs2), (wordD 0x33 4 rd rs1 rs2 0, .sbase c rd rs1 rs2),
        (wordD 0x35 0 rd rs1 rs2 0, .admitRequest c rd rs1 rs2), (wordD 0x35 1 rd rs1 rs2 rs3, .round c rd rs1 rs2 rs3),
        (wordD 0x35 2 rd rs1 rs2 0, .cancel c rd rs1 rs2), (wordD 0x36 0 rd rs1 rs2 rs3, .msend c rd rs1 rs2 rs3),
        (wordD 0x36 1 rd rs1 0 0, .mrecv c rd rs1)] : List (Nat × Instr)),
      At s c p.1 none → Ends p.2 s fun t => t = wrote s c rd 0x0929 4) ∧
  (∀ (s : State) (c : Ctx) (rd rs1 rs2 rs3 : GReg), Sized s → s.jobc.st = 1 →
    let p := (greg s c rs1).toNat
    let k := (greg s c rs2).toNat
    let n := ticketAfter s c
    let queued := fun u => putResult (setCtx u c { getCtx u c with ticket := n }) c rd (n.toNat * 2 ^ 16)
    (At s c (wordD 0x33 0 rd rs1 rs2 rs3) none → p + k ≤ 2 ^ 27 → p < 2 ^ 27 → (greg s c rs3).toNat = 2 →
        (∀ i < k, (getPage s (p + i)).st = .unmapped) → s.tiers.maps = [] → s.tiers.pages.length + k ≤ maxMapped →
      Ends (.mapPages c rd rs1 rs2 rs3) s fun t =>
        t = { issued s c rd n 0 with tiers := { s.tiers with maps := [⟨p, k, 2, s.jobc.id, opOf s c⟩] } }) ∧
    (At s c (wordD 0x33 0 rd rs1 rs2 rs3) none → p + k ≤ 2 ^ 27 → p < 2 ^ 27 → (greg s c rs3).toNat ≤ 2 → k ≠ 0 → (getPage s p).st ≠ .unmapped →
      Ends (.mapPages c rd rs1 rs2 rs3) s fun t => t = wrote s c rd 0x0315 4) ∧
    (At s c (wordD 0x33 1 rd rs1 rs2 0) none → p < 2 ^ 27 → k = 1 → pageMine s p = true → isPinned s p = false →
      Ends (.unmap c rd rs1 rs2) s fun t => t = putResult (recheckFreed (moved s c 4) (kickMoves (unmapPage (moved s c 4) p))) c rd 0) ∧
    (At s c (wordD 0x33 2 rd rs1 rs2 0) none → p < 2 ^ 27 → k = 1 → pageMine s p = true → (∀ m ∈ s.tiers.moves, m.page ≠ p) →
        overReserved s false 1 = false → ∀ f, (getPage s p).st = .vat f →
      Ends (.promote c rd rs1 rs2) s fun t =>
        t = queued (kickMoves { moved s c 4 with tiers := { s.tiers with
          moves := s.tiers.moves ++ [{ page := p, toVat := false, job := s.jobc.id, forOp := some (opOf s c) }] } })) ∧
    (At s c (wordD 0x33 3 rd rs1 rs2 0) none → p < 2 ^ 27 → k = 1 → pageMine s p = true → (∀ m ∈ s.tiers.moves, m.page ≠ p) →
        overReserved s true 1 = false → ∀ f, (getPage s p).st = .near f →
      Ends (.demote c rd rs1 rs2) s fun t =>
        t = queued (kickMoves { moved s c 4 with tiers := { s.tiers with
          moves := s.tiers.moves ++ [{ page := p, toVat := true, job := s.jobc.id, forOp := some (opOf s c) }] } })) ∧
    (∀ (d : Ctx) (m : MapOp) (q : Nat), s.tiers.maps = [m] → m.op.ctx = d → m.first = q → m.tier = 2 → m.count = 1 →
      Ends (.mapComplete d m.op.ticket) s fun t =>
        t = opDone { s with tiers := { s.tiers with maps := [], pages := Tbl.set {} s.tiers.pages q { st := .absent none, job := m.job } } } m.op 0))

/-- R144, R145, R154: CREG, CLOAD, CSWAP and CREL take effect. R172, R173, R175, R178, R100: ARM, REARM, RESUME, SBASE and FLIP take
effect. -/
def Obligations.ConfigurationAndStreamOperations : Prop :=
  (∀ (s : State) (c : Ctx) (rd rs1 : GReg), Sized s → s.jobc.st = 1 →
    let a := (greg s c rs1).toNat
    let ch := s.job.churn
    let n := ticketAfter s c
    (At s c (wordD 0x30 0 rd rs1 0 0) none → a < 2 ^ 48 → a % 4096 = 0 → (∃ i, i < 64 ∧ (getImg s i).st = 0) →
      Ends (.creg c rd rs1) s fun t => ∃ i ∈ List.range 64, (getImg s i).st = 0 ∧ (getImg t i).st = 1 ∧ (getImg t i).addr = a ∧
        (getImg t i).forOp = { opOf s c with imm := BitVec.ofNat 16 i } ∧ (∀ j ∈ List.range 64, j ≠ i → getImg t j = getImg s j) ∧
        t = { issued s c rd n i with
          free := s.free + 1, job := { s.job with churn := { ch with images := t.job.churn.images } } }) ∧
    (At s c (wordD 0x30 1 rd rs1 0 0) none → a < 64 → (getImg s a).st = 2 → ch.shadow.st = 0 → ch.shadow.recs = [] → ch.wave.active = false →
      Ends (.cload c rd rs1) s fun t =>
        t = { issued s c rd n 0 with job := { s.job with churn := { ch with
          shadow := { st := 1, slot := a, forOp := opOf s c, waiting := ch.shadow.waiting } } } }) ∧
    (At s c (wordD 0x30 1 rd rs1 0 0) none → a < 64 → (getImg s a).st ≠ 2 → Ends (.cload c rd rs1) s fun t => t = wrote s c rd 0x0112 4) ∧
    (At s c (wordD 0x30 2 rd 0 0 0) none → ch.shadow.st = 2 → ch.shadow.waiting = none → ch.wave.active = false →
        footprintBad s ch.shadow.recs = none →
      Ends (.cswap c rd) s fun t => t = { issued s c rd n 0 with job := { s.job with churn := { ch with
        shadow := { ch.shadow with st := 3 }
        wave := { active := true, first := !ch.baseValid, start := s.now, forOp := opOf s c }
        committed := 0, changed := ch.shadow.changed.length } } }) ∧
    (At s c (wordD 0x30 2 rd 0 0 0) none → ch.shadow.st = 0 → Ends (.cswap c rd) s fun t => t = wrote s c rd 0x0113 4) ∧
    (At s c (wordD 0x30 3 rd rs1 0 0) none → a < 64 → (getImg s a).st = 3 →
      Ends (.crel c rd rs1) s fun t =>
        t = { wrote s c rd 0 4 with job := { s.job with churn := { ch with images := ch.images.set a {} } } }) ∧
    (At s c (wordD 0x30 3 rd rs1 0 0) none → a < 64 → (getImg s a).st = 1 → Ends (.crel c rd rs1) s fun t => t = wrote s c rd 0x0004 4)) ∧
  (∀ (s : State) (c : Ctx) (rd rs1 rs2 rs3 : GReg), Sized s → s.jobc.st = 1 →
    let d := (greg s c rs1).toNat
    let b := (greg s c rs2).toNat
    let x := getStr s d
    let put := fun (v : Stream) => { s.job with streams := Tbl.set {} s.job.streams d v }
    (At s c (wordD 0x31 0 rd rs1 0 0) none → d < 2048 → (strDesc s d).enable = true → x.st = 0 ∨ x.st = 4 →
      Ends (.arm c rd rs1) s fun t => t = { wrote s c rd 0 4 with job := put { x with st := 1, pos := 0, took := x.took ++ [(x.addr, x.off)], ready := s.now } }) ∧
    (At s c (wordD 0x31 0 rd rs1 0 0) none → d < 2048 → (strDesc s d).enable = true → x.st ≠ 0 → x.st ≠ 4 →
      Ends (.arm c rd rs1) s fun t => t = wrote s c rd 0x0004 4) ∧
    (At s c (wordD 0x31 1 rd rs1 rs2 0) none → d < 2048 → (strDesc s d).enable = true → (strDesc s d).persist = true →
        b % 64 = 0 → b < 2 ^ 48 →
      (x.st = 0 → Ends (.rearm c rd rs1 rs2 0 none) s fun t =>
        t = { wrote s c rd 0 4 with job := put { x with st := 1, pos := 0, addr := b, took := x.took ++ [(b, x.off)], ready := s.now } }) ∧
      (x.st ≠ 0 → x.shadow = none → Ends (.rearm c rd rs1 rs2 0 none) s fun t =>
        t = { wrote s c rd 0 4 with job := put { x with shadow := some (b, x.off) } })) ∧
    (At s c (wordD 0x31 1 rd rs1 rs2 rs3 + 2 ^ 25) (some 1) → d < 2048 → (strDesc s d).enable = true → (strDesc s d).persist = true →
        b % 64 = 0 → b < 2 ^ 48 → (greg s c rs3).toNat % 64 = 0 → (greg s c rs3).toNat < 2 ^ 21 → x.st = 0 →
      Ends (.rearm c rd rs1 rs2 rs3 (some 1)) s fun t =>
        t = { wrote s c rd 0 8 with job := put { x with
          st := 1, pos := 0, addr := b, off := (greg s c rs3).toNat, took := x.took ++ [(b, (greg s c rs3).toNat)], ready := s.now } }) ∧
    (At s c (wordD 0x31 2 rd rs1 0 0) none → d < 2048 → x.st = 3 → strMeet s d x.pos = .word →
      Ends (.resume c rd rs1) s fun t => t = { wrote s c rd 0 4 with job := put { x with st := 2, quiet := true } }) ∧
    (At s c (wordD 0x31 2 rd rs1 0 0) none → d < 2048 → x.st ≠ 3 → Ends (.resume c rd rs1) s fun t => t = wrote s c rd 0x0001 4) ∧
    (At s c (wordD 0x33 4 rd rs1 rs2 0) none → d < 16 → b < 2 ^ 27 →
      Ends (.sbase c rd rs1 rs2) s fun t => t = { wrote s c rd 0 4 with job := { s.job with sbase := s.job.sbase.set d b } }) ∧
    (At s c (wordD 0x31 3 rd rs1 rs2 0) none → d < 512 → b < 8 →
      let g := region (getRec s d).mu b
      let m := (getCell s d).mu
      ((g.valid = true ∧ g.double = true) → Ends (.flip c rd rs1 rs2) s fun t =>
        t = setMu (wrote s c rd 0 4) d { m with flipQ := m.flipQ ++ [⟨1#8 <<< b, (getQ (getCell s d) (locKey 2 5)).length, false⟩] }) ∧
      (¬ (g.valid = true ∧ g.double = true) → Ends (.flip c rd rs1 rs2) s fun t => t = wrote s c rd 0x030A 4)))

/-- R102, R105, R262, R302: WOPEN, WCLOSE, WBIND and SBIND take effect. -/
def Obligations.WindowOperations : Prop :=
  ∀ (s : State) (c : Ctx) (rd rs1 rs2 rs3 : GReg), Sized s → s.jobc.st = 1 →
    let a := (greg s c rs1).toNat
    let b := (greg s c rs2).toNat
    let e := (greg s c rs3).toNat
    let area := if c.val % 2 = 1 then 0x800000 else 0x600000
    (At s c (wordD 0x32 0 rd rs1 0 0) none → a + 16 ≤ area →
      let v := leNat (Mem.readN s.cm a 16)
      let cell := v % 2 ^ 9
      let r := v / 2 ^ 9 % 2 ^ 3
      let base := v / 2 ^ 12 % 2 ^ 12
      let units := v / 2 ^ 24 % 2 ^ 12
      let flip := v.testBit 44
      let g := region (getRec s cell).mu r
      let at0 := regionBase g false + 512 * base
      let at1 := regionBase g true + 512 * base
      ∀ w : Win, v / 2 ^ 45 = 0 → units ≠ 0 → jobPart s = some (v / 2 ^ 36 % 2 ^ 8) →
        g.valid = true → g.windowOk = true → g.kind = 0 → flip = g.double → 512 * (base + units) ≤ regionSize g →
        (∀ u : Win, (getWin s u).opened = true → (getWin s u).cell = cell →
          ∀ x ∈ [at0, at1], ∀ y ∈ [(getWin s u).at0, (getWin s u).at1], x + 512 * units ≤ y ∨ y + 512 * (getWin s u).units ≤ x) →
        (getWin s w).opened = false → (∀ u : Win, u < w → (getWin s u).opened = true) →
          let old := getWin s w
          Ends (.wopen c rd rs1) s fun t => t = setWin (wrote s c rd (BitVec.ofNat 64 (w.val * 2 ^ 16 + (old.gen + 1).toNat * 2 ^ 22)) 4) w
            { opened := true, gen := old.gen + 1, cell := cell, region := r, baseUnit := base, units := units
              at0 := at0, at1 := at1, part := BitVec.ofNat 8 (v / 2 ^ 36), flip := flip, free := units, job := s.jobc.id
              wd := { enable := old.wd.enable, senders := old.wd.senders, token := old.wd.token } }) ∧
    (At s c (wordD 0x32 1 rd rs1 rs2 0) none → a < 64 → b < 256 →
      let v := getWin s a
      v.opened = true → v.closing = false → v.gen.toNat = b → winHere s v = true →
        Ends (.wclose c rd rs1 rs2) s fun t =>
          (getWin t a).closing = true ∧ (getWin t a).closeAt = s.now ∧ (getWin t a).closeFor = v.closeFor ++ [opOf s c] ∧
          greg t c rd = if rd = 0 then 0 else BitVec.ofNat 64 ((ticketAfter s c).toNat * 2 ^ 16)) ∧
    (At s c (wordD 0x32 2 rd rs1 rs2 rs3) none → a < 1024 → b < 64 → e < 256 →
      let sec := s.job.churn.tables.ladle
      (a < ladQueues sec → ladMember sec a < (jobPt s).elim 0 boxSize →
        Ends (.wbind c rd rs1 rs2 rs3) s fun t => t = setBind (wrote s c rd 0 4) a
          { bound := true, win := b, gen := BitVec.ofNat 8 e, member := ladMember sec a }) ∧
      (ladQueues sec ≤ a → Ends (.wbind c rd rs1 rs2 rs3) s fun t => t = wrote s c rd 0x0707 4)) ∧
    (At s c (wordD 0x32 3 rd rs1 rs2 0) none → a < 64 → b + 8 ≤ area →
      let v := leNat (Mem.readN s.cm b 8)
      let units := v / 2 ^ 15 % 2 ^ 12
      v.testBit 0 = false → v / 2 ^ 61 = 0 → 1 ≤ units → units ≤ 3072 → (getSender s a).credit = 0 → (∀ k ∈ s.job.asks, k.who ≠ .sender a) →
        Ends (.sbind c rd rs1 rs2) s fun t =>
          t = setSender (wrote s c rd 0 4) a { cfg := BitVec.ofNat 64 v, sends := (getSender s a).sends }) ∧
    (At s c (wordD 0x32 3 rd rs1 rs2 0) none → a < 64 → b + 8 ≤ area → leNat (Mem.readN s.cm b 8) / 2 ^ 15 % 2 ^ 12 = 0 →
      Ends (.sbind c rd rs1 rs2) s fun t => t = wrote s c rd 0x0001 4)

/-- R363, R350: a change of the power state puts the lowest frequency that a limiter sets in force, signals vector 11 where a limiter, a
reference, the thermal state or IN_RATING changed, and changes nothing else. R363, R372, R376, R377, R379: what the droop, the warning,
the trip and the low-input limiters do. -/
def Obligations.ClockInForce : Prop :=
  (∀ (s : State) (p : Power),
    let t := setPower s p
    t.power.fabric = (if p.trip then 800 else min (min p.capFreq (if p.inputLow then 1600 else 2100)) (min p.droopFreq p.warnFreq)) ∧
    (p.trip = true → t.power.fabric = 800) ∧
    (p.trip = false → 1600 ≤ p.capFreq → 1600 ≤ p.droopFreq → 1600 ≤ p.warnFreq → 1600 ≤ t.power.fabric ∧ t.power.fabric ≤ p.capFreq) ∧
    t.hosts = (if limitBits p = limitBits s.power ∧ refBits p = refBits s.power ∧ p.thermState = s.power.thermState ∧
      p.inRating = s.power.inRating then s.hosts else s.hosts.map fun h => msixRaise s.now h 11) ∧
    t = { s with power := { p with
      fabric := t.power.fabric, peakSince := t.power.peakSince, peakPp := t.power.peakPp, tripSince := t.power.tripSince
      tripPp := t.power.tripPp, droopSince := t.power.droopSince, stretchPp := t.power.stretchPp }, hosts := t.hosts }) ∧
  (∀ (s : State) (n : Fin 5) (src : Sensor) (c : Nat) (dv : BitVec 12), s.boot.powered = true → s.boot.shut = false →
    let p := s.power
    let k := sensorNo src
    (1600 < p.fabric → Ends (.droop n) s fun t => t = setPower s { p with
      droops := p.droops + 1, droopFreq := max 1600 (min p.droopFreq p.fabric - 25 * n.val), droopAt := s.now }) ∧
    (p.fabric ≤ 1600 → Ends (.droop n) s fun t => t = setPower s { p with droops := p.droops + 1, droopAt := s.now }) ∧
    (p.droopFreq < 2100 → p.droopAt + 10 * us ≤ s.now → Ends .droopRecover s fun t =>
      t = setPower s { p with droopFreq := min 2100 (p.droopFreq + 25), droopAt := s.now }) ∧
    (∀ w, warnAbove k = some w → s.boot.stage ≠ 1 → w < c → nth 0 p.maxC k ≤ w → p.warnFreq = 2100 → 1600 ≤ p.fabric → p.thermState = 0 →
      Ends (.thermalWarn src c) s fun t => t = setPower (ptRecord s 0x0A06 k) { p with
        maxC := p.maxC.set k (min 255 c), warns := p.warns + 1, thermState := 1, thermSource := k
        warnFreq := max 1600 (min 2100 p.fabric - 25), warnAt := s.now }) ∧
    (∀ w, warnAbove k = some w → s.boot.stage ≠ 1 → w < c → w < nth 0 p.maxC k → p.warnFreq < 2100 → s.now < p.warnAt + 100 * us →
      Ends (.thermalWarn src c) s fun t => t = setPower s { p with maxC := p.maxC.set k (min 255 c) }) ∧
    (s.boot.stage ≠ 1 → tripAbove k < c → p.trip = false → Ends (.thermalTrip src c) s fun t =>
      t = setPower (ptRecord s 0x0A07 k) { p with maxC := p.maxC.set k (min 255 c), trip := true, tripAt := s.now
                                                  trips := min 65535 (p.trips + 1), thermState := 2, thermSource := k } ∧
      t.power.fabric = 800) ∧
    (p.trip = true → p.tripAt + 100 * ms ≤ s.now → Ends .thermalRecover s fun t =>
      t.power.trip = false ∧ t.power.capFreq = 1600 ∧ t.power.fabric ≤ 1600 ∧ t.power.warnFreq = p.warnFreq ∧
      t = { s with power := t.power, hosts := t.hosts, free := t.free }) ∧
    (p.trip = false → p.warnFreq < 2100 → p.warnAt + ms ≤ s.now → Ends .thermalRecover s fun t =>
      t.power.warnFreq = min 2100 (p.warnFreq + 25) ∧ t.power.warnAt = s.now ∧
      t = { s with power := t.power, hosts := t.hosts, free := t.free }) ∧
    (360 ≤ dv.toNat → dv.toNat < 400 → p.inputLow = false → Ends (.inputLow dv) s fun t =>
      t = setPower (ptRecord { s with cap := { s.cap with inputDv := dv.toNat } } 0x0A0A 0) { p with inputLow := true } ∧ t.power.fabric ≤ 1600) ∧
    (400 ≤ dv.toNat → Ends (.inputRestored dv) s fun t =>
      t = setPower { s with cap := { s.cap with inputDv := dv.toNat } } { p with inputLow := false }))

/-- R361, R362: the loss and the return of the reference clocks. A lost REFCLK_MGMT is recorded as REFCLK_LOST and its clocks hold over; a
lost REFCLK_LINK takes every port's link down, a lost host reference the links of its port's two slots. R374, R379: coolant in and out of
the rating, and an input above 60 V: no limiter acts. -/
def Obligations.ReferenceClocksAndSupply : Prop :=
  (∀ (s : State) (h : Fin 2),
    (s.power.refMgmt = true → s.boot.powered = true → Ends .refclkLost s fun t =>
      t.power.refMgmt = false ∧ t.power.holdover = true ∧ t.power.fabric = fabricOf s.power ∧
      t.recs = { s.recs with pwr := recNote s.recs.pwr 0x0A05 0 0, pt := recNote s.recs.pt 0x0A05 0 0 } ∧
      t = { s with power := t.power, recs := t.recs, hosts := t.hosts, mgmt := t.mgmt }) ∧
    (Ends .refclkRelock s fun t => t = setPower s { s.power with refMgmt := true, holdover := false }) ∧
    (Ends .refclkLinkLost s fun t => t = (List.range 8).foldl (fun u p => linkDown u p .refclk)
      (setPower s { s.power with refLink := false })) ∧
    (Ends .refclkLinkRelock s fun t => t = setPower s { s.power with refLink := true }) ∧
    (Ends (.refclkHostLost h) s fun t =>
      t = slotLinkDown (slotLinkDown (setPower s { s.power with refHost := s.power.refHost.set h.val false }) (2 * h.val)) (2 * h.val + 1)) ∧
    (Ends (.refclkHostRelock h) s fun t => t = setPower s { s.power with refHost := s.power.refHost.set h.val true })) ∧
  (∀ (s : State) (inlet outlet flow dv : BitVec 12), s.boot.powered = true →
    let ok := 200 ≤ inlet.toNat ∧ inlet.toNat ≤ 400 ∧ 200 ≤ flow.toNat
    let p := { s.power with inlet := inlet.toNat, outlet := outlet.toNat, flow := flow.toNat }
    (¬ ok → Ends (.coolantOutOfRating inlet outlet flow) s fun t => t = setPower (ptRecord s 0x0A09 0) { p with inRating := false }) ∧
    (ok → Ends (.coolantInRating inlet outlet flow) s fun t => t = setPower s { p with inRating := true }) ∧
    (600 < dv.toNat → Ends (.inputHigh dv) s fun t => t = ptRecord { s with cap := { s.cap with inputDv := dv.toNat } } 0x0A0B 0) ∧
    (∀ (code : Status) (k : Nat), (ptRecord s code k).recs =
      { s.recs with pwr := recNote s.recs.pwr code 0 0, pt := recNote s.recs.pt code (2 ^ 17 * k) 0 }))

/-- R367, R368, R370: PWR_CAP, its timeout and FASTCAP_N: the cap a request gives is between 1,350 W and 1,900 W, and the lower of the two
requests is in force while FASTCAP_N is asserted. R369, R370: the control loop lowers the clock below step `k` to the highest step whose
prediction is at most 98% of the cap, and otherwise raises its limit by one step where that prediction fits; a fast-cap step does the
first at once. -/
def Obligations.PowerCaps : Prop :=
  (∀ (s : State) (v : Word), s.boot.powered = true →
    let w := v.toNat
    let cap := w % 2 ^ 12
    let armed := w / 2 ^ 16 % 2 ^ 12
    (∀ q : Nat, 1350 ≤ capTaken q ∧ capTaken q ≤ 1900 ∧ (1350 ≤ q → q ≤ 1900 → capTaken q = q)) ∧
    (∀ c : PwrCap, capInForce c = if c.fastcap then min (capTaken c.cap) (capTaken c.armed) else capTaken c.cap) ∧
    (Ends (.pwrCapWrite v) s fun t =>
      t.cap = { s.cap with cap := cap, armed := armed, timeoutMs := w / 2 ^ 32 % 2 ^ 16, fallback := w / 2 ^ 48 % 2 ^ 12
                           lastWrite := s.now, fellBack := false
                           denied := decide (cap < 1350) || decide (armed < 1350)
                           clamped := decide (1900 < cap) || decide (1900 < armed)
                           denials := s.cap.denials + ((if cap < 1350 then 1 else 0) + if armed < 1350 then 1 else 0) } ∧
      (1350 ≤ cap → 1350 ≤ armed → cap ≤ 1900 → armed ≤ 1900 → t = { s with cap := t.cap }) ∧
      (cap < 1350 → cap ≤ 1900 → armed ≤ 1900 → t.recs = { s.recs with pwr := recNote s.recs.pwr 0x0A01 0 0 }) ∧
      (1350 ≤ cap → 1350 ≤ armed → 1900 < cap → t.recs = { s.recs with pwr := recNote s.recs.pwr 0x0A02 0 0 }) ∧
      t = { s with cap := t.cap, recs := t.recs, mgmt := t.mgmt }) ∧
    (s.cap.timeoutMs ≠ 0 → s.cap.fellBack = false → s.cap.lastWrite + s.cap.timeoutMs * ms ≤ s.now → 1350 ≤ s.cap.armed →
        s.cap.armed ≤ 1900 → 1350 ≤ s.cap.fallback → s.cap.fallback ≤ 1900 → Ends .capTimeout s fun t =>
      t = { notePwr s 0x0A04 with cap := { s.cap with cap := s.cap.fallback, fellBack := true, denied := false, clamped := false } }) ∧
    (s.cap.fastcap = true → Ends .fastcapRelease s fun t =>
      t = { s with cap := { s.cap with fastcap := false, inForce := capTaken s.cap.cap } })) ∧
  (∀ (s : State) (r : PowerReading), s.boot.powered = true → s.boot.shut = false → r.predicted.length = 21 →
    let cap := capInForce s.cap
    let k := (s.power.fabric - 1600) / 25
    let j := (s.power.capFreq - 1600) / 25
    let fits := fun c n => nth 0 r.predicted n * 100 ≤ c * 98
    (s.cap.evalAt = none ∨ (∃ e, s.cap.evalAt = some e ∧ e + 20 * us ≤ s.now)) →
      (∀ n < k, cap < r.mean ∨ cap < nth 0 r.predicted k → fits cap n → (∀ m < k, n < m → ¬ fits cap m) →
        Ends (.capLoopEvaluation r) s fun t => t.power.capFreq = 1600 + 25 * n ∧ t.power.capLim = decide (1600 + 25 * n < 2100) ∧
          t.cap.inForce = cap ∧ t.cap.mean = r.mean ∧ t = { s with power := t.power, cap := t.cap, hosts := t.hosts }) ∧
      (r.mean ≤ cap → nth 0 r.predicted k ≤ cap → s.power.capFreq < 2100 → fits cap (j + 1) →
        Ends (.capLoopEvaluation r) s fun t => t.power.capFreq = s.power.capFreq + 25 ∧ t.cap.inForce = cap ∧
          t = { s with power := t.power, cap := t.cap, hosts := t.hosts }) ∧
      (r.mean ≤ cap → nth 0 r.predicted k ≤ cap → ¬ fits cap (j + 1) →
        Ends (.capLoopEvaluation r) s fun t => t.power.capFreq = s.power.capFreq) ∧
    (isReady s = true → s.cap.fastcap = false → ∀ n < 21,
      let low := min (capTaken s.cap.cap) (capTaken s.cap.armed)
      fits low n → (∀ m < 21, n < m → ¬ fits low m) →
        Ends (.fastCapStep r) s fun t => t.cap = { s.cap with fastcap := true, inForce := low, steps := s.cap.steps + 1 } ∧
          t.power.capFreq = min s.power.capFreq (1600 + 25 * n) ∧
          t.recs = { s.recs with pwr := recNote s.recs.pwr 0x0A03 0 0 } ∧
          t = { s with power := t.power, cap := t.cap, recs := t.recs, hosts := t.hosts, mgmt := t.mgmt }))

/-- R385, R388, R395: a cold power-up reads the pins; the firmware copy of the higher accepted security version boots, and training
begins; without one the bring-up ends in FAILED with CAUSE 1. R379, R395, R440: a module that loses its power, by MOD_EN, its input or a
brown-out, keeps what the fuses and the store's system area hold, and loses control memory, jobs, device memory, windows and records. -/
def Obligations.PowerUpAndLoss : Prop :=
  (∀ (s : State) (x : Straps) (a b : Nat × BitVec 32), s.boot.powered = false → s.boot.stage = 1 →
    let on := { s with
      boot := { s.boot with powered := true, modEn := true, cold := s.boot.cold + 1 }
      panel := { s.panel with split0 := x.split0, split1 := x.split1 } }
    let port := { s.mgmt with addr := x.mgmtAddr.val, smbus := x.smbus, dynAddr := none }
    (s.fw.copies = [some a, some b] → s.fw.fusedMin ≤ a.1 → s.fw.fusedMin ≤ b.1 → Ends (.coldPowerUp x) s fun t =>
      t = { on with boot := { on.boot with stage := 3, copyB := decide (a.1 < b.1) }, mgmt := { port with alerts := s.mgmt.alerts + 2 } }) ∧
    (s.fw.copies = [none, some b] → s.fw.fusedMin ≤ b.1 → Ends (.coldPowerUp x) s fun t =>
      t = { on with boot := { on.boot with stage := 3, copyB := true }, mgmt := { port with alerts := s.mgmt.alerts + 2 } }) ∧
    (s.fw.copies = [some a, none] → a.1 < s.fw.fusedMin → Ends (.coldPowerUp x) s fun t =>
      t = { on with boot := { on.boot with stage := 5, cause := 1 }, mgmt := { port with alerts := s.mgmt.alerts + 1 } })) ∧
  (∀ (s : State),
    (s.boot.modEn = true → Ends .modEnDeassert s fun t => t = powerOff { s with boot := { s.boot with modEn := false } }) ∧
    (s.boot.powered = true → Ends .inputLoss s fun t => t = powerOff s) ∧
    (s.boot.powered = true → Ends .brownOut s fun t =>
      t = powerOff { s with free := s.free + 1 } ∨ t = powerOff (notePwr { s with free := s.free + 1 } 0x0A0C)) ∧
    (let t := powerOff s
     t.boot.powered = false ∧ isReady t = false ∧ t.cm = [] ∧ t.jobc = {} ∧ t.job = {} ∧ t.saved = [] ∧ t.tiers = {} ∧ t.recs = {} ∧
     t.own = {} ∧ t.adm = {} ∧ t.wins = List.replicate 64 {} ∧ t.now = 0 ∧
     t.dies = s.dies ∧ t.remapLog = s.remapLog ∧ t.fw.copies = s.fw.copies ∧ t.fw.fusedMin = s.fw.fusedMin ∧
     t.ras.retired = s.ras.retired ∧ t.ras.pool = s.ras.pool ∧ t.ras.age = s.ras.age ∧ t.hours = poweredHours s ∧
     t.sep.dir = (s.sep.dir.filter fun e => e.2.kind ≠ 2) ∧ t.sep.wear = s.sep.wear ∧ t.boot.cold = s.boot.cold ∧ t.boot.warm = s.boot.warm))

/-- R393, R394, R439: a warm reset, requested by either path or by the lever's return, begins in STAGE WARM; what Table 17.3 keeps is kept
by the wipe that follows, and the rest is at its reset value. -/
def Obligations.WarmReset : Prop :=
  ∀ (s : State),
    (∀ pin : Bool, isReady s = true → s.panel.removal ≠ 1 → Ends (.warmReset pin) s fun t => t = warmBegin s) ∧
    (∀ pin : Bool, s.boot.stage ≠ 4 → s.panel.removal = 0 → Ends (.warmReset pin) s fun t => t = s) ∧
    (s.boot.powered = true → s.boot.shut = false → s.panel.removal = 2 → s.panel.byLever = true → s.panel.latchClosed = true →
        s.panel.latchSince + 1000 * ms ≤ s.now → Ends .latchReturn s fun t => t = warmBegin s) ∧
    (let t := warmWipe s
     t.cm = [] ∧ t.jobc = {} ∧ t.job = {} ∧ t.saved = [] ∧ t.tiers = {} ∧ t.own = {} ∧ t.adm = {} ∧ t.raler.ctx = List.replicate 8 {} ∧
     t.now = s.now ∧ t.cap = s.cap ∧ t.mgmt = s.mgmt ∧ t.fw = s.fw ∧ t.recs = { pwr := s.recs.pwr } ∧ t.dies = s.dies ∧
     t.remapLog = s.remapLog ∧ t.hours = s.hours ∧ t.panel.removal = 0 ∧ t.panel.latchClosed = s.panel.latchClosed ∧
     t.boot.warm = s.boot.warm ∧ t.boot.stage = s.boot.stage ∧ t.ras.pool = s.ras.pool ∧ t.sep.wear = s.sep.wear ∧
     t.hosts.length = s.hosts.length)

/-- R386, R389, R390, R385: READY publishes the first snapshot and advances the fused minimum; a failed item ends in FAILED with its
CAUSE; PERST resets one host port's slots; the end of the Vat's zeroing lets waiting moves and requests go on. -/
def Obligations.BringUp : Prop :=
  ∀ (s : State) (cause : Fin 8) (p : Fin 2), s.boot.powered = true → s.boot.shut = false →
    (s.boot.stage = 3 → s.panel.removal = 0 → s.ras.failedStacks = 0 → Ends .ready s fun t =>
      isReady t = true ∧ t.boot = { s.boot with stage := 4, readyMs := (s.now - s.boot.startAt) / ms } ∧
      (∀ k, nth none s.fw.copies (if s.boot.copyB then 1 else 0) = some k → t.fw = { s.fw with fusedMin := max s.fw.fusedMin k.1 }) ∧
      t.mgmt = { s.mgmt with alerts := s.mgmt.alerts + 1 } ∧
      t.snap.epoch = s.snap.epoch + 1 ∧ t.snap.seq = s.snap.seq + 2 ∧ t.snap.time = BitVec.ofNat 64 s.now ∧
      t = { s with boot := t.boot, fw := t.fw, mgmt := t.mgmt, snap := t.snap, hosts := s.hosts.map fun h => msixRaise s.now h 2 }) ∧
    (s.boot.stage = 3 → 2 ≤ cause.val → cause.val ≠ 5 → Ends (.bringupFailed cause) s fun t =>
      t = { s with boot := { s.boot with stage := 5, cause := cause.val }, mgmt := { s.mgmt with alerts := s.mgmt.alerts + 1 }
                   free := t.free }) ∧
    (s.boot.stage = 3 → s.ras.failedStacks ≠ 0 → Ends (.bringupFailed 5) s fun t =>
      t.boot = { s.boot with stage := 5, cause := 5, stackFail := s.ras.failedStacks }) ∧
    (Ends (.perst p false) s fun t => t = { s with boot := { s.boot with perst := s.boot.perst.set p.val false } }) ∧
    (s.hosts.length = 4 → Ends (.perst p true) s fun t =>
      (∀ n : Slot, n.val / 2 = p.val → (getHost t n).present = false ∧ (getHost t n).pba = 0 ∧ (getHost t n).msix = []) ∧
      t.boot = { s.boot with perst := s.boot.perst.set p.val true } ∧
      t = { s with boot := t.boot, hosts := t.hosts, own := t.own }) ∧
    (s.boot.stage = 4 → s.boot.vatZeroed = false → Ends .vatZeroComplete s fun t =>
      t = recheckAll (kickMoves { s with boot := { s.boot with vatZeroed := true, vatEarly := [] } }))

/-- R434: a firmware update at READY. BEGIN opens it for the copy that did not boot, DATA takes eight bytes, COMMIT accepts the image of
the stated size that verifies, is not older than the fused minimum and is written, and ABORT drops it. -/
def Obligations.FirmwareUpdate : Prop :=
  ∀ (s : State) (size : BitVec 25) (d : Word) (ok : Bool), s.boot.powered = true → s.boot.stage = 4 →
    let x := s.fw
    (x.active = false → size.toNat % 8 = 0 → size.toNat ≤ 2 ^ 24 → Ends (.fwBegin size) s fun t => t = { s with fw := { x with
      status := 0, reject := 0, active := true, target := !s.boot.copyB, size := size.toNat, data := [] } }) ∧
    (x.active = true → Ends (.fwBegin size) s fun t => t = { s with fw := { x with status := 0x0004, reject := 0 } }) ∧
    (x.active = true → x.data.length + 8 ≤ x.size → Ends (.fwData d) s fun t =>
      t = { s with fw := { x with data := x.data ++ leBytes 8 d.toNat } }) ∧
    (x.active = true →
      let new := some (Config.fwSecurityVersion x.data, Config.fwVersion x.data)
      Ends (.fwCommit ok) s fun t =>
        t = (if x.data.length ≠ x.size then { s with fw := { x with active := false, status := 0x0001, reject := 3 } }
          else if Config.fwSignatureOk x.data = false then { s with fw := { x with active := false, status := 0x0001, reject := 1 } }
          else if Config.fwSecurityVersion x.data < x.fusedMin then { s with fw := { x with active := false, status := 0x0001, reject := 2 } }
          else if ok = false then { s with fw := { x with active := false, status := 0x0001, reject := 4 } }
          else { s with fw := { x with
            active := false, status := 0, reject := 0, copies := x.copies.set (if x.target then 1 else 0) new } })) ∧
    (Ends .fwAbort s fun t => t = { s with fw := { x with active := false, data := [], status := 0, reject := 0 } })

/-- R432, R433: a write transfer of the management port writes one register; one with a bad PEC under SMBus, a length other than eight or
an offset that is no multiple of eight is discarded, as a write of a register without writable fields is. R435 to R439, R441: the button,
the latch, LOCATE, and what starts a warned removal. -/
def Obligations.ManagementAndPanel : Prop :=
  (∀ (s : State) (d : List Byte) (ok : Bool) (a : BitVec 7), s.boot.powered = true →
    let v : Word := BitVec.ofNat 64 (leNat d)
    let good := d.length = 8 ∧ (s.mgmt.smbus = true → ok = true)
    (good → Ends (.mgmtRegisterWrite 0x100 d ok) s fun t => t = pwrCapWrite s v) ∧
    (good → Ends (.mgmtRegisterWrite 0x120 d ok) s fun t =>
      t = { s with recs := { s.recs with pwr := if v.getLsbD 16 then {} else s.recs.pwr } }) ∧
    (good → Ends (.mgmtRegisterWrite 0x180 d ok) s fun t => t = { s with panel := { s.panel with
      mgLocate := v.getLsbD 0, mgEvents := s.panel.mgEvents &&& ~~~(v.extractLsb' 6 4) } }) ∧
    (good → s.fw.active = false → v.toNat % 4 = 0 → Ends (.mgmtRegisterWrite 0x200 d ok) s fun t =>
      t = { s with fw := { s.fw with size := v.toNat / 2 ^ 32 % 2 ^ 25 } }) ∧
    (good → Ends (.mgmtRegisterWrite 0x210 d ok) s fun t => t = fwData s v) ∧
    (∀ off ∈ [0x00, 0x08, 0x10, 0x18, 0x20, 0x40, 0x108, 0x110, 0x118, 0x128, 0x188, 0x208, 0x300],
      Ends (.mgmtRegisterWrite off d ok) s fun t => t = s) ∧
    (∀ off : Nat, off % 8 ≠ 0 ∨ d.length ≠ 8 ∨ (s.mgmt.smbus = true ∧ ok = false) →
      Ends (.mgmtRegisterWrite off d ok) s fun t => t = s) ∧
    (s.mgmt.smbus = false → Ends (.setdasa a) s fun t => t = { s with mgmt := { s.mgmt with dynAddr := some a.toNat } })) ∧
  (∀ (s : State) (on : Bool) (n : Slot), s.boot.powered = true → s.boot.shut = false →
    (s.panel.removal = 0 → Ends .attnShort s fun t => t = panelEvent s 0) ∧
    (s.panel.removal = 0 → Ends .attnLong s fun t => t = removal (panelEvent s 1) false) ∧
    (s.panel.removal = 0 → Ends (.warnedRemoval .button) s fun t => t = removal (panelEvent s 1) false) ∧
    (s.panel.leverMoved = false → s.panel.latchClosed = true → Ends (.warnedRemoval .lever) s fun t =>
      t = removal (panelEvent { panelEvent { s with panel := { s.panel with latchClosed := false, latchSince := s.now } } 3 with
        panel := { (panelEvent { s with panel := { s.panel with latchClosed := false, latchSince := s.now } } 3).panel with leverMoved := true } } 2)
        true) ∧
    (s.boot.shutHeat = true → Ends (.warnedRemoval .thermal) s fun t => t = removal s false) ∧
    ((∃ r ∈ s.ras.rails, 2 ≤ s.ras.rails.count r) → Ends (.warnedRemoval .regulator) s fun t => t = removal s false) ∧
    (s.panel.latchClosed ≠ on → Ends (.latchClosed on) s fun t => t = panelEvent { s with panel := { s.panel with
      latchClosed := on, latchSince := s.now, leverMoved := if on then false else s.panel.leverMoved } } 3) ∧
    (Ends (.locate none on) s fun t => t = { s with panel := { s.panel with mgLocate := on } }) ∧
    (OwnerAnswers s n → Ends (.locate (some n) on) s fun t => t = { s with panel := { s.panel with locate := on } }) ∧
    (s.ring.leaving = true → s.panel.removal = 0 → s.boot.stage = 4 → Ends .leavingDoneSend s fun t => t = leavingDone s) ∧
    (∀ (src : Sensor) (c : Nat), s.boot.stage ≠ 1 → shutAbove (sensorNo src) < c → s.boot.shutHeat = false → s.panel.removal ≠ 2 →
      Ends (.thermalShutdown src c) s fun t =>
        t = removal (ptRecord { setPower s { s.power with maxC := s.power.maxC.set (sensorNo src) (min 255 c) } with
          boot := { s.boot with shutHeat := true } } 0x0A08 (sensorNo src)) false) ∧
    (∀ b : Fin 4, (panelEvent s b).panel.events = s.panel.events ||| 1#4 <<< b.val ∧
      (panelEvent s b).hosts = if s.panel.events.getLsbD b then s.hosts else s.hosts.map fun h => msixRaise s.now h 10))

/-- R445: the order in which a host write to BAR0 is decided, and that it records at most one status. R3, R4, R448: what a write of some
of the registers does: a limit, a record register, a selector, and reserved bits. -/
def Obligations.HostWrites : Prop :=
  (∀ (s : State) (n : Slot) (off width v : Nat), Settled s → (getHost s n).present = true →
    (0x4000000 < off + width → Ends (.hostRegisterWrite n false off width v) s fun t => t = s) ∧
    (off + width ≤ 0x4000000 →
      let wide := width = 8 ∧ off % 8 = 0
      let open_ := isReady s = true ∧ wide ∧ (off < 0x280000 ∨ 0x300000 ≤ off)
      let own := s.own.owned = true ∧ s.own.slot = n
      (isReady s = false → Ends (.hostRegisterWrite n false off width v) s fun t => t = met s n 0x0004 0 off) ∧
      (isReady s = true → ¬ wide → Ends (.hostRegisterWrite n false off width v) s fun t => t = met s n 0x0002 0 off) ∧
      (open_ → regAt s true off = none → Ends (.hostRegisterWrite n false off width v) s fun t => t = met s n 0x0001 0 off) ∧
      (∀ k, open_ → (regAt s true off).isSome = true → regKind off = some (true, k) → ¬ own → Ends (.hostRegisterWrite n false off width v) s fun t => t = met s n 0x0901 0 off) ∧
      (open_ → (regAt s true off).isSome = true → regKind off = none → Ends (.hostRegisterWrite n false off width v) s fun t => t = s) ∧
      (∀ r k, open_ → (regAt s true off).isSome = true → regKind off = some (r, k) → (r = true → own) → ∀ c, (regDo s n off (v &&& k)).1 = some c →
        Ends (.hostRegisterWrite n false off width v) s fun t =>
          t = met (regDo s n off (v &&& k)).2 n c 0 off) ∧
      (∀ r k, open_ → (regAt s true off).isSome = true → regKind off = some (r, k) → (r = true → own) → (regDo s n off (v &&& k)).1 = none →
        Ends (.hostRegisterWrite n false off width v) s fun t => t = if v &&& k = v then (regDo s n off v).2 else met (regDo s n off (v &&& k)).2 n 0x0003 0 off))) ∧
  (∀ (s : State) (n : Slot) (v : Nat), Answers s n →
    let w := fun off => Instr.hostRegisterWrite n false off 8 v
    let own := s.own.owned = true ∧ s.own.slot = n
    (own → 20 ≤ v → v ≤ 1000 → Ends (w 0x400018) s fun t => t = { s with limits := { s.limits with hangUs := v } }) ∧
    (own → 1000 < v → v < 1024 → Ends (w 0x400018) s fun t => t = met s n 0x0001 0 0x400018) ∧
    (v % 2 ^ 17 = 2 ^ 16 → v < 2 ^ 42 → Ends (w 0x402000) s fun t => t = { s with recs := { s.recs with grid := {} } }) ∧
    (v < 2 ^ 42 → v / 2 ^ 16 % 2 = 0 → Ends (w 0x402000) s fun t => t = s) ∧
    (own → v < 2 ^ 12 → Ends (w 0x100300) s fun t => t = { s with tiers := { s.tiers with aperture := v } }) ∧
    (own → v = 3 → Ends (w 0xE00018) s fun t =>
      t = met { s with panel := { s.panel with locate := true } } n 0x0003 0 0xE00018) ∧
    (v < 2 ^ 8 → Ends (w (0x203008 + 0x40 * n.val)) s fun t => t = { s with hosts := s.hosts.set n { getHost s n with rxSel := v } }) ∧
    (Ends (w 0x200000) s fun t => t = s) ∧
    (Ends (w 0xFF0000) s fun t => t = met s n 0x0001 0 0xFF0000) ∧
    (∀ off width : Nat, off + width ≤ 0x4000000 → ¬ ((width = 8 ∧ off % 8 = 0) ∨ (width = 4 ∧ off % 4 = 0)) →
      Ends (.hostRegisterReadBadWidth n false off width) s fun t =>
      t = met { s with hosts := s.hosts.set n { getHost s n with resp := List.replicate width 0 } } n 0x0002 0 off) ∧
    (∀ off width : Nat, (width = 8 ∧ off % 8 = 0) ∨ (width = 4 ∧ off % 4 = 0) → Ends (.hostRegisterReadBadWidth n false off width) s fun t => t = s))

/-- R340: a claim. -/
def Obligations.OwnershipClaim : Prop :=
  ∀ (s : State) (n : Slot) (nonce : Word), Answers s n →
    let won := fun t => t = { s with
      own := { owned := true, slot := n, epoch := s.own.epoch + 1, nonce := nonce, leaseEnd := s.now + 160000000 }
      hosts := s.hosts.map fun h => msixRaise s.now h 1 }
    (nonce = 0 → Ends (.ownClaim n nonce) s fun t => t = met s n 0x0001 0 0x100008) ∧
    (nonce ≠ 0 → s.own.owned = false → Ends (.ownClaim n nonce) s won) ∧
    (nonce ≠ 0 → s.own.owned = true → s.own.slot = n → s.own.nonce = nonce → Ends (.ownClaim n nonce) s fun t =>
      t = { s with own := { s.own with leaseEnd := s.now + 160000000 } }) ∧
    (nonce ≠ 0 → s.own.owned = true → ¬ (s.own.slot = n ∧ s.own.nonce = nonce) → s.own.handover = true → s.own.target = n →
      Ends (.ownClaim n nonce) s won) ∧
    (nonce ≠ 0 → s.own.owned = true → ¬ (s.own.slot = n ∧ s.own.nonce = nonce) → ¬ (s.own.handover = true ∧ s.own.target = n) →
      Ends (.ownClaim n nonce) s fun t => t = met s n 0x0902 0 0x100008)

/-- R341: a heartbeat renews the lease of the owner whose nonce matches; any other is discarded with LEASE_LOST. -/
def Obligations.HeartbeatRenewsLease : Prop :=
  ∀ (s : State) (n : Slot) (nonce : Word), Answers s n →
    (s.own.owned = true → s.own.slot = n → s.own.nonce = nonce → Ends (.ownHeartbeat n nonce) s fun t =>
      t = { s with own := { s.own with leaseEnd := s.now + 160000000 } }) ∧
    (¬ (s.own.owned = true ∧ s.own.slot = n ∧ s.own.nonce = nonce) → Ends (.ownHeartbeat n nonce) s fun t => t = met s n 0x0903 0 0x100010)

/-- R342: the three ways in which a lease ends. Only the ownership registers, and the vectors that signal it, change. R343: a handover is
offered, refused, withdrawn, and lapses. -/
def Obligations.LeaseAndHandover : Prop :=
  (∀ (s : State) (n : Slot) (nonce : Word),
    let expired := fun u : State => { u with own := { epoch := s.own.epoch + 1 }, hosts := u.hosts.map fun h => msixRaise s.now h 1 }
    (s.own.owned = true → s.own.leaseEnd ≤ s.now → Ends .leaseExpire s fun t => t = expired s) ∧
    (s.own.owned = true → s.now < s.own.leaseEnd → Ends .leaseExpire s fun t => t = s) ∧
    (s.own.owned = true → s.own.slot = n → (getHost s n).present = true → Ends (.slotLinkDown n) s fun t =>
      t = expired { s with hosts := s.hosts.set n { getHost s n with
        present := false, width := 0, rate := 0, buf := [], lost := (getHost s n).lost + BitVec.ofNat 32 (getHost s n).buf.length } }) ∧
    (Answers s n → s.own.owned = true → s.own.slot = n → s.own.nonce = nonce → Ends (.ownRelease n nonce) s fun t => t = expired s) ∧
    (Answers s n → ¬ (s.own.owned = true ∧ s.own.slot = n ∧ s.own.nonce = nonce) → Ends (.ownRelease n nonce) s fun t =>
      t = met s n 0x0903 0 0x100020)) ∧
  (∀ (s : State) (n target : Slot), OwnerAnswers s n →
    (target ≠ n → (getHost s target).present = true → Ends (.ownHandover n true target) s fun t => t = { s with
      own := { s.own with handover := true, target := target, handoverEnd := s.now + 160000000, hoValid := true, hoTarget := target }
      hosts := s.hosts.map fun h => msixRaise s.now h 1 }) ∧
    (target = n ∨ (getHost s target).present = false → Ends (.ownHandover n true target) s fun t => t = met s n 0x0904 0 0x100018) ∧
    (s.own.handover = true → Ends (.ownHandover n false target) s fun t => t = { s with
      own := { s.own with handover := false, target := 0, handoverEnd := 0, hoValid := false, hoTarget := target }
      hosts := s.hosts.map fun h => msixRaise s.now h 1 }) ∧
    (∀ u : State, u.own.handover = true → u.own.handoverEnd ≤ u.now → Ends .handoverLapse u fun t => t = { u with
      own := { u.own with handover := false, target := 0, handoverEnd := 0, hoValid := false }
      hosts := u.hosts.map fun h => msixRaise u.now h 1 }))

/-- R339, R345: a slot becomes present with its link and its held records go to its ring; the snapshot is published every millisecond.
R351: the owner reads and writes the pages of the current job through BAR4; nobody reaches any other page. -/
def Obligations.SlotsSnapshotAperture : Prop :=
  (∀ (s : State) (n : Slot) (width rate : Nat), s.boot.powered = true → s.boot.shut = false →
    (slotExists s n = true → nth true s.boot.perst (n.val / 2) = false → s.boot.perst.length = 2 → nth false s.power.refHost (n.val / 2) = true →
        width = 8 → 1 ≤ rate → rate ≤ 6 → (getHost s n).present = false → (getHost s n).buf = [] →
      Ends (.slotLinkUp n width rate) s fun t =>
        t = { s with hosts := s.hosts.set n { getHost s n with present := true, width := width, rate := rate } }) ∧
    (s.boot.stage = 4 → s.snap.time.toNat + ms ≤ s.now → Ends .snapshotPublish s fun t =>
      t.snap.seq = s.snap.seq + 2 ∧ t.snap.epoch = s.snap.epoch + 1 ∧ t.snap.time = BitVec.ofNat 64 s.now ∧
      t.snap.own = BitVec.ofNat 64 (ownState s) ∧ t.snap.job = BitVec.ofNat 64 (jobState s) ∧ t.snap.adm = BitVec.ofNat 64 (admState s) ∧
      t = { s with snap := t.snap, hosts := s.hosts.map fun h => msixRaise s.now h 2 })) ∧
  (∀ (s : State) (n : Slot) (off len : Nat) (d : List Byte), OwnerAnswers s n → off + len ≤ 2 ^ 36 → off + d.length ≤ 2 ^ 36 →
    let a := s.tiers.aperture * 2 ^ 36 + off
    let held := fun p => match (getPage s p).st with
      | .unmapped => false
      | .absent _ => false
      | _ => true
    let mine := fun k => (s.jobc.st = 1 ∨ s.jobc.st = 2) ∧ ∀ p ∈ pagesOf a k, (getPage s p).job = s.jobc.id ∧ held p = true
    let answer := fun b => { s with hosts := s.hosts.set n { getHost s n with resp := b } }
    (mine len → pagesPoisoned s (pagesOf a len) = false → Ends (.bar4Read n off len) s fun t => t = answer (devAll s a len)) ∧
    (mine d.length → Ends (.bar4Write n off d) s fun t => t = devStore s a d) ∧
    (s.jobc.st = 0 → Ends (.bar4Read n off len) s fun t => t = met (answer (List.replicate len 0)) n 0x0905 2 off) ∧
    (s.jobc.st = 0 → Ends (.bar4Write n off d) s fun t => t = met s n 0x0905 2 off) ∧
    (∀ m : Slot, m ≠ n → (getHost s m).present = true → Ends (.bar4Write m off d) s fun t => t = met s m 0x0901 2 off))

/-- R322, R348: PQ_TAIL is set by its register and, in the same way, by the slot's doorbell page; a value more than the ring's size past
PQ_HEAD is discarded with BAD_ARGUMENT. -/
def Obligations.ProgramQueueDoorbell : Prop :=
  ∀ (s : State) (n : Slot) (q : Fin 4) (tail : BitVec 32), OwnerAnswers s n →
    let p := nth {} s.raler.pq q
    ((tail - p.head).toNat ≤ 2 ^ p.size → ∀ page ∈ [none, some n], Ends (.programQueueTailWrite n page q tail) s fun t =>
      t = { s with raler := { s.raler with pq := s.raler.pq.set q { p with tail := tail } } }) ∧
    (2 ^ p.size < (tail - p.head).toNat →
      (Ends (.programQueueTailWrite n none q tail) s fun t => t = met s n 0x0001 0 (0x202018 + 0x20 * q.val)) ∧
      (Ends (.programQueueTailWrite n (some n) q tail) s fun t => t = met s n 0x0001 1 (0x1000 * n.val + 8 * q.val)))

/-- R346, R347, R349, R337: the request ring window, RQ_TAIL, CR_HEAD and the control memory aperture of the owner's slot. -/
def Obligations.DoorbellPage : Prop :=
  ∀ (s : State) (n : Slot) (tail : BitVec 32) (d : List Byte) (off v : Nat), OwnerAnswers s n →
    let h := getHost s n
    let head : BitVec 32 := BitVec.ofNat 32 (leNat (Mem.readN s.cm h.rqBase 4))
    let old : BitVec 32 := BitVec.ofNat 32 (leNat (Mem.readN s.cm (h.rqBase + 4) 4))
    let rung := { s with hosts := s.hosts.set n { h with rqTail := tail }, cm := Mem.writeN s.cm (h.rqBase + 4) (leBytes 4 tail.toNat) }
    (s.jobc.st = 1 → (tail - head).toNat ≤ 32 → Ends (.rqTailWrite n n tail) s fun t =>
      t = if old = head ∧ tail ≠ head then [0, 2, 4, 6].foldl (fun u c => raiseEvent u c 4 (BitVec.ofNat 64 (n.val * 2 ^ 32))) rung else rung) ∧
    (s.jobc.st = 1 → 32 < (tail - head).toNat → Ends (.rqTailWrite n n tail) s fun t => t = met s n 0x0001 1 (0x1000 * n.val + 0x28)) ∧
    (s.jobc.st ≠ 1 → Ends (.rqTailWrite n n tail) s fun t => t = met s n 0x0929 1 (0x1000 * n.val + 0x28)) ∧
    (s.jobc.st = 1 → off % 64 + d.length ≤ 64 → off % 4 = 0 → d.length % 4 = 0 → d ≠ [] → off < 0x800 →
      Ends (.requestRingWrite n n off d) s fun t => t = { s with cm := Mem.writeN s.cm (h.rqBase + 64 + off) d }) ∧
    (s.jobc.st ≠ 1 → d.length = 64 → off % 64 = 0 → off < 0x800 →
      Ends (.requestRingWrite n n off d) s fun t => t = met s n 0x0929 1 (0x1000 * n.val + 0x800 + off)) ∧
    (Ends (.crHeadWrite n n tail) s fun t => t = { s with hosts := s.hosts.set n (crFill s.now { h with crHead := tail }) }) ∧
    (off % 8 = 0 → off < 0x80000 →
      let a := h.cmBase + off
      (v < 2 ^ 64 → Ends (.controlMemoryApertureAccess n true off 8 v) s fun t => t = { s with cm := Mem.writeN s.cm a (leBytes 8 v) }) ∧
      (Ends (.controlMemoryApertureAccess n false off 8 v) s fun t =>
        t = { s with hosts := s.hosts.set n { h with resp := Mem.readN s.cm a 8 } })) ∧
    (∀ m : Slot, m ≠ n → (getHost s m).present = true → off % 8 = 0 → off < 0x80000 →
      (Ends (.controlMemoryApertureAccess m true off 8 v) s fun t => t = met s m 0x0901 0 (0x280000 + off)) ∧
      (Ends (.controlMemoryApertureAccess m false off 8 v) s fun t =>
        t = { s with hosts := s.hosts.set m { getHost s m with resp := List.replicate 8 0 } }))

/-- R352, R353: START in order of the module's refusals, RUNNING after STARTING, and a fault of the job. R353, R354, R358: a faulted job's
programs end with JOB_FAULTED; END takes the job through its steps, and STATE becomes NONE. -/
def Obligations.JobsStartAndEnd : Prop :=
  (∀ (s : State) (n : Slot) (id : BitVec 16) (pt : Fin 32) (nr : Bool) (code : Status), OwnerAnswers s n →
    let s' := { s with jobc := { s.jobc with ctrlId := id.toNat, ctrlPt := pt, ctrlNoRing := nr } }
    (startBad s id.toNat pt nr = none → s.jobc.lastStatus = 0 → Ends (.jobStart n id pt nr) s fun t =>
      t.jobc = { s'.jobc with st := 6, id := id.toNat, fault := 0, ptEntry := pt, noRing := nr, nearRes := s.jobc.resNear, vatRes := s.jobc.resVat
                              banksOf := 0, left := false } ∧
      t.cm = (s.cm.filter fun b => 0x600000 ≤ b.1) ∧ t.job.grid.cells = [] ∧ t.wins = s.wins ∧ t.tiers.pages = s.tiers.pages ∧
      t.saved = s.saved ∧ t.job.refused = 0) ∧
    (∀ c, startBad s id.toNat pt nr = some c → c ≠ s.jobc.lastStatus → Ends (.jobStart n id pt nr) s fun t =>
      t = { s with jobc := { s'.jobc with lastStatus := c }, hosts := s.hosts.map fun h => msixRaise s.now h 3 }) ∧
    (s.ras.failedStacks = 0 → (s.jobc.st ≠ 0 → startBad s id.toNat pt nr = some 0x0906) ∧
      (s.jobc.st = 0 → id = 0 → startBad s id.toNat pt nr = some 0x0907)) ∧
    (s.jobc.st = 6 → Ends .jobRunning s fun t => t = { s with jobc := { s.jobc with st := 1 }, hosts := s.hosts.map fun h => msixRaise s.now h 3 }) ∧
    (s.jobc.st = 1 → code.toNat / 256 ≤ 0x0B → code.toNat % 256 ≠ 0 → Ends (.jobFault code) s fun t => t = raiseJobFault s code)) ∧
  (∀ (s : State) (n : Slot) (id : BitVec 16), OwnerAnswers s n →
    let s' := { s with jobc := { s.jobc with ctrlId := id.toNat, ctrlPt := 0, ctrlNoRing := false } }
    (s.jobc.st = 1 ∨ s.jobc.st = 2 → s.jobc.id = id.toNat → Ends (.jobEnd n id) s fun t => t = jobEndBegin (jobStatus s' 0)) ∧
    (3 ≤ s.jobc.st → Ends (.jobEnd n id) s fun t => t = jobStatus s' 0x0004) ∧
    (s.jobc.st = 0 → s.saved = [] → Ends (.jobEnd n id) s fun t => t = jobStatus s' 0x0929) ∧
    (∀ k, s.jobc.st = 0 → s.saved = [k] → k.ctl.id = id.toNat → Ends (.jobEnd n id) s fun t => t = savedJobEnd (jobStatus s' 0) k) ∧
    (s.jobc.st = 5 → (∀ w ∈ s.wins, w.opened = true → w.job ≠ s.jobc.id) → Ends .jobEndComplete s fun t =>
      t.jobc = { s.jobc with st := 0, id := 0, fault := 0, nearRes := 0, vatRes := 0, noRing := false, ptEntry := 0 } ∧
      t.job.grid.cells = [] ∧ t.job.inbox = [] ∧ t.job.churn = {} ∧ (∀ b ∈ t.cm, 0x600000 ≤ b.1)) ∧
    (∀ code : Status, s.jobc.st = 1 →
      let t := raiseJobFault s code
      t.jobc = { s.jobc with st := 2, fault := code } ∧ t.tiers = s.tiers ∧ t.job = s.job ∧ t.wins = s.wins ∧ t.adm = s.adm))

/-- R401, R402, R403, R405: the checkpoint of a beat; a unit fault shifts the die onto its held spare and is recorded, marks the pair
failed where there is none, and faults a job that no replay can save. -/
def Obligations.UnitFaults : Prop :=
  ∀ (s : State) (cell : Cell), isReady s = true →
    let d := dieOf cell
    let x := nth {} s.dies d
    let t0 := nth {} s.job.grid.timers 0
    (jobRuns s = true → t0.running = true → t0.replay = false → s.job.ckpt = none → Ends .checkpoint s fun t =>
      t = takeCheckpoint s ∧ (∀ k, t.job.ckpt = some k → k.time = s.now ∧ k.grid = t.job.grid ∧ k.streams = t.job.streams) ∧
      t.job.grid = { s.job.grid with cells := t.job.grid.cells } ∧
      ∀ c : Cell, let y := getCell s c
        let z := getCell t c
        z = { y with mu := z.mu } ∧ z.mu = { y.mu with flipTok := z.mu.flipTok, flipQ := z.mu.flipQ, real := z.mu.real, opTook := [], given := z.mu.given
                                                       coal := z.mu.coal } ∧
        z.mu.flipQ.map FlipAsk.regions = y.mu.flipQ.map FlipAsk.regions) ∧
    (s.jobc.st = 0 → s.dies.length = 2 → s.ras.testing = false → x.held = true → Ends (.unitFault cell 0x0207 false) s fun t =>
      nth {} t.dies d = { x with oos := physPair s cell, reason := 2, held := false } ∧
      t.remapLog = s.remapLog ++ [(d, physPair s cell, 0x0207, poweredHours s)] ∧
      t.counts.unitFaults = s.counts.unitFaults + 1 ∧ t.jobc = s.jobc ∧
      t = { s with dies := t.dies, remapLog := t.remapLog, counts := t.counts, recs := t.recs, hosts := t.hosts, free := t.free }) ∧
    (s.jobc.st = 0 → s.dies.length = 2 → s.ras.testing = false → x.held = false → Ends (.unitFault cell 0x0207 false) s fun t =>
      nth {} t.dies d = { x with failed := if x.failed.contains (physPair s cell) then x.failed else x.failed ++ [physPair s cell] } ∧ t.remapLog = s.remapLog ∧
      t = { s with dies := t.dies, counts := t.counts, recs := t.recs, hosts := t.hosts, free := t.free }) ∧
    (s.jobc.st = 1 → s.job.ckpt = none → s.ras.testing = false → Ends (.unitFault cell 0x0207 false) s fun t =>
      t.jobc = { s.jobc with st := 2, fault := 0x0207 }) ∧
    (s.ras.testing = true → x.held = true → s.jobc.st ≠ 4 → Ends (.unitFault cell 0x0207 false) s fun t =>
      t = { s with ras := { s.ras with heldFaults := s.ras.heldFaults ++ [(cell.val, 0x0207, false, false, [])] } }) ∧
    (∀ n : Slot, OwnerAnswers s n → s.ras.busy = 0 → s.jobc.st ≠ 1 → Ends (.inject n cell 0) s fun t =>
      t = { s with ras := { s.ras with ctrl := BitVec.ofNat 64 (3 + 2 ^ 10 * cell.val), ctrlStatus := 0x0929 } }) ∧
    (∀ n : Slot, OwnerAnswers s n → s.ras.busy = 0 → s.jobc.st = 1 → s.job.ckpt = none → s.ras.testing = false → Ends (.inject n cell 0) s fun t =>
      t.jobc = { s.jobc with st := 2, fault := 0x0207 } ∧ t.dies = s.dies ∧ t.ras.ctrlStatus = 0)

/-- R407, R398: a near frame retires: its stack's pool loses a frame, and the copy poisons the words that could not be corrected. R408,
R409: a Vat channel is replaced by the lowest standby channel, or fails outright; a stack fails; a regulator loses a phase. -/
def Obligations.RetirementAndReplacement : Prop :=
  (∀ (s : State) (f : Nat) (bad : List Nat), s.boot.powered = true → s.boot.shut = false → s.boot.stage = 4 → f < nearFrames →
    let h := f / stackFrames
    (s.ras.retiring.contains f = false → nth 0 s.ras.pool h ≠ 0 → Ends (.frameRetired f) s fun t =>
      t = { s with ras := { s.ras with pool := s.ras.pool.modify h (· - 1), retiring := s.ras.retiring ++ [f] } }) ∧
    (s.ras.retiring.contains f = false → nth 0 s.ras.pool h = 0 → Ends (.frameRetired f) s fun t =>
      t.ras = { s.ras with age := s.ras.age.modify (8 + h) fun x => { x with spare := 8 } } ∧
      t.recs = { s.recs with ras := recNote s.recs.ras Code.retirePoolEmpty (2 ^ 17 * (8 + h) + 2 ^ 32 * f) 0 } ∧
      t = { s with ras := t.ras, recs := t.recs, hosts := t.hosts }) ∧
    (s.ras.retiring.contains f = true → Ends (.frameRetireComplete f bad) s fun t =>
      t.ras = { s.ras with retiring := s.ras.retiring.erase f, retired := s.ras.retired.modify h (· + 1) } ∧
      (∀ w, w ∈ t.tiers.badNear ↔ w ∈ s.tiers.badNear ∨ ∃ b ∈ bad, b < 32768 ∧ w = f * 32768 + b) ∧
      t = { s with ras := t.ras, tiers := { s.tiers with badNear := t.tiers.badNear }, recs := t.recs, hosts := t.hosts })) ∧
  (∀ (s : State) (c k : Fin 96) (bad : List Nat) (h : Fin 12) (r : Fin 64),
    s.boot.powered = true → s.boot.shut = false → s.boot.stage = 4 → s.ras.chans.length = 96 →
    let x := getChan s c
    let lowest := fun st => (getChan s k).st = st ∧ (∀ j : Fin 96, j < k → (getChan s j).st ≠ st)
    (x.st = 0 → (∀ j : Fin 96, (getChan s j).st ≠ 2) → lowest 1 → Ends (.vatChannelReplace c) s fun t =>
      t = { s with ras := { s.ras with chans := s.ras.chans.set k ⟨2, x.slot, c⟩ } }) ∧
    (lowest 2 → (getChan s k).src = c → c ≠ k → Ends (.vatChannelReplaced c bad) s fun t =>
      getChan t k = ⟨0, x.slot, 127⟩ ∧ getChan t c = ⟨3, 127, 127⟩ ∧
      (∀ g, g ∈ t.tiers.badVat ↔ g ∈ s.tiers.badVat ∨ (g ∈ bad ∧ g % 92 = x.slot ∧ g < vatFrames * 8192)) ∧
      t = { s with ras := t.ras, tiers := { s.tiers with badVat := t.tiers.badVat }, recs := t.recs, hosts := t.hosts }) ∧
    (x.st = 0 → (∀ j : Fin 96, (getChan s j).st ≠ 2) → lowest 1 → Ends (.vatChannelLost c) s fun t =>
      getChan t k = ⟨0, x.slot, 127⟩ ∧ getChan t c = ⟨3, 127, 127⟩ ∧ x.slot ∈ t.tiers.lostSlots ∧ (∀ g ∈ t.tiers.cured, g % 92 ≠ x.slot)) ∧
    (s.ras.failedStacks.getLsbD h = false → Ends (.stackFailed h) s fun t =>
      t.ras = { s.ras with failedStacks := s.ras.failedStacks ||| 1#12 <<< h.val } ∧
      t.recs = { s.recs with ras := recNote s.recs.ras Code.stackFailed (2 ^ 17 * (8 + h.val) + 2 ^ 32 * h.val) 0 } ∧
      t = { s with ras := t.ras, recs := t.recs, hosts := t.hosts }) ∧
    (r.val ∉ s.ras.rails → Ends (.regPhaseLost r) s fun t =>
      t.ras = { s.ras with rails := s.ras.rails ++ [r.val] } ∧ t = { s with ras := t.ras, recs := t.recs, hosts := t.hosts }) ∧
    (∀ n : Slot, OwnerAnswers s n → s.ras.busy = 0 → x.st = 0 → (nth {} s.ras.age (20 + c.val / 4)).spare = 3 →
      (∀ j : Fin 96, (getChan s j).st ≠ 2) → lowest 1 → Ends (.replace n ⟨c, by omega⟩) s fun t =>
        t.ras = { s.ras with chans := s.ras.chans.set k ⟨2, x.slot, c⟩, busy := 4, ctrl := BitVec.ofNat 64 (4 + 2 ^ 21 * c.val) } ∧
        t = { s with ras := t.ras }) ∧
    (∀ (n : Slot) (m : Fin 128), OwnerAnswers s n → s.ras.busy = 0 → 96 ≤ m.val → Ends (.replace n m) s fun t =>
      t = met s n 0x0001 0 0xD00050))

/-- R410: a lockstep mismatch: the spare processor takes over, once; after that the logical processor leaves service. R414 to R418: an
uncorrectable table word is recorded and takes its entry with it; a region's prediction is updated once in a powered hour, its alert
follows AGE_CTRL, and a quadrant whose margin is below 20 ps has its offset raised by 5 mV. -/
def Obligations.ProcessorsTablesAgeing : Prop :=
  (∀ (s : State) (p : Fin 4), isReady s = true → Sized s → p.val ∉ s.raler.out →
    let m := s.ras.mismatches + 1
    (s.raler.spareUsed = false → Ends (.processorReplaced p) s fun t =>
      t.raler = { s.raler with physMap := s.raler.physMap.set p 4, spareUsed := true } ∧ t.ras = { s.ras with mismatches := m } ∧
      t.jobc = s.jobc ∧ (∀ r ∈ t.adm.reqs, ∃ q ∈ s.adm.reqs, r = q ∨ r = { q with faults := q.faults + 1 }) ∧
      t = { s with raler := t.raler, ras := t.ras, adm := { s.adm with reqs := t.adm.reqs }, recs := t.recs, hosts := t.hosts }) ∧
    (s.raler.spareUsed = true → (getCtx s (2 * p.val)).st = 0 → (getCtx s (2 * p.val + 1)).st = 0 → Ends (.processorReplaced p) s fun t =>
      t.raler = { s.raler with out := s.raler.out ++ [p.val] } ∧ t.ras = { s.ras with mismatches := m } ∧
      t = { s with raler := t.raler, ras := t.ras, recs := t.recs, hosts := t.hosts }) ∧
    (s.raler.spareUsed = true → (getCtx s (2 * p.val)).st ≠ 0 → s.jobc.st = 1 → Ends (.processorReplaced p) s fun t =>
      t.jobc = { s.jobc with st := 2, fault := Code.processorFailed } ∧ (getCtx t (2 * p.val)).st = 0)) ∧
  (∀ (s : State) (q : Fin 4096) (r : Fin 62) (eol metric : BitVec 16) (conf : BitVec 7) (spare : Fin 9), isReady s = true →
    let x := nth {} s.ras.age r
    let h := poweredHours s
    (∀ w : TableWord, (∀ c a, w ≠ .control c a) → Ends (.cellarUncorrectable w) s fun t => t.recs.ras.valid = true) ∧
    (∀ (c : Ctx) (a : BitVec 23),
      ((getCtx s c).st = 0 ∨ cmAllows c a.toNat 1 = false → Ends (.cellarUncorrectable (.control c a)) s fun t => t = s) ∧
      ((getCtx s c).st ≠ 0 → cmAllows c a.toNat 1 = true → Sized s → Ends (.cellarUncorrectable (.control c a)) s fun t =>
        t.recs.ras.valid = true ∧ (getCtx t c).st = 0 ∧
        (a.toNat < jobAreaEnd → s.jobc.st = 1 → t.jobc = { s.jobc with st := 2, fault := Code.cmUncorrectable }) ∧
        (jobAreaEnd ≤ a.toNat → t.jobc = s.jobc))) ∧
    ((getSeq s q).st = 0 → Ends (.cellarUncorrectable (.sequence q)) s fun t => t.adm = s.adm ∧ t.tiers = s.tiers ∧ t.jobc = s.jobc) ∧
    (h ≤ x.updated → Ends (.ageingUpdate r eol conf spare metric) s fun t => t = s) ∧
    (x.updated < h → s.ras.age.length = 64 → Ends (.ageingUpdate r eol conf spare metric) s fun t =>
      let y := nth {} t.ras.age r
      y.eol = eol.toNat ∧ y.updated = h ∧ y.alert = (decide (eol.toNat ≤ s.limits.ageDays) && decide (s.limits.ageConf ≤ y.conf)) ∧
      (r.val < 8 → y.offset = if metric.toInt < 200 ∧ x.offset < 40 ∧ (x.raisedAt = none ∨ ∃ a, x.raisedAt = some a ∧ a + 24 ≤ h)
        then x.offset + 5 else x.offset) ∧
      (8 ≤ r.val → y.offset = x.offset) ∧
      (∀ k : Fin 62, k ≠ r → nth {} t.ras.age k = nth {} s.ras.age k) ∧
      t = { s with ras := { s.ras with age := t.ras.age }, recs := t.recs, hosts := t.hosts }))

/-- R412, R413, R419: the operations of ERR_CTRL: a retired lane is tested and rejoins its port with at most 12 bit errors; the held
spares are tested, and one that fails is a spare no longer. -/
def Obligations.ErrorControl : Prop :=
  ∀ (s : State) (n : Slot) (p : Port) (l : Fin 13) (errors : Nat), OwnerAnswers s n → s.ring.ports.length = 8 → s.dies.length = 2 →
    let x := getPort s p
    let ctrl : Word := BitVec.ofNat 64 (1 + 2 ^ 3 * p.val + 2 ^ 6 * l.val)
    (s.ras.busy ≠ 0 → Ends (.laneRestore n p l) s fun t => t = met s n 0x0004 0 0xD00050) ∧
    (s.ras.busy = 0 → x.st = 0 → x.retired.getLsbD l = true → Ends (.laneRestore n p l) s fun t =>
      getPort t p = { x with st := 5, identAt := none } ∧ t.ras = { s.ras with ctrl := ctrl, busy := 1, opAt := s.now } ∧
      (∀ q : Port, q ≠ p → getPort t q = getPort s q)) ∧
    (s.ras.busy = 0 → x.st = 2 → Ends (.laneRestore n p l) s fun t =>
      t = { s with ras := { s.ras with ctrl := ctrl, ctrlStatus := 0x0001 } }) ∧
    (s.ras.busy = 1 → s.ras.ctrl = ctrl → s.ras.opAt + 60000 * ms ≤ s.now →
      (12 < errors → Ends (.laneRestoreEnd errors) s fun t =>
        (getPort t p).st = 0 ∧ (getPort t p).retired = x.retired ∧ t.ras = { s.ras with busy := 0, ctrlStatus := Code.berFail }) ∧
      (errors ≤ 12 → Ends (.laneRestoreEnd errors) s fun t =>
        (getPort t p).st = 0 ∧ (getPort t p).retired = x.retired &&& ~~~(1#13 <<< l.val) ∧ t.ras = { s.ras with busy := 0, ctrlStatus := 0 })) ∧
    (s.ras.busy = 0 → (nth {} s.dies 0).held = true → Ends (.spareTest (some n)) s fun t =>
      t = { s with ras := { s.ras with ctrl := 2, busy := 2, testing := true } }) ∧
    (s.ras.testHour + 24 ≤ poweredHours s → (nth {} s.dies 0).held = true → Ends (.spareTest none) s fun t =>
      t = { s with ras := { s.ras with testHour := poweredHours s, testing := true } }) ∧
    (s.ras.testing = true → s.ras.busy = 2 → s.ras.heldFaults = [] → Ends (.spareTestComplete true true) s fun t =>
      t = { s with ras := { s.ras with testing := false, busy := 0, ctrlStatus := 0 } }) ∧
    (s.ras.testing = true → s.ras.busy = 2 → s.ras.heldFaults = [] → (nth {} s.dies 0).held = true → Ends (.spareTestComplete false true) s fun t =>
      nth {} t.dies 0 = { nth {} s.dies 0 with held := false, reason := 2 } ∧ nth {} t.dies 1 = nth {} s.dies 1 ∧
      t.remapLog = s.remapLog ++ [(0, (nth {} s.dies 0).oos, Code.spareTestFailed, poweredHours s)] ∧
      t.ras = { s.ras with testing := false, busy := 0, ctrlStatus := Code.spareTestFailed } ∧
      t.recs = { s.recs with ras := recNote s.recs.ras Code.spareTestFailed (2 ^ 32 * (nth {} s.dies 0).oos) 0 })

/-- R289, R298, R302: a frame for this module is taken only in the order of its LSEQ from an UP or LEAVING port, or from the head of the
loopback; a frame of a partition that the plan does not hold is dropped and recorded. -/
def Obligations.FrameReceipt : Prop :=
  ∀ (s : State) (rx : Rx) (w : Win) (gen n : Byte) (off : BitVec 21) (d : List Byte) (tag : RowTag) (ep : BitVec 16) (count : BitVec 12)
    (slot : BitVec 13) (code : Status), s.ring.ports.length = 8 →
    (∀ f ∈ ([(.wreq rx w gen n none, .wreq w gen n none), (.wgrant rx w gen n code, .wgrant w gen n code),
        (.write rx w gen off d, .write w gen off d), (.reduceFrame rx w gen off d, .add w gen off d),
        (.ladleRow rx w gen off tag d, .row w gen off tag d), (.ladleAnswer rx w gen off ep slot d, .answer w gen off ep slot d),
        (.wnak rx w gen off code, .wnak w gen off code), (.wreturn rx w gen n, .wreturn w gen n), (.close rx w gen, .close w gen),
        (.marker rx w gen 0 n ep count false, .marker w gen 0 n ep count false), (.msg rx d, .msg d), (.msgnak rx code, .msgnak code),
        (.lost rx code ep, .lost code ep)] : List (Instr × Body)),
      (rxTake s rx f.2 = none → Ends f.1 s fun t => t = s) ∧
      (∀ t, rx.via = .loopback → rxTake s rx f.2 = some t → findPt t rx.part.toNat = none → Ends f.1 s fun u =>
        u.recs = { s.recs with mil := recNote s.recs.mil 0x0809 (2 ^ 24 * rx.part.toNat + 2 ^ 32 * rx.src.toNat) 0 } ∧
        u = { s with ring := { s.ring with loop := s.ring.loop.tail }, recs := u.recs, hosts := u.hosts })) ∧
    (∀ (p : Port) (l : BitVec 16) (b : Body), rx.via = .port p l →
      let x := getPort s p
      let k := shareKey (if bodyData b then rx.part.toNat else 0) rx.dl
      ((x.st = 2 ∨ x.st = 4) → l = x.rxSeq + 1 → ∃ t, rxTake s rx b = some t ∧
        (getPort t p).rxSeq = l ∧ (getPort t p).lastRx = s.now ∧ (getPort t p).used = x.used ∧
        (getPort t p).owed = shareAdd x.owed k (flits b) ∧ (∀ q : Port, q ≠ p → getPort t q = getPort s q) ∧
        t = { s with ring := { s.ring with ports := t.ring.ports }, hosts := t.hosts }) ∧
      (¬ ((x.st = 2 ∨ x.st = 4) ∧ l = x.rxSeq + 1) → rxTake s rx b = none)) ∧
    (∀ (f : Frame) (rest : List Frame), rx.via = .loopback → s.ring.loop = f :: rest → f.src = rx.src → f.part = rx.part →
      rxTake s rx f.body = some { s with ring := { s.ring with loop := rest } })

/-- R103, R299: credit for a window: a request is answered by a grant of what is free, and by 0 while the window closes; unused credits
return. R103, R104, R303: a credited write lands in the window's half that fills, an ADD adds to what the half holds; a write without
credit or out of range lands nothing, is refused by WNAK and faults the job. -/
def Obligations.WindowCreditAndWrites : Prop :=
  (∀ (s t : State) (rx : Rx) (w : Win) (gen n : Byte), t.wins.length = 64 →
    let v := getWin t w
    (Taken s rx (.wreq w gen n none) t → WindowTakes t rx w gen → reqHeldBy t ⟨rx.src, rx.part, w, gen, n.toNat, none⟩ = none →
        v.closing = false → flipPending t v.cell v.region = false →
      let g := min n.toNat v.free
      Ends (.wreq rx w gen n none) s fun u =>
        u = notify { t with wins := t.wins.set w { v with free := v.free - g, outstanding := v.outstanding + g } } rx.part.toNat rx.src.toNat
          (.wgrant w gen (BitVec.ofNat 8 g) 0)) ∧
    (Taken s rx (.wreq w gen n none) t → WindowTakes t rx w gen → reqHeldBy t ⟨rx.src, rx.part, w, gen, n.toNat, none⟩ = none →
        v.closing = true ∨ winFlips t w = true →
      Ends (.wreq rx w gen n none) s fun u => u = notify t rx.part.toNat rx.src.toNat (.wgrant w gen 0 0)) ∧
    (Taken s rx (.wreq w gen n none) t → v.opened = true → v.gen ≠ gen → Ends (.wreq rx w gen n none) s fun u =>
      u = notify { t with wins := t.wins.set w { v with refused := v.refused + 1, lastCode := 0x0305, lastSrc := rx.src } }
        rx.part.toNat rx.src.toNat (.wgrant w gen 0 0x0305)) ∧
    (Taken s rx (.wreturn w gen n) t → WindowTakes t rx w gen → n.toNat ≤ v.outstanding → Ends (.wreturn rx w gen n) s fun u =>
      let y := { t with wins := t.wins.set w { v with outstanding := v.outstanding - n.toNat, free := v.free + n.toNat } }
      u = fillsAgain y w ∧ (collAt t v.cell v.region = none → u = y)) ∧
    (Taken s rx (.wreturn w gen n) t → WindowTakes t rx w gen → v.outstanding < n.toNat → t.jobc.st = 1 → v.job = t.jobc.id →
        collAt t v.cell v.region = none → Ends (.wreturn rx w gen n) s fun u =>
      u.jobc = { t.jobc with st := 2, fault := 0x030B } ∧ (getWin u w).lastCode = 0x030B) ∧
    (Taken s rx (.close w gen) t → t.saved = [] → jobPart t ≠ some rx.part.toNat → Ends (.close rx w gen) s fun u => u = t) ∧
    (Taken s rx (.close w gen) t → t.saved = [] → jobPart t = some rx.part.toNat → Ends (.close rx w gen) s fun u =>
      let r := takeCredits t.job (srcMember t rx) w gen
      u = returnCredits { t with job := r.2 } rx.part.toNat rx.src.toNat w gen r.1)) ∧
  (∀ (s t : State) (rx : Rx) (w : Win) (gen : Byte) (off : BitVec 21) (d : List Byte), t.wins.length = 64 →
    let v := getWin t w
    let o := off.toNat
    let spends := fun (b : List Byte) (u : State) =>
      u = setWin (muPut t v.cell (winAddr t w o) b) w { v with
        outstanding := v.outstanding - 1, writes := v.writes + 1
        free := if v.flip then v.free else v.free + 1, held := if v.flip then v.held + 1 else v.held
        spent := if v.spent.contains (o / 512) then v.spent else v.spent ++ [o / 512]
        wd := { v.wd with landed := Tbl.set 0 v.wd.landed (srcMember t rx) (wdLanded v.wd (srcMember t rx) + 1) } }
    (Taken s rx (.write w gen off d) t → WindowTakes t rx w gen → v.outstanding ≠ 0 → d ≠ [] → o % 512 + d.length ≤ 512 →
        o + d.length ≤ 512 * v.units → v.wd.enable = false → Ends (.write rx w gen off d) s (spends d)) ∧
    (Taken s rx (.add w gen off d) t → WindowTakes t rx w gen → v.outstanding ≠ 0 → v.flip = true → d.length = 512 → o % 512 = 0 →
        o + 512 ≤ 512 * v.units → v.wd.enable = false → o / 512 ∉ v.spent → Ends (.reduceFrame rx w gen off d) s (spends d)) ∧
    (Taken s rx (.write w gen off d) t → WindowTakes t rx w gen → v.outstanding = 0 → Ends (.write rx w gen off d) s fun u =>
      u = reply (winFault t w 0x0302 rx.src o) rx (.wnak w gen off 0x0302)) ∧
    (Taken s rx (.write w gen off d) t → WindowTakes t rx w gen → v.outstanding ≠ 0 → 512 * v.units < o + d.length →
      Ends (.write rx w gen off d) s fun u => u = reply (winFault t w 0x0303 rx.src o) rx (.wnak w gen off 0x0303)) ∧
    (Taken s rx (.add w gen off d) t → WindowTakes t rx w gen → v.outstanding ≠ 0 → o % 512 ≠ 0 → t.jobc.st = 1 →
      Ends (.reduceFrame rx w gen off d) s fun u => u.jobc = { t.jobc with st := 2, fault := 0x080E } ∧
        (getWin u w).outstanding = v.outstanding - 1 ∧ (getWin u w).lastCode = 0x080E))

/-- R299, R302: what comes back to this module as a sender: grants and refusals of its requests, WNAK, and a request made again; and a
ring sender's next unit. -/
def Obligations.RingSenders : Prop :=
  ∀ (s t : State) (rx : Rx) (w : Win) (gen g : Byte) (off : BitVec 21) (a : Ask) (n : Fin 64) (code : Status), t.job.senders.length = 64 →
    let x := getSender t n
    let k := sendCfg x.cfg.toNat
    (Taken s rx (.wgrant w gen g 0) t → t.job.asks = [a] → a.who = .sender n → a.dst = rx.src → a.part = rx.part → a.win = w → a.gen = gen →
        a.retry = none → g.toNat = a.n → g ≠ 0 → Ends (.wgrant rx w gen g 0) s fun u =>
      u = { t with job := { t.job with asks := [], senders := t.job.senders.set n { x with credit := x.credit + g.toNat } } }) ∧
    (Taken s rx (.wgrant w gen 0 0) t → t.job.asks = [a] → a.who ≠ .gone → a.dst = rx.src → a.part = rx.part → a.win = w → a.gen = gen →
        a.retry = none → Ends (.wgrant rx w gen 0 0) s fun u =>
      u = { t with job := { t.job with asks := [{ a with retry := some (t.now + 800) }] } }) ∧
    (Taken s rx (.wgrant w gen g code) t → t.job.asks = [] → t.saved = [] → Ends (.wgrant rx w gen g code) s fun u =>
      u = if code = 0 ∨ Code.valid code then returnCredits t rx.part.toNat rx.src.toNat w gen g.toNat else t) ∧
    (∀ r, jobRuns t = true → t.job.asks = [a] → a.retry = some r → r ≤ t.now → a.who ≠ .gone → Ends (.wreqRetry 0) t fun u =>
      u = originate { t with job := { t.job with asks := [{ a with retry := none }] } } a.part.toNat a.dst.toNat
        (.wreq (toWin a.win) a.gen (BitVec.ofNat 8 a.n) a.epoch)) ∧
    (Taken s rx (.wnak w gen off code) t → nakOwner t rx w gen off.toNat = none → Ends (.wnak rx w gen off code) s fun u =>
      (code = 0x030C → u = returnCredits t rx.part.toNat rx.src.toNat w gen 1) ∧
      (code ≠ 0x030C → Code.valid code = true →
        u.recs = { t.recs with mil := recNote t.recs.mil code (2 ^ 24 * rx.part.toNat + 2 ^ 32 * rx.src.toNat) 0 } ∧
        u = { t with recs := u.recs, hosts := u.hosts })) ∧
    (Taken s rx (.wnak w gen off 0x030C) t → nakOwner t rx w gen off.toNat = some (none, .sender n) → Ends (.wnak rx w gen off 0x030C) s fun u =>
      u = setSender t n { x with credit := x.credit + 1, redo := x.redo ++ [off.toNat / 512 - k.dst] }) ∧
    (jobRuns t = true → k.valid = true → x.active = true → x.redo = [] → x.credit ≠ 0 → Ends (.ringSenderUnitSend n) t fun u =>
      let y := fun v => setSender v n { x with pos := x.pos + 1, credit := x.credit - 1 }
      u = sendUnit t k x.pos fun v => if x.pos + 1 < k.units then y v else sendEnd (y v) n k) ∧
    (∀ (m : Nat) (l : List Nat), jobRuns t = true → k.valid = true → x.redo = m :: l → x.credit ≠ 0 → Ends (.ringSenderUnitSend n) t fun u =>
      u = sendUnit t k m fun v => setSender v n { x with redo := l, credit := x.credit - 1 }) ∧
    (jobRuns t = true → k.valid = true → x.active = true → x.redo = [] → x.credit = 0 → asking t (.sender n) = false →
      Ends (.ringSenderUnitSend n) t fun u => u = askCredits t (.sender n) k.member k.win k.gen none (k.units - x.pos))

/-- R304, R305, R313, R332: markers, messages and losses. -/
def Obligations.MarkersMessagesLosses : Prop :=
  ∀ (s t : State) (rx : Rx) (w : Win) (gen sender : Byte) (ep module : BitVec 16) (count : BitVec 12) (d : List Byte) (code : Status),
    t.wins.length = 64 →
    let v := getWin t w
    (Taken s rx (.marker w gen 0 sender ep count true) t → WindowTakes t rx w gen → v.closing = false → v.wd.enable = false →
        (∀ m ∈ v.wd.markers, m.1 ≠ sender.toNat) → Ends (.marker rx w gen 0 sender ep count true) s fun u =>
      u = { t with wins := t.wins.set w { v with wd := { v.wd with markers := v.wd.markers ++ [(sender.toNat, count.toNat)] } } }) ∧
    (Taken s rx (.marker w gen 0 sender ep count true) t → WindowTakes t rx w gen → v.closing = true →
      Ends (.marker rx w gen 0 sender ep count true) s fun u => u = t) ∧
    (Taken s rx (.msg d) t → t.jobc.st = 1 → jobPart t = some rx.part.toNat → t.job.inbox.length < 64 → rx.via ≠ .loopback →
      Ends (.msg rx d) s fun u => u = [0, 2, 4, 6].foldl (fun u c => raiseEvent u c 3 (BitVec.ofNat 64 (rx.src.toNat * 2 ^ 32)))
        { t with job := { t.job with inbox := t.job.inbox ++ [(rx.src, d)] } }) ∧
    (Taken s rx (.msg d) t → t.jobc.st = 1 → jobPart t = some rx.part.toNat → 64 ≤ t.job.inbox.length → Ends (.msg rx d) s fun u =>
      u = notify { t with job := { t.job with refused := t.job.refused + 1 } } rx.part.toNat rx.src.toNat (.msgnak 0x080C)) ∧
    (Taken s rx (.msg d) t → t.jobc.st = 0 → Ends (.msg rx d) s fun u =>
      u = notify t rx.part.toNat rx.src.toNat (.msgnak Code.windowPartition)) ∧
    (∀ (c : Ctx) (rd : GReg), Taken s rx (.msgnak code) t → Code.valid code = true → t.raler.ctx.length = 8 → (getCtx t c).st = 2 →
        (getCtx t c).waits = .msend rd rx.src.toNat → (∀ j : Ctx, j < c → (getCtx t j).waits = .none) → (getCtx t c).regs.length = 32 →
      Ends (.msgnak rx code) s fun u =>
        (getCtx u c).st = 1 ∧ (getCtx u c).waits = .none ∧ greg u c rd = (if rd = 0 then 0 else code.setWidth 64) ∧
        (∀ j : Ctx, j ≠ c → getCtx u j = getCtx t j) ∧ u = { t with raler := { t.raler with ctx := u.raler.ctx } }) ∧
    (Taken s rx (.lost code module) t → jobPart t = some rx.part.toNat → t.jobc.st = 1 →
        code = Code.sliceLost ∨ code = Code.pathLost → Ends (.lost rx code module) s fun u =>
      u.jobc = { t.jobc with st := 2, fault := code, left := hasLeft t module.toNat && code == Code.sliceLost } ∧
      u.ring = t.ring ∧ u.wins = t.wins) ∧
    (Taken s rx (.lost code module) t → code ≠ Code.sliceLost → code ≠ Code.pathLost → Ends (.lost rx code module) s fun u => u = t)

/-- R284, R307, R308, R315: training, identity and heartbeats: a port that trains enough lanes sends IDENT; one whose far end is what the
plan names comes UP with its sequence numbers fresh and its shares granted; another far end is MISWIRED. -/
def Obligations.PortTraining : Prop :=
  ∀ (s : State) (p : Port) (lanes : BitVec 13) (serial : Word) (far : Port) (id : BitVec 32) (src : BitVec 16) (st3 : BitVec 3) (lv : Bool) (errs : LineErrors),
    s.ring.ports.length = 8 →
    let x := getPort s p
    let ok := lanes &&& ~~~x.retired
    let map := laneMapOf ok x.spare
    (s.boot.powered = true → s.power.refLink = true → s.ring.leaving = false → portUsed s p = true → x.st = 0 → map.length = 12 →
      Ends (.portTrained p lanes) s fun t => t = setPort s p { x with
        st := 1, map := map, spareUsed := map.contains x.spare, laneOk := ok, identAt := some s.now, lastRx := s.now, farLeaving := false
        wire := x.wire ++ [identWire s p] }) ∧
    (s.boot.powered = true → s.power.refLink = true → s.ring.leaving = false → portUsed s p = true → x.st = 0 → map.length < 8 →
      Ends (.portTrained p lanes) s fun t => (getPort t p).st = 0 ∧
        t.recs = { s.recs with mil := recNote s.recs.mil 0x0806 (2 ^ 17 * p.val) 0 }) ∧
    (∀ a, x.identAt = some a → x.st ≠ 0 → x.st ≠ 5 → a + ms ≤ s.now → Ends (.identSend p) s fun t =>
      t = setPort s p { x with identAt := some s.now, wire := x.wire ++ [identWire s p] }) ∧
    (∀ a, x.identAt = some a → x.st = 1 → s.ring.inForce.valid = true →
      let y := { x with farSerial := serial, farPort := far.val, farPlan := id, farIndex := src, lastRx := s.now }
      (identOk s p y = true → (nth [] s.ring.breaks (p.val / 2)).contains (portBreak s p) = false → Ends (.ident p serial far id src) s fun t =>
        getPort t p = { y with
          st := 2, txSeq := 0, replay := [], credit := [], share := [], rxSeq := 0, open_ := [], ackAt := none
          released := 0, relSent := 0, used := [], owed := (planShares s.ring.inForce).foldl (fun t k => shareAdd t k.1 k.2) []
          repeats := [], farLeaving := false } ∧
        t = { s with ring := { s.ring with ports := t.ring.ports }, hosts := t.hosts }) ∧
      (identOk s p y = false → Ends (.ident p serial far id src) s fun t => (getPort t p).st = 3 ∧
        t.recs = { s.recs with mil := recNote s.recs.mil 0x0803 (2 ^ 17 * p.val + 2 ^ 32 * src.toNat) 0 })) ∧
    (x.st = 2 ∨ x.st = 4 → Ends (.heartbeat p) s fun t => t = setPort s p { x with
      hbAt := s.now, wire := x.wire ++ [.heartbeat x.st s.ring.leaving] ++ x.repeats }) ∧
    (x.st = 2 ∨ x.st = 4 → Ends (.heartbeatReceive p st3 ⟨lv, errs⟩) s fun t => t = setPort s p { x with
      lastRx := s.now, repeats := [], fecCorr := x.fecCorr + errs.corr, fecUncorr := x.fecUncorr + errs.uncorr
      l12Errors := if x.map.contains 12 then x.l12Errors else x.l12Errors + errs.l12 }) ∧
    (x.st = 0 ∨ x.st = 1 ∨ x.st = 3 → Ends (.heartbeatReceive p st3 ⟨lv, errs⟩) s fun t => t = s)

/-- R289, R290, R291, R306: a frame starts when its flits have credit, its replay buffer has room and its bucket holds a token; an ACK
releases what it names and a NAK replays; an ACK reports the last good LSEQ; every CRC failure is answered by a NAK. R295, R296, R298: a
frame for another module is received into its share, and waits on the port of its way, on the DL that the dateline gives it; one of an
unknown partition is dropped and recorded. -/
def Obligations.LinkLayerAndTransit : Prop :=
  (∀ (s : State) (p : Port) (q : QFrame) (e : PtEntry × Nat) (a rel : BitVec 16) (bad : Bool), s.ring.ports.length = 8 →
    let x := getPort s p
    let f := q.f
    let k := frameKey f f.dl
    let g := shareKey f.part.toNat f.dl
    let m := flits f.body
    let b := getBucket s p e.2
    let ready := (x.st = 2 ∨ x.st = 4) ∧ x.queue = [q] ∧ s.ring.leaving = false ∧ x.farLeaving = false ∧ x.swapping = none ∧
      findPt s f.part.toNat = some e ∧ g ∈ x.share ∧ q.origin = none
    (ready → m ≤ Tbl.get 0 x.credit k → replayFlits x + m ≤ 16384 → 0 < bucketLevel s.now e.1 b → jobPart s ≠ some f.part.toNat →
        Ends (.frameTransmit p f.part (bodyData f.body)) s fun t =>
      getPort t p = { x with
        queue := [], txSeq := x.txSeq + 1, replay := x.replay ++ [{ lseq := x.txSeq + 1, q := q }], credit := shareSub x.credit k m
        txBytes := x.txBytes + 32 * m, wire := x.wire ++ [.frame (x.txSeq + 1) f] } ∧
      getBucket t p e.2 = { b with tokens := bucketLevel s.now e.1 b - 512 * m, at_ := s.now, waitAt := none
                                   stalls := b.stalls + bucketStall s.now e.1 b, bytes := b.bytes + 32 * m } ∧
      t = { s with ring := { s.ring with ports := t.ring.ports, buckets := t.ring.buckets, quietSince := t.ring.quietSince }, hosts := t.hosts }) ∧
    (ready → Tbl.get 0 x.credit k < m ∨ 16384 < replayFlits x + m → Ends (.frameTransmit p f.part (bodyData f.body)) s fun t => t = s) ∧
    (ready → m ≤ Tbl.get 0 x.credit k → replayFlits x + m ≤ 16384 → bucketLevel s.now e.1 b ≤ 0 →
        Ends (.frameTransmit p f.part (bodyData f.body)) s fun t =>
      t = setBucket s p e.2 { b with waitAt := some (b.waitAt.getD s.now) }) ∧
    ((x.st = 2 ∨ x.st = 4) → (∀ c ∈ x.replay, c.q.origin = none ∧ bodyData c.q.f.body = false) → Ends (.ack p a rel false f.part f.dl 5) s fun t =>
      t = setPort s p { x with
        replay := (x.replay.filter fun c => !seqLe c.lseq rel).map fun c => if seqLe c.lseq a then { c with acked := true } else c
        credit := shareAdd x.credit g 5, share := if g ∈ x.share then x.share else x.share ++ [g], lastRx := s.now }) ∧
    ((x.st = 2 ∨ x.st = 4) → x.owed = [] → x.relSent ≠ x.released → Ends (.ackSend p) s fun t =>
      t = setPort s p { x with wire := x.wire ++ [.ack x.rxSeq x.released false 0 false 0], ackAt := none, relSent := x.released }) ∧
    ((x.st = 2 ∨ x.st = 4) → x.owed = [] → Ends (.crcFailure p bad) s fun t =>
      (getPort t p).wire = x.wire ++ [.ack x.rxSeq x.released true 0 false 0] ∧ t.ring.frameBad = s.ring.frameBad + if bad then 1 else 0) ∧
    (x.st = 1 ∨ x.st = 3 → Ends (.crcFailure p bad) s fun t =>
      t = { s with ring := { s.ring with frameBad := s.ring.frameBad + if bad then 1 else 0 } }) ∧
    (x.st = 0 ∨ x.st = 5 → Ends (.crcFailure p bad) s fun t => t = s) ∧
    ((x.st = 2 ∨ x.st = 4) → x.queue = [q] → s.ring.leaving = false → x.farLeaving = false → x.swapping = none → q.origin = none →
        findPt s f.part.toNat = none → Ends (.frameTransmit p f.part (bodyData f.body)) s fun t =>
      getPort t p = { x with queue := [] } ∧
      t.recs = { s.recs with mil := recNote s.recs.mil 0x0809 (2 ^ 17 * p.val + 2 ^ 24 * f.part.toNat + 2 ^ 32 * f.dst.toNat) 0 })) ∧
  (∀ (s : State) (p : Port) (f : Frame) (e : PtEntry × Nat) (r : Nat × Bool), s.ring.ports.length = 8 →
    let x := getPort s p
    let l := x.rxSeq + 1
    f.dst.toNat ≠ myIndex s → x.st = 2 →
      (findPt s f.part.toNat = some e → portAccept s p l f false = some (setPort s p (portRelease { x with
        rxSeq := l, open_ := x.open_ ++ [(l, false)], lastRx := s.now, ackAt := some (x.ackAt.getD s.now)
        used := shareAdd x.used (frameKey f f.dl) (flits f.body) }))) ∧
      (∀ t, findPt s f.part.toNat = some e → portAccept s p l f false = some t →
        route t e.1 f.dst.toNat (some (p.val / 2, !(p.val % 2 == 1), f.dl)) = some r → Ends (.transitFrame p l f) s fun u =>
          u = portQueue t r.1 ⟨{ f with dl := r.2 }, some (p.val, l, f.dl)⟩) ∧
      (findPt s f.part.toNat = none → Ends (.transitFrame p l f) s fun u =>
        u.recs = { s.recs with mil := recNote s.recs.mil 0x0809 (2 ^ 17 * p.val + 2 ^ 24 * f.part.toNat + 2 ^ 32 * f.dst.toNat) 0 } ∧
        (getPort u p).rxSeq = l ∧ (getPort u p).used = x.used) ∧
      (∀ n : BitVec 16, n ≠ l → Ends (.transitFrame p n f) s fun u => u = s))

/-- R308, R312, R314: a link that goes down, a break that becomes known, its end, and a neighbour that leaves. -/
def Obligations.LinksAndBreaks : Prop :=
  ∀ (s : State) (p : Port) (cause : DownCause) (axis : Fin 4) (pos : BitVec 4), s.ring.ports.length = 8 → s.ring.breaks.length = 4 →
    s.ring.restored.length = 4 →
    let x := getPort s p
    let here := p.val / 2 = axis.val
    let known := (nth [] s.ring.breaks axis).contains pos.toNat
    let back := (nth [] s.ring.restored axis).contains pos.toNat
    (x.st = 2 ∨ x.st = 4 → cause ≠ .silence → Ends (.linkDown p cause) s fun t => t = linkFail s p 0) ∧
    (x.st = 2 ∨ x.st = 4 → s.now < x.lastRx + 24 * us → Ends (.linkDown p .silence) s fun t => t = s) ∧
    (x.st = 1 ∨ x.st = 3 → Ends (.linkDown p cause) s fun t =>
      getPort t p = { x with st := 0, downs := x.downs + 1, identAt := none } ∧
      t.recs = { s.recs with mil := recNote s.recs.mil 0x0806 (2 ^ 17 * p.val + 2 ^ 32 * x.farIndex.toNat) 0 }) ∧
    (x.st = 2 → here → known = true → back = true → Ends (.break p axis pos true) s fun t => t = setPort s p { x with lastRx := s.now }) ∧
    (x.st = 2 → here → known = true → back = false → (getPort s (otherPort p)).st = 0 → Ends (.break p axis pos true) s fun t =>
      (nth [] t.ring.restored axis) = nth [] s.ring.restored axis ++ [pos.toNat] ∧ t.ring.breaks = s.ring.breaks ∧
      nth 0 t.ring.quietSince axis = (if s.ring.quietSince.length = 4 then s.now else nth 0 t.ring.quietSince axis)) ∧
    (x.st = 2 → here → known = true → back = false → Ends (.break p axis pos false) s fun t => t = setPort s p { x with lastRx := s.now }) ∧
    (x.st = 2 → here → known = false → (∀ q : Port, (getPort s q).queue = []) → (getPort s (otherPort p)).st = 0 →
      Ends (.break p axis pos false) s fun t =>
        nth [] t.ring.breaks axis = nth [] s.ring.breaks axis ++ [pos.toNat] ∧
        t.recs = { s.recs with mil := recNote s.recs.mil 0x0807 (2 ^ 17 * p.val + 2 ^ 32 * x.farIndex.toNat) 0 }) ∧
    ((nth [] s.ring.restored axis) ≠ [] → nth 0 s.ring.quietSince axis + us ≤ s.now → Ends (.routeRestore axis) s fun t =>
      t = { s with ring := { s.ring with
        breaks := s.ring.breaks.set axis ((nth [] s.ring.breaks axis).filter fun b => !(nth [] s.ring.restored axis).contains b)
        restored := s.ring.restored.set axis [] } }) ∧
    (x.st = 2 → Ends (.leaving p true) s fun t => (getPort t p).st = 0 ∧ (getPort t p).replay = [] ∧
      t.recs = { s.recs with mil := recNote s.recs.mil 0x080F (2 ^ 17 * p.val + 2 ^ 32 * x.farIndex.toNat) 0 }) ∧
    (x.st = 2 → x.farLeaving = true → Ends (.leaving p false) s fun t => t = setPort s p { x with lastRx := s.now })

/-- R309, R310, R311: a lane is retired onto the spare, or removed where the spare serves; both ends then replay; and bit-error tests.
R294: a write of RING_PLAN with PLAN_VALID puts a consistent plan in force, whose buckets start full; another is refused with
PLAN_INVALID, and the plan in force stays. -/
def Obligations.LanesAndPlans : Prop :=
  (∀ (s : State) (p : Port) (l : Fin 13) (w : BitVec 4) (n : Slot) (v : Word) (errors : List Nat), s.ring.ports.length = 8 →
    let x := getPort s p
    let ber := v.toNat
    let onSpare := fun t => t = setPort s p { x with
      map := x.map.map fun k => if k == l.val then x.spare else k, spareUsed := true, laneOk := x.laneOk &&& ~~~(1#13 <<< l.val)
      retired := x.retired ||| 1#13 <<< l.val, swaps := x.swaps + 1, swapping := some l.val, wire := x.wire ++ [.swap l 12] }
    let removed := fun t => (getPort t p).map = (x.map.filter fun k => k != l.val) ∧ (getPort t p).st = 2 ∧
      t.recs = { s.recs with mil := recNote s.recs.mil 0x0805 (2 ^ 17 * p.val + 2 ^ 20 * l.val) 0 }
    (x.st = 2 → l.val ∈ x.map → x.spareUsed = false → x.laneOk.getLsbD x.spare = true → x.map.length = 12 →
      Ends (.laneRetire p l) s onSpare ∧ Ends (.swap p l w) s onSpare) ∧
    (x.st = 2 → l.val ∈ x.map → x.spareUsed = true → 9 ≤ x.map.length → x.map.Nodup →
      Ends (.laneRetire p l) s removed ∧ Ends (.swap p l w) s removed) ∧
    (l.val ∉ x.map → Ends (.laneRetire p l) s (fun t => t = s) ∧ Ends (.swap p l w) s fun t => t = s) ∧
    (x.swapping = some l.val → x.replay = [] → x.map.length = 12 → Ends (.laneSwapped p) s fun t =>
      (getPort t p).swapping = none ∧ t.recs = { s.recs with mil := recNote s.recs.mil 0x0804 (2 ^ 17 * p.val + 2 ^ 20 * l.val) 0 } ∧
      (∀ r ∈ t.adm.reqs, ∃ q ∈ s.adm.reqs, r = q ∨ r = { q with faults := q.faults + 1 })) ∧
    (OwnerAnswers s n → ber % 2 = 1 → ber / 2 ^ 15 % 2 ^ 16 ≠ 0 → ber < 2 ^ 31 → ber / 2 % 2 = 1 → x.test = none → x.st = 0 →
      Ends (.berTestStart n p v) s fun t => getPort t p = { x with
        berMode := true, berLanes := v.extractLsb' 2 13, berMs := ber / 2 ^ 15 % 2 ^ 16, test := some s.now, berDone := false, st := 5
        identAt := none }) ∧
    (OwnerAnswers s n → ber / 2 ^ 15 % 2 ^ 16 = 0 → ber < 2 ^ 31 → Ends (.berTestStart n p v) s fun t =>
      t = met s n 0x0001 0 (0xB01050 + 0x100 * p.val)) ∧
    (OwnerAnswers s n → ber % 2 = 1 → ber / 2 ^ 15 % 2 ^ 16 ≠ 0 → ber < 2 ^ 31 → x.test.isSome = true → Ends (.berTestStart n p v) s fun t =>
      t = met s n 0x0004 0 (0xB01050 + 0x100 * p.val)) ∧
    (∀ a, x.test = some a → a + x.berMs * ms ≤ s.now → x.berMode = false → nth 0 errors 12 * 100000 ≤ 212500000 * x.berMs →
      Ends (.berTestEnd p errors) s fun t => t = setPort s p { x with
        test := none, berDone := true, berFailed := 0, berWorst := 12, berErrors := nth 0 errors 12 })) ∧
  (∀ (s : State) (n : Slot) (v : Word), OwnerAnswers s n → v.toNat < 2 ^ 33 →
    let p := { s.ring.plan with index := v.setWidth 16, lengths := v.extractLsb' 16 16, valid := v.getLsbD 32 }
    (v.getLsbD 32 = false → Ends (.planLoad n v) s fun t => t = { s with ring := { s.ring with plan := p } }) ∧
    (v.getLsbD 32 = true → planOk s p = true → Ends (.planLoad n v) s fun t =>
      t.ring.plan = p ∧ t.ring.inForce = p ∧ t.jobc = s.jobc ∧ t.wins = s.wins) ∧
    (v.getLsbD 32 = true → planOk s p = false → Ends (.planLoad n v) s fun t =>
      t = met { s with
        recs := { s.recs with mil := recNote s.recs.mil 0x080A (2 ^ 32 * p.index.toNat) 0 }
        hosts := if s.recs.mil.valid then s.hosts else s.hosts.map fun h => msixRaise s.now h 8 } n 0x080A 0 0xB00008) ∧
    (∀ a : Fin 4, planOk s p = true → axisPos p.index.toNat a < axisLen p a))

/-- R29, R30, R27, R28: an entry on a link enters its input queue, and a queue releases its head to everything that its source feeds, at
once and only where all of it has credit; an operand entry is taken into the tile. An entry that nothing takes, or an uncorrectable one,
stops the job. -/
def Obligations.Switches : Prop :=
  ∀ (s : State) (c : Cell) (net : Net) (port : Fin 6) (e : Entry) (rest : List Entry), jobRuns s = true → s.job.churn.wave.active = false →
    let g := s.job.grid
    let x := getCell s c
    let n := netNo net
    let k := inKey n port
    let fs := feeds (getRec s c) n port
    let r := matRec (getRec s c).mat
    (getWire x k = e :: rest → (getQ x k).length < qDepth c n port → fs ≠ [] → Ends (.linkEntryReceive c net port .clean) s fun t =>
      t = setCell s c { x with
        wire := Tbl.set [] x.wire k rest, q := Tbl.set [] x.q k (getQ x k ++ [e])
        since := if getQ x k = [] then Tbl.insert x.since k s.now else x.since }) ∧
    (getWire x k = e :: rest → (getQ x k).length < qDepth c n port → fs = [] → s.jobc.st = 1 →
      Ends (.linkEntryReceive c net port .clean) s fun t => t.jobc = { s.jobc with st := 2, fault := 0x0203 }) ∧
    (getWire x k = e :: rest → (getQ x k).length < qDepth c n port → s.job.ckpt = none → s.ras.testing = false →
      Ends (.linkEntryReceive c net port .uncorrectable) s fun t =>
        t.jobc = { s.jobc with st := 2, fault := if net = .control then 0x0205 else 0x0204 } ∧ getCell t c = x) ∧
    (getWire x k = e :: rest → qDepth c n port ≤ (getQ x k).length → Ends (.linkEntryReceive c net port .clean) s fun t => t = s) ∧
    (∀ (o d i : Nat), getQ x k = e :: rest → fs = [.out o] → neighbour c o = some (d, i) → 0 < outCredit s c n o →
      Ends (.creditReturn c (.switchInput net port)) s fun t =>
        let y := { x with
          q := Tbl.set [] x.q k rest
          since := if rest = [] then Tbl.erase x.since k else Tbl.insert x.since k s.now }
        let cells := Tbl.set {} g.cells c y
        let z := Tbl.get {} cells d
        let u := setGrid s { g with
          cells := Tbl.set {} cells d { z with wire := Tbl.set [] z.wire (inKey n i) (getWire z (inKey n i) ++ [e]) }
          timers := g.timers.map (timerSee c n o e.last) }
        t = if n = 2 ∧ port.val = 5 then setCell u c (giveTokens 8 (getCell u c)) else u) ∧
    (getQ x k = e :: rest → (∃ f ∈ fs, feedRoom s c n f = false) → Ends (.creditReturn c (.switchInput net port)) s fun t => t = s) ∧
    (getQ x (locKey 0 4) = e :: rest → r.enable = true → r.op ≠ 1 → x.takenA.length < matNeedA r → x.done.length < 2 →
      (r.bHold = false → Ends (.creditReturn c .operandA) s fun t =>
        t = setCell s c { x with q := Tbl.set [] x.q (locKey 0 4) rest, takenA := x.takenA ++ [e.data], side := false }) ∧
      (r.bHold = true → x.panel.isSome = true → x.side = false → Ends (.creditReturn c .operandA) s fun t =>
        t = setCell s c { x with q := Tbl.set [] x.q (locKey 0 4) rest, takenA := x.takenA ++ [e.data], side := true }) ∧
      (r.bHold = true → x.panel = none → Ends (.creditReturn c .operandA) s fun t => t = s)) ∧
    (getQ x (locKey 0 5) = e :: rest → r.enable = true → r.op ≠ 1 → x.done.length < 2 →
      (r.bHold = false ∨ x.panel = none → x.takenB.length < matNeedB r → Ends (.creditReturn c .operandB) s fun t =>
        t = setCell s c { x with q := Tbl.set [] x.q (locKey 0 5) rest, takenB := x.takenB ++ [e.data] }) ∧
      (r.bHold = true → x.panel.isSome = true → x.side = true → x.takenA.length < matNeedA r → Ends (.creditReturn c .operandB) s fun t =>
        t = setCell s c { x with q := Tbl.set [] x.q (locKey 0 5) rest, takenA := x.takenA ++ [e.data], side := false })) ∧
    (∀ (f : Entry) (more : List Entry), getQ x (locKey 0 4) = e :: rest → getQ x (locKey 0 5) = f :: more → r.enable = true → r.op = 1 →
        x.takenA.length < matNeedA r → x.done.length < 2 →
      let both := fun t => t = setCell s c { x with
        q := Tbl.set [] (Tbl.set [] x.q (locKey 0 4) rest) (locKey 0 5) more, takenA := x.takenA ++ [e.data], takenB := x.takenB ++ [f.data] }
      Ends (.creditReturn c .operandA) s both ∧ Ends (.creditReturn c .operandB) s both) ∧
    (r.op = 1 → getQ x (locKey 0 4) = [] ∨ getQ x (locKey 0 5) = [] → Ends (.creditReturn c .operandA) s fun t => t = s)

/-- R28: the head of a switch input queue leaves only when every output and steering unit that it feeds has room, and it goes to all of
them in that step; at the memory unit's control input the place may take a token that waits (R27). -/
def Obligations.FanOut : Prop :=
  ∀ (s : State) (c : Cell) (net : Net) (port : Fin 6) (e : Entry) (rest : List Entry), jobRuns s = true → s.job.churn.wave.active = false →
    let x := getCell s c
    let k := inKey (netNo net) port
    let fs := feeds (getRec s c) (netNo net) port
    getQ x k = e :: rest → fs ≠ [] →
    ((∀ f ∈ fs, feedRoom s c (netNo net) f = true) → Ends (.creditReturn c (.switchInput net port)) s fun t =>
      let y := { x with
        q := Tbl.set [] x.q k rest, since := if rest = [] then Tbl.erase x.since k else Tbl.insert x.since k s.now }
      let u := fs.foldl (fun u f => feedPut u c (netNo net) e f) (setCell s c y)
      t = if netNo net = 2 ∧ port.val = 5 then setCell u c (giveTokens 8 (getCell u c)) else u) ∧
    ((∃ f ∈ fs, feedRoom s c (netNo net) f = false) → Ends (.creditReturn c (.switchInput net port)) s fun t => t = s)

/-- R29: an entry at a switch input that feeds nothing is held there, the record names the place, and the job faults. -/
def Obligations.UnroutedEntryFaults : Prop :=
  ∀ (s : State) (c : Cell) (net : Net) (port : Fin 6) (e : Entry) (rest : List Entry), jobRuns s = true → s.job.churn.wave.active = false →
    s.jobc.st = 1 →
    let x := getCell s c
    let k := inKey (netNo net) port
    feeds (getRec s c) (netNo net) port = [] →
    (getWire x k = e :: rest → (getQ x k).length < qDepth c (netNo net) port → Ends (.linkEntryReceive c net port .clean) s fun t =>
      let y := { x with
        wire := Tbl.set [] x.wire k rest, q := Tbl.set [] x.q k (getQ x k ++ [e])
        since := if getQ x k = [] then Tbl.insert x.since k s.now else x.since }
      t.job = (setCell s c y).job ∧ t.jobc = { s.jobc with st := 2, fault := 0x0203 } ∧
      t.recs.grid = recNote s.recs.grid 0x0203 (2 ^ 17 * c.val + 2 ^ 26 * punit s c false + 2 ^ 37 * netNo net + 2 ^ 39 * port.val) 0) ∧
    (getQ x k = e :: rest → Ends (.creditReturn c (.switchInput net port)) s fun t => t = s)

/-- R33, R34, R35: a beat begins when its source sends, ends when its sink has sent LAST, is recorded once where it passes its compiled
length, and at the hang limit is a fault at the queue whose head has waited longest. -/
def Obligations.Beats : Prop :=
  ∀ (s : State) (i : Fin 8), jobRuns s = true → s.job.grid.timers.length = 8 →
    let x := nth {} s.job.grid.timers i
    let set := fun (v : Timer) => setGrid s { s.job.grid with timers := s.job.grid.timers.set i v }
    let d := s.now - x.start
    let w := x.cfg.toNat / 2 ^ 32 % 2 ^ 15
    (x.armed = true → x.running = false → x.srcSent = true → s.job.sched.running = false → Ends (.beatBegin i) s fun t =>
      t = setGrid s { passBegins s.job.grid with timers := s.job.grid.timers.set i { x with
        running := true, start := s.now, overrun := false, replay := decide (x.begun < x.top), srcSent := false
        begun := x.begun + 1, top := Nat.max x.top (x.begun + 1) } }) ∧
    (x.running = false → x.srcSent = false → Ends (.beatBegin i) s fun t => t = s) ∧
    (x.running = true → x.sinkLast = true → d ≤ w → x.old = [] → x.disarm = false → Ends (.beatEnd i) s fun t =>
      t = set { x with running := false, overrun := false, replay := false, sinkLast := false, last := d, max := Nat.max x.max d,
                       beats := x.beats + 1 }) ∧
    (x.running = true → x.sinkLast = true → d ≤ w → x.old = [] → x.disarm = true → Ends (.beatEnd i) s fun t =>
      t = set { x with running := false, overrun := false, replay := false, sinkLast := false, last := d, max := Nat.max x.max d,
                       beats := x.beats + 1, disarm := false, armed := false, cfg := 0 }) ∧
    (∀ b : OldBeat, x.old = [b] → b.sinkLast = true → x.running = false → s.now - b.start ≤ b.cfg.toNat / 2 ^ 32 % 2 ^ 15 →
      Ends (.beatEnd i) s fun t =>
        t = set { x with old := [], last := s.now - b.start, max := Nat.max x.max (s.now - b.start), beats := x.beats + 1 }) ∧
    (x.running = true → x.sinkLast = false → (∀ b ∈ x.old, b.sinkLast = false) → Ends (.beatEnd i) s fun t =>
      t.job.grid.cells = s.job.grid.cells ∧ (getTimer t i).running = true) ∧
    (x.running = true → x.overrun = false → w < d → x.old = [] → Ends (.beatOverrun i) s fun t =>
      t = chargeOverrun (set { x with overrun := true, overruns := x.overruns + 1 })) ∧
    (d ≤ w → x.old = [] → Ends (.beatOverrun i) s fun t => t = s) ∧
    (∀ (c k : Nat) (since : Nat), x.running = true → x.sinkLast = false → s.limits.hangUs * 1600 ≤ d → stallRoot s = some (c, k, since) →
        s.recs.grid.valid = false → s.job.ckpt = none → s.ras.testing = false → Ends (.gridHang i) s fun t =>
      t.jobc = { s.jobc with st := 2, fault := 0x0202 } ∧
      t.recs.grid.reg = BitVec.ofNat 64 (0x0202 + 2 ^ 16 + 2 ^ 17 * c + 2 ^ 26 * punit s c false + 2 ^ 37 * (k / 8) + 2 ^ 39 * (k % 8)) ∧
      ∀ h ∈ waitingHeads s, since ≤ h.2.2)

/-- R40, R45, R57 to R64: a tile whose operands are all there completes; a tile that fails its residue check is a unit fault, one that
left the accumulators' range faults the job, and neither is released. A finished tile drains to the vector pipeline or on CUO. R67 to R74,
R84, R86: a row of a finished tile passes the six stages of the record and changes nothing but its pipeline's rows; a row of the tile that
LOAD_TREG takes is written to that register; the tile's end commits the tile registers and sends the token. -/
def Obligations.Engines : Prop :=
  (∀ (s : State) (c : Cell) (i : Fin 4096) (d : Int), jobRuns s = true →
    let x := getCell s c
    let r := matRec (getRec s c).mat
    let b := if r.bHold then x.panel.getD [] else x.takenB
    let m := matUpset (matTile r (x.takenA.map BitVec.toNat) (b.map BitVec.toNat)) i d
    (r.enable = true → r.tileCount = 0 → x.takenA.length = matNeedA r → (if r.bHold then x.panel ≠ none else b.length = matNeedB r) →
        x.done.length < 2 → matResidueBad m d = false → matSat m = false → Ends (.matrixTileComplete c i d) s fun t =>
      t = setCell s c { x with takenA := [], takenB := [], done := x.done ++ [m], mtile := x.mtile + 1 }) ∧
    (tileReady x r = true → r.tileCount = x.mtile + 1 → matResidueBad m d = false → matSat m = false → Ends (.matrixTileComplete c i d) s fun t =>
      t = setCell s c { x with takenA := [], takenB := [], done := x.done ++ [m], mtile := 0, panel := none, side := false }) ∧
    (tileReady x r = true → matResidueBad m d = true → s.job.ckpt = none → s.ras.testing = false →
      Ends (.matrixTileComplete c i d) s fun t =>
        t.jobc = { s.jobc with st := 2, fault := 0x0207 } ∧ getCell t c = x ∧
        (s.recs.unit.valid = false → t.recs.unit.detail = [x.mtile, matFirstBad m i])) ∧
    (tileReady x r = true → matResidueBad m d = false → matSat m = true → Ends (.matrixTileComplete c i d) s fun t =>
      t.jobc = { s.jobc with st := 2, fault := 0x0208 } ∧ getCell t c = x ∧
      (s.recs.grid.valid = false → t.recs.grid.detail = [x.mtile, matFirstSat m])) ∧
    (x.takenA.length < matNeedA r → Ends (.matrixTileComplete c i d) s fun t => t = s) ∧
    (∀ (y : MTile) (ys : List MTile), x.done = y :: ys → r.enable = true → r.outMode = 0 → x.vec.ftq.length < 8 →
      Ends (.tileDrain c) s fun t =>
        t = setCell s c { x with done := ys, drained := tileNext r.tileCount x.drained, vec := { x.vec with ftq := x.vec.ftq ++ [matTileF32 r y] } }) ∧
    (∀ (y : MTile) (ys : List MTile), x.done = y :: ys → r.enable = true → r.outMode ≠ 0 → getWire x (inKey 0 4) = [] →
      r.tileCount = 0 → Ends (.tileDrain c) s fun t =>
        t = unitSend (setCell s c { x with done := ys, drained := x.drained + 1 }) c 0 4
          ((matEntries r y).map fun n => ⟨BitVec.ofNat 512 n, false⟩)) ∧
    (∀ (y : MTile) (ys : List MTile), x.done = y :: ys → r.enable = true → r.outMode ≠ 0 → getWire x (inKey 0 4) = [] →
      r.tileCount = x.drained + 1 → Ends (.tileDrain c) s fun t =>
        t = unitSend (setCell s c { x with done := ys, drained := 0 }) c 0 4 (lastEntries (matEntries r y))) ∧
    (r.enable = true → r.bHold = true → x.panel = none → x.takenB.length = matNeedB r → Ends (.bPanelLoad c) s fun t =>
      t = setCell s c { x with panel := some x.takenB, takenB := [], side := false })) ∧
  (∀ (s : State) (c : Cell) (w : VecWord), jobRuns s = true → s.job.churn.wave.active = false →
    let x := getCell s c
    let r := vecRec (getRec s c).vec
    let v := x.vec
    let src := ((v.ftq.headD []).drop (64 * v.row)).take 64
    (rowReady x r = true → r.mode1 = false → r.src = 0 → v.row ≠ 63 → vecLoading r v = false → v.taken = true → vecUsesSide r = false →
      Ends (.vectorRowEnter c .clean) s fun t =>
        let o := vecRow r v v.row src zeroRow
        let y := { x with vec := { o.1 with row := v.row + 1 } }
        t = setCell s c (match o.2 with
          | none => y
          | some out => sinkRow y r v.row out)) ∧
    (rowReady x r = true → r.mode1 = false → r.src = 0 → v.row ≠ 63 → vecLoading r v = true → Ends (.vectorRowEnter c .clean) s fun t =>
      t = setCell s c { x with vec := { v with treg := Tbl.set zeroRow v.treg (64 * r.loadTreg + v.row) src, row := v.row + 1 } }) ∧
    (rowReady x r = false → Ends (.vectorRowEnter c .clean) s fun t => t = s) ∧
    (rowReady x r = true → s.job.ckpt = none → s.ras.testing = false → Ends (.vectorRowEnter c (.uncorrectable w)) s fun t =>
      t.jobc = { s.jobc with st := 2, fault := 0x0209 } ∧ getCell t c = x ∧
      (s.recs.unit.valid = false → t.recs.unit.detail = [w.place.val, w.row.val])) ∧
    (rowReady x r = true → rowsAtOnce r v = 2 → Ends (.vectorRowEnter c .clean) s fun t => t = setCell s c (rowEnter (rowEnter x r) r)) ∧
    (r.enable = true → vecLoading r v = false → v.row = vecRows r → r.vtiles = 0 →
        (r.tokenOut = true → unitRoom x c 2 4 1 = true) → Ends (.tileEndCommit c .clean) s fun t =>
      let u := unitSend (unitSend (setCell s c { x with vec := vecCommit r v }) c 0 4 []) c 1 4 []
      t = if r.tokenOut then unitSend u c 2 4 [⟨BitVec.ofNat 512 (v.sent % 256), false⟩] else u) ∧
    (v.row < vecRows r ∨ (r.tokenOut = true ∧ unitRoom x c 2 4 1 = false) → Ends (.tileEndCommit c .clean) s fun t => t = s))

/-- R93 to R101: an access of a generator moves one element at the generated address and advances its position; outside the region it
faults the job. A flip is requested by an operation or by a control entry, and takes effect when every user of its regions is ready. -/
def Obligations.MemoryUnits : Prop :=
  ∀ (s : State) (c : Cell), jobRuns s = true → s.job.churn.wave.active = false → s.job.ckpt = none →
    let x := getCell s c
    let mu := (getRec s c).mu
    (∀ (e : Entry) (rest : List Entry),
      let g := wrGen mu
      let r := region mu g.region
      let key := if g.net = 0 then locKey 0 6 else locKey 1 5
      let a := regionBase r (beatHalf x.mu g.region) + (genElem g x.mu.wr.elem).toNat * genWidth g
      let q := genStep g r.double x.mu.wr
      getQ x key = e :: rest → g.enable = true → g.mode ≠ 1 → x.mu.wr.waits = false → genDone g x.mu.wr = false → genDone g q = false →
        0 ≤ genElem g x.mu.wr.elem →
        (((genElem g x.mu.wr.elem).toNat + 1) * genWidth g ≤ regionSize r → bankReady x.mu a = true → Ends (.muGeneratorAccess c true .clean) s fun t =>
          let u := muPut (setCell s c (setQ x key rest)) c a (leBytes (genWidth g) e.data.toNat) true
          t = setMu u c { (getCell u c).mu with wr := q }) ∧
        (regionSize r < ((genElem g x.mu.wr.elem).toNat + 1) * genWidth g → Ends (.muGeneratorAccess c true .clean) s fun t =>
          t.jobc = { s.jobc with st := 2, fault := 0x0301 } ∧ getCell t c = getCell (setCell s c (setQ x key rest)) c)) ∧
    (let g := rdGen mu
      let r := region mu g.region
      let key := inKey g.net 5
      let n := if g.net = 0 then 64 else 4
      let a := regionBase r (if r.double then !beatHalf x.mu g.region else false) + (genElem g x.mu.rd.elem).toNat * n
      let q := genStep g r.double x.mu.rd
      g.enable = true → g.mode = 0 → x.mu.rd.waits = false → genDone g x.mu.rd = false → 0 ≤ genElem g x.mu.rd.elem →
        (getWire x key).length + (getQ x key).length < qDepth c g.net 5 →
        (((genElem g x.mu.rd.elem).toNat + 1) * n ≤ regionSize r → bankReady x.mu a = true → a / 64 ∉ x.mu.poison →
          Ends (.muGeneratorAccess c false .clean) s fun t =>
            let v := muRead x.mu a n
            t = unitSend (setMu (noteRead s c a n) c { v.2 with rd := q }) c g.net 5 [⟨BitVec.ofNat 512 (leNat v.1), genLast g x.mu.rd q⟩]) ∧
        (regionSize r < ((genElem g x.mu.rd.elem).toNat + 1) * n → Ends (.muGeneratorAccess c false .clean) s fun t =>
          t.jobc = { s.jobc with st := 2, fault := 0x0301 } ∧ getCell t c = x) ∧
        (((genElem g x.mu.rd.elem).toNat + 1) * n ≤ regionSize r → bankReady x.mu a = true → a / 64 ∉ x.mu.poison → s.ras.testing = false →
          Ends (.muGeneratorAccess c false .uncorrectable) s fun t => t.jobc = { s.jobc with st := 2, fault := 0x0309 })) ∧
    (∀ (m : FlipAsk) (ms : List FlipAsk), x.mu.flip = 0 → x.mu.flipQ = m :: ms → getQ x (locKey 2 5) = [] ∨ m.behind = 0 →
      Ends (.flipRequest c) s fun t =>
        t = setCell s c { x with mu := { x.mu with flip := m.regions, flipTok := m.repeats, flipQ := ms } }) ∧
    (∀ (e : Entry) (rest : List Entry), x.mu.flip = 0 → (∀ p ∈ x.mu.flipQ, p.behind ≠ 0) → getQ x (locKey 2 5) = e :: rest →
      let m := flipMask mu (e.data.toNat % 256)
      (m ≠ 0 → Ends (.flipRequest c) s fun t =>
        t = setCell s c { x with
          q := Tbl.set [] x.q (locKey 2 5) rest
          mu := { x.mu with flip := m, flipTok := true, flipQ := x.mu.flipQ.map fun p => { p with behind := p.behind - 1 } } }) ∧
      (m = 0 → Ends (.flipRequest c) s fun t => t.jobc = { s.jobc with st := 2, fault := 0x030A })) ∧
    (x.mu.flip ≠ 0 → Ends (.flipRequest c) s fun t => t = s) ∧
    (∀ (i : Fin 8), x.mu.flip = 1#8 <<< i.val → (region mu i).ack = false → winsOn s c i = [] → s.job.churn.tables.ladle = [] →
        sendersOn s c i = [] → (∀ k : Fin 4, (strDesc s (4 * c + k)).enable = false) →
        ((wrGen mu).enable = true → (wrGen mu).region = i → x.mu.wr.waits = true) →
        ((rdGen mu).enable = true → (rdGen mu).region = i → x.mu.rd.waits = true) →
        flipsOwed x.mu i = 0 → x.mu.poison = [] → Ends (.flipTakeEffect c) s fun t =>
      let u := setMu s c { x.mu with
        flip := 0, flipTok := false, opTook := if x.mu.flipTok then x.mu.opTook else x.mu.opTook ++ [x.mu.flip] }
      let m := coalFlush (getCell u c).mu (inRegion (region mu i))
      t = setMu u c { m with
        fillHalf := m.fillHalf ^^^ (1#8 <<< i.val), real := upd m.real i (· + 1)
        wr := if (wrGen mu).region = i then { m.wr with waits := false } else m.wr
        rd := if (rdGen mu).region = i then { m.rd with waits := false } else m.rd }) ∧
    (∀ (i : Fin 8), x.mu.flip = 1#8 <<< i.val → (wrGen mu).enable = true → (wrGen mu).region = i → x.mu.wr.waits = false →
        genDone (wrGen mu) x.mu.wr = false → Ends (.flipTakeEffect c) s fun t => t = s)

/-- R105, R108 to R110, R115, R344: a window that closes is freed when its last credit is back, or written off at the limit; a bank's
zeroing and its waking end; MU_PEEK answers the owner the word at its address. -/
def Obligations.WindowsAndBanks : Prop :=
  ∀ (s : State) (w : Win) (c : Cell) (b : Fin 32) (n : Slot), s.wins.length = 64 → s.hosts.length = 4 →
    let v := getWin s w
    let m := (getCell s c).mu
    let h := getHost s n
    (v.opened = true → v.closing = true → v.outstanding = 0 → winHere s v = false → v.closeFor = [] → s.job.churn.wave.active = false →
        s.job.churn.wave.heldSince = none → Ends (.windowCloseComplete w) s fun t =>
      t = { s with wins := s.wins.set w { gen := v.gen, wd := { enable := v.wd.enable, senders := v.wd.senders, token := v.wd.token } } }) ∧
    (v.closing = true → v.outstanding ≠ 0 → Ends (.windowCloseComplete w) s fun t => t = s) ∧
    (v.opened = true → v.closing = true → v.outstanding ≠ 0 → v.closeAt + s.limits.closeUs * 1600 ≤ s.now → winHere s v = false →
        v.closeFor = [] → s.job.churn.wave.active = false → s.job.churn.wave.heldSince = none → Ends (.closeTimeout w) s fun t =>
      t.wins = s.wins.set w { gen := v.gen, wd := { enable := v.wd.enable, senders := v.wd.senders, token := v.wd.token } } ∧
      t.recs.mu = recNote s.recs.mu 0x0308 (2 ^ 17 * v.cell + 2 ^ 52 * w.val) 0 ∧
      t = { s with wins := t.wins, recs := { s.recs with mu := t.recs.mu }, hosts := t.hosts }) ∧
    (s.now < v.closeAt + s.limits.closeUs * 1600 → Ends (.closeTimeout w) s fun t => t = s) ∧
    (m.zeroing.getLsbD b = true → Ends (.bankZeroDone c b) s fun t =>
      let z := muZero m (49152 * b.val) 49152
      let used := recBanks (getRec s c).mu ||| recBanks (Tbl.get {} s.job.churn.shadow.recs c).mu
      t = { setMu s c { z with
              zeroing := m.zeroing &&& ~~~(1#32 <<< b.val)
              powered := if used.getLsbD b then m.powered else m.powered &&& ~~~(1#32 <<< b.val) } with
            counts := { s.counts with zeroings := s.counts.zeroings + 1 } }) ∧
    (m.waking.getLsbD b = true → Ends (.bankWake c b) s fun t =>
      let u := muSet s c (coalFlush m fun k => k / 768 == b.val)
      let k := (getCell u c).mu
      t = setMu u c { k with
        waking := k.waking &&& ~~~(1#32 <<< b.val), powered := k.powered ||| (1#32 <<< b.val)
        zeroing := k.zeroing ||| (1#32 <<< b.val) }) ∧
    (OwnerAnswers s n → (getCell s (bits h.muSel 0 9)).mu.coal = [] → (getCell s (bits h.muSel 0 9)).mu.zeroing = 0 →
        (getCell s (bits h.muSel 0 9)).mu.poison = [] → Ends (.muPeek n) s fun t =>
      t = { s with hosts := s.hosts.set n { h with
        resp := Mem.readN (getCell s (bits h.muSel 0 9)).mu.mem (bits h.muSel 12 21 / 8 * 8) 8 } }) ∧
    (h.present = true → s.own.owned = false → Ends (.muPeek n) s fun t =>
      t = { s with hosts := s.hosts.set n { h with resp := List.replicate 8 0 } })

/-- R118 to R127: the firings of a steering unit that has the token and the entries its function needs and whose consumers have room: the
unit's new state, and the one entry that leaves. A token or a count out of range is a precise fault. -/
def Obligations.Steering : Prop :=
  ∀ (s : State) (c : Cell) (i : Fin 4) (tok : Byte) (rest : List Byte) (e : Entry) (es : List Entry), jobRuns s = true →
    let x := getCell s c
    let r := getRec s c
    let u := suRec r.su i
    let a := nth {} x.su i
    let put := fun (y : SuSt) => setCell s c { x with su := x.su.set i y }
    let roomFor := fun (n : Nat) (fs : List Feed) => fs.all (feedRoom s c n) = true
    let out := feeds r u.dnet (8 + i)
    let ctl := feeds r 2 (8 + i)
    a.busy = .idle → a.t = tok :: rest → a.d0 = e :: es →
    (u.op = 1 → tok.toNat ≤ u.dcount → u.grain = 0 → roomFor u.dnet (suFeeds r u i tok.toNat) → Ends (.steerFire c i) s fun t =>
      t = feedAll (put { a with t := rest, d0 := es, fires := a.fires + 1 }) c u.dnet (suFeeds r u i tok.toNat) e) ∧
    (u.op = 1 → u.dcount < tok.toNat → Ends (.steerFire c i) s fun t => 
      t.jobc = { s.jobc with st := 2, fault := 0x020A } ∧ t.job = s.job ∧ (s.recs.grid.valid = false → t.recs.grid.detail = [i.val, tok.toNat, a.fires])) ∧
    (u.op = 2 → u.d1 = 14 → u.grain = 0 → tok = 0 → roomFor u.dnet out → Ends (.steerFire c i) s fun t =>
      t = feedAll (put { a with t := rest, d0 := es, fires := a.fires + 1, zpos := (a.zpos + 1) % u.glen }) c u.dnet out e) ∧
    (u.op = 3 → u.grain = 0 → tok = 0 → roomFor u.dnet out → Ends (.steerFire c i) s fun t =>
      t = feedAll (put { a with t := rest, d0 := es, fires := a.fires + 1 }) c u.dnet out e) ∧
    (u.op = 4 → u.grain = 0 → u.invert = false → tok ≠ 0 → roomFor u.dnet out → Ends (.steerFire c i) s fun t =>
      t = feedAll (put { a with t := rest, d0 := es, fires := a.fires + 1 }) c u.dnet out e) ∧
    (u.op = 4 → u.grain = 0 → u.invert = false → tok = 0 → u.keepLast = false → Ends (.steerFire c i) s fun t =>
      t = put { a with t := rest, d0 := es, fires := a.fires + 1 }) ∧
    (u.op = 5 → 2 ≤ tok.toNat → roomFor u.dnet out → Ends (.steerFire c i) s fun t =>
      t = feedAll (put { a with t := rest, d0 := es, fires := a.fires + 1, busy := .copies e (tok.toNat - 1) }) c u.dnet out ⟨e.data, false⟩) ∧
    (u.op = 7 → 2 ≤ tok.toNat → roomFor 2 ctl → Ends (.steerFire c i) s fun t =>
      t = feedAll (put { a with t := rest, fires := a.fires + 1, busy := .run tok.toNat 1 }) c 2 ctl ⟨BitVec.ofNat 512 u.fval, false⟩) ∧
    (u.op = 6 → u.cmode = 0 → e.last = false → Ends (.steerFire c i) s fun t =>
      t = put { a with d0 := es, fires := a.fires + 1, tally := a.tally + 1 }) ∧
    (u.op = 6 → u.cmode = 0 → e.last = true → (a.tally + 1 + 2 ^ u.shift - 1) / 2 ^ u.shift ≤ 255 → roomFor 2 ctl → Ends (.steerFire c i) s fun t =>
      t = feedAll (put { a with d0 := es, fires := a.fires + 1, tally := 0 }) c 2 ctl
        ⟨BitVec.ofNat 512 ((a.tally + 1 + 2 ^ u.shift - 1) / 2 ^ u.shift % 256), false⟩) ∧
    (u.op = 0 → Ends (.steerFire c i) s fun t => t = s)

/-- R264, R265, R273: a dispatch sends its first waiting row when the queue's credit covers the row's units, and a collector sends an
answer when the answer window's credit covers it; without credit, and with a request for it in flight, nothing is sent. -/
def Obligations.LadleSends : Prop :=
  ∀ (s : State) (d : Fin 16) (c : Fin 64), jobRuns s = true →
    (∀ (h : DispHalf) (r : LadRow) (rest : List LadRow) (q : LadQ) (ws : List Byte) (u : State), d.val < ladDisps (ladSec s) →
      (getDisp s d).flight = [h] → h.phase = 1 → h.rows = r :: rest → r.st = 0 → (∀ y ∈ h.rows, y.redo = []) →
      h.qs.find? (fun q => q.queue == r.queue) = some q →
      let x := ladDisp (ladSec s) d
      muTry s x.src (routeAddr s x h.letter 0) (4 * x.rows) = (some ws, u) → wordVoid u (nth 0 (unpack 32 x.rows (leNat ws)) r.p) = false →
      (∀ (bs : List Byte) (v : State), x.rowUnits ≤ q.credit →
        muTry u x.src (regionBase (region (getRec u x.src).mu x.srcReg) h.side + r.p * x.rowUnits * 512) (x.rowUnits * 512) = (some bs, v) →
        Ends (.ladleRowSend d) s fun t =>
          let b := getBind u r.queue
          let r' := { r with st := 1, idx := q.sent }
          let w := (List.range x.rowUnits).foldl (fun w k => originate w ((jobPart w).getD 0) (jobModule w b.member)
            (.row (toWin b.win) b.gen (BitVec.ofNat 21 (512 * (q.sent * x.rowUnits + k))) (rowTag w d x h r')
              (nth [] (pieces 512 x.rowUnits bs) k))) v
          t = dispMarks (setLad w { w.job.lad with rows := w.job.lad.rows + 1 }) d { h with
            rows := h.rows.map fun y => if y.slot == r.slot then r' else y
            qs := h.qs.map fun y => if y.queue == r.queue then { y with credit := y.credit - x.rowUnits, sent := y.sent + 1 } else y }) ∧
      (q.credit < x.rowUnits → asking u (.disp d r.queue h.epoch) = true → Ends (.ladleRowSend d) s fun t => t = u)) ∧
    (∀ (h : DispHalf) (r : LadRow), d.val < ladDisps (ladSec s) → redoRow (getDisp s d).flight = some (h, r) →
      Ends (.ladleRowSend d) s fun t => t = unitGoes s d (ladDisp (ladSec s) d) h r) ∧
    ((getDisp s d).flight = [] → Ends (.ladleRowSend d) s fun t => t = s) ∧
    (∀ (n : Nat) (g : RowTag) (q : AnsQ), c.val < ladColls (ladSec s) → (getColl s c).answers = [(n, g)] → (getColl s c).ansQs = [q] →
      q.home = g.home.toNat → q.win = g.awin → q.gen = g.agen → q.epoch = g.epoch →
      let k := ladColl (ladSec s) c
      let a := regionBase (region (getRec s k.ans).mu k.ansReg) (!beatHalf (getCell s k.ans).mu k.ansReg) + n * k.ansUnits * 512
      (∀ (bs : List Byte) (v : State), k.ansUnits ≤ q.credit → muTry s k.ans a (k.ansUnits * 512) = (some bs, v) →
        Ends (.ladleAnswerSend c) s fun t =>
          let u := ((pieces 512 k.ansUnits bs).zipIdx).foldl (fun u y =>
            originate u ((jobPart u).getD 0) (jobModule u q.home)
              (.answer g.awin g.agen (BitVec.ofNat 21 (512 * (g.aslot.toNat * k.ansUnits + y.2))) g.epoch g.aslot y.1)) v
          let x := getColl s c
          let w := setColl u c { x with answers := [], past := x.past ++ [(n, g)], ansQs := [{ q with credit := q.credit - k.ansUnits }] }
          t = answersEnd (setLad w { w.job.lad with answers := w.job.lad.answers + 1 }) c) ∧
      (q.credit < k.ansUnits → asking s (.coll c 0) = true → Ends (.ladleAnswerSend c) s fun t => t = s)) ∧
    ((getColl s c).answers = [] → Ends (.ladleAnswerSend c) s fun t => t = s)

/-- R267, R274, R279: a row lands at the next place of its queue whatever its offset, an answer at its own place; an answer of a half-
batch that is no longer awaited is dropped and counted; a half that has waited for the limit faults the job. -/
def Obligations.LadleReceives : Prop :=
  ∀ (s t : State) (rx : Rx) (w : Win) (gen : Byte) (off : BitVec 21) (tag : RowTag) (ep : BitVec 16) (slot : BitVec 13) (b : List Byte),
    t.wins.length = 64 → t.job.lad.colls.length = 64 → t.job.lad.disps.length = 16 →
    let v := getWin t w
    let o := off.toNat
    (Taken s rx (.row w gen off tag b) t → WindowTakes t rx w gen → v.outstanding ≠ 0 → b ≠ [] → o % 512 + b.length ≤ 512 →
        o + b.length ≤ 512 * v.units → collAt t v.cell v.region = none → Ends (.ladleRow rx w gen off tag b) s fun u =>
      u = setWin (muPut t v.cell (winAddr t w o) b) w { v with
        outstanding := v.outstanding - 1, writes := v.writes + 1
        free := if v.flip then v.free else v.free + 1, held := if v.flip then v.held + 1 else v.held }) ∧
    (∀ (c : Fin 64) (k : LadColl), Taken s rx (.row w gen off tag b) t → WindowTakes t rx w gen → v.outstanding ≠ 0 → b ≠ [] →
        o % 512 + b.length ≤ 512 → o + b.length ≤ 512 * v.units → collAt t v.cell v.region = some (c.val, k) →
      let x := getColl t c
      let r := region (getRec t k.cell).mu k.reg
      let i := x.rows.length
      0 < k.senders → x.markers = [] → (∀ y ∈ x.rows, y.1.home ≠ tag.home) → (i + 1) * k.rowUnits * 512 ≤ regionSize r →
        Ends (.ladleRow rx w gen off tag b) s fun u =>
          let at_ := regionBase r (fillHalf (getCell t k.cell).mu k.reg) + i * k.rowUnits * 512 + 512 * (o / 512 % k.rowUnits) + o % 512
          u = setColl (setWin (muPut t k.cell at_ b) w { v with
              outstanding := v.outstanding - 1, writes := v.writes + 1
              free := if v.flip then v.free else v.free + 1, held := if v.flip then v.held + 1 else v.held }) c
            { x with last := tag.home.toNat, rows := x.rows ++ [(tag, 2 ^ (o / 512 % k.rowUnits))], since := some (x.since.getD t.now) }) ∧
    (∀ (d : Fin 16), Taken s rx (.answer w gen off ep slot b) t → WindowTakes t rx w gen → v.outstanding ≠ 0 → b ≠ [] →
        o % 512 + b.length ≤ 512 → o + b.length ≤ 512 * v.units → d.val < ladDisps (ladSec t) →
        (∀ e : Fin 16, e ≤ d → (((ladDisp (ladSec t) e).ans = v.cell ∧ (ladDisp (ladSec t) e).ansReg = v.region) ↔ e = d)) →
      let x := getDisp t d
      (∀ h, x.flight = [h] → h.epoch = ep → h.phase = 1 → (∃ r ∈ h.rows, r.slot = slot.toNat ∧ r.st = 1) → o / 512 ∉ h.landed →
        Ends (.ladleAnswer rx w gen off ep slot b) s fun u =>
          let y := winLand t w o b
          u = setDisp y d { x with flight := [{ h with landed := h.landed ++ [o / 512] }] }) ∧
      (x.flight = [] → x.dropped = [] → Ends (.ladleAnswer rx w gen off ep slot b) s fun u =>
        u.job.lad = { t.job.lad with
          stale := t.job.lad.stale + 1
          disps := t.job.lad.disps.set d { x with
            dropped := if (ladDisp (ladSec t) d).ansUnits ≤ 1 then [] else [(ep, slot.toNat, 1)] } } ∧ u.job = { t.job with lad := u.job.lad } ∧
        u.recs.lad = recNote t.recs.lad 0x0705 (2 ^ 17 * d.val + 2 ^ 45 * ep.toNat) 0 ∧
        u.wins = t.wins.set w { v with
          outstanding := v.outstanding - 1, writes := v.writes + 1
          free := if v.flip then v.free else v.free + 1, held := if v.flip then v.held + 1 else v.held } ∧
        u = { t with job := u.job, recs := u.recs, wins := u.wins, hosts := u.hosts })) ∧
    (∀ (i : Fin 64) (since : Nat), jobRuns t = true → (getColl t i).since = some since → (getColl t i).token = none →
      (t.limits.halfUs * 1600 < t.now - since → (∀ m ∈ collMissing t (ladColl (ladSec t) i) (getColl t i), jobModule t m = myIndex t) →
        Ends (.ladleStalled true i) t fun u => u.jobc = { t.jobc with st := 2, fault := 0x0706 } ∧ u.job = t.job) ∧
      (t.now - since ≤ t.limits.halfUs * 1600 → Ends (.ladleStalled true i) t fun u => u = t)) ∧
    (∀ (i : Fin 64) (h : DispHalf), jobRuns t = true → (getDisp t (i.val % 16)).flight = [h] → h.rows = [] →
      t.limits.halfUs * 1600 < t.now - h.since → Ends (.ladleStalled false i) t fun u => u.jobc = { t.jobc with st := 2, fault := 0x0706 })

/-- R144, R145, R146, R154: a registration and a load end: the image is registered, or failed and recorded; the shadow is READY, or empty.
R147 to R152: the switch token is injected at every cell that waits for it (in a first swap, at every cell), arrives from its neighbours,
and lets a cell commit once its wait is met; the wave is complete when all 512 cells have committed, and has stalled past the swap limit.
-/
def Obligations.ConfigurationsAndWave : Prop :=
  (∀ (s : State) (i : Fin 64), jobHeld s = true → s.job.churn.images.length = 64 →
    let v := getImg s i
    let h := s.job.churn.shadow
    (v.st = 1 → v.forOp.prog = 0 → Ends (.registrationComplete i) s fun t =>
      t = match imgVet s i with
        | .ok w => setChurn s { s.job.churn with images := s.job.churn.images.set i w }
        | .error b =>
          noteCfg (setChurn s { s.job.churn with images := s.job.churn.images.set i { v with st := 3 } }) b.code b.cell b.kind i b.off) ∧
    (v.st ≠ 1 → Ends (.registrationComplete i) s fun t => t = s) ∧
    (h.st = 1 → h.forOp.prog = 0 → h.waiting = none → h.recs = [] → s.job.churn.baseValid = true → Ends .shadowLoadComplete s fun t =>
      let empty := setChurn s { s.job.churn with shadow := {} }
      t = match imgConf s h.slot with
        | .error b => noteCfg empty b.code b.cell b.kind h.slot b.off
        | .ok (c, pre) => match footprintBad s c.recs with
          | some cell => noteCfg empty 0x010C cell 0 h.slot 0
          | none =>
            let cells := c.recs.map Prod.fst
            let cut := pre.flatMap (preCut c.recs)
            let isLate := fun (b : Nat × PreBlock) => (heldBanks s b.2.cell).getLsbD b.1
            let early := (cut.filter fun b => !isLate b).map Prod.snd
            let u := cells.foldl (fun u k => prePut (wakeCell u c.recs pre k) c.recs early k) s
            setChurn u { u.job.churn with shadow := { h with
              st := 2, recs := c.recs, tables := c.tables
              changed := (bothCells c.recs s.job.grid.recs).filter fun k => recAt c.recs k != getRec s k
              late := (cut.filter isLate).map Prod.snd } }) ∧
    (h.st ≠ 1 → Ends .shadowLoadComplete s fun t => t = s)) ∧
  (∀ (s : State) (c : Cell) (side : Side), jobRuns s = true →
    let ch := s.job.churn
    let w := ch.wave
    let tr := Tbl.get 0 w.travel c
    (w.active = true → w.stopped = false → w.injected = false → w.first = false → (∀ k : Cell, (getRec s k).wait.getLsbD 4 = false) →
      Ends .switchTokenInject s fun t => t = setChurn s { ch with wave := { w with injected := true } }) ∧
    (w.active = false ∨ w.injected = true → Ends .switchTokenInject s fun t => t = s) ∧
    (w.active = true → w.stopped = false → tr.getLsbD (sideNo side) = true → splits s c (sideNo side) = false →
        (getRec s c).wait.setWidth 5 &&& (waveTokens s c ||| (1#5 <<< sideNo side)) ≠ (getRec s c).wait.setWidth 5 → w.first = false →
        Ends (.switchTokenArrive c side false) s fun t =>
      t = setChurn s { ch with wave := { w with
        travel := Tbl.set 0 w.travel c (tr &&& ~~~(1#4 <<< sideNo side))
        tokens := Tbl.set 0 w.tokens c (waveTokens s c ||| (1#5 <<< sideNo side)) } }) ∧
    (w.active = true → w.stopped = false → tr.getLsbD (sideNo side) = true → splits s c (sideNo side) = false → s.job.ckpt = none →
        s.ras.testing = false → Ends (.switchTokenArrive c side true) s fun t =>
      t.jobc = { s.jobc with st := 2, fault := 0x0205 } ∧ t.job.churn.wave = w) ∧
    (tr.getLsbD (sideNo side) = false → Ends (.switchTokenArrive c side false) s fun t => t = s) ∧
    (w.active = true → w.stopped = false → w.first = false → c.val ∈ w.met → c.val ∉ w.committed → cellHeld s c = false →
        (∀ (n : Fin 3) (i : Fin 4), oldLeft s c n i = 0) → (∀ k : Fin 4, suOld (getRec s c) k (nth {} (getCell s c).su k) = false) →
        cellIdle s c = .idle → Ends (.cellCommit c) s fun t => t = commitCell s c ∧
      (s.job.ckpt = none → t.job.churn.wave.committed = w.committed ++ [c.val])) ∧
    (∀ k, w.active = true → w.stopped = false → w.first = false → c.val ∈ w.met → c.val ∉ w.committed → cellHeld s c = false →
        (∀ (n : Fin 3) (i : Fin 4), oldLeft s c n i = 0) → (∀ k : Fin 4, suOld (getRec s c) k (nth {} (getCell s c).su k) = false) →
        cellIdle s c = .part k → w.forOp.prog = 0 → Ends (.cellCommit c) s fun t =>
      t.jobc = { s.jobc with st := 2, fault := 0x010D } ∧ t.job = { s.job with churn := { ch with wave := { w with stopped := true } } }) ∧
    (c.val ∉ w.met → Ends (.cellCommit c) s fun t => t = s) ∧
    (w.active = true → w.stopped = false → w.committed.length = 512 → ch.shadow.tables = ch.tables → w.forOp.prog = 0 →
        (getImg s ch.shadow.slot).overlay = false → Ends .waveComplete s fun t =>
      t = { s with tiers := unpin s.tiers, job := { s.job with
        churn := { ch with
          baseSlot := ch.shadow.slot, baseValid := true, ovlSlot := 0, ovlValid := false, shadow := {}, wave := {}, swaps := ch.swaps + 1
          waveLast := s.now - w.start, waveMax := Nat.max ch.waveMax (s.now - w.start) }
        ckpt := none, hazard := 0, banksRead := [] } }) ∧
    (w.committed.length ≠ 512 → Ends .waveComplete s fun t => t = s) ∧
    (w.active = true → w.stopped = false → waveWaits s = true → s.limits.swapUs * 1600 < waveTime s → w.forOp.prog = 0 → Ends .swapStalled s fun t =>
      t.jobc = { s.jobc with st := 2, fault := 0x0115 } ∧ t.job = { s.job with churn := { ch with wave := { w with stopped := true } } }) ∧
    (waveTime s ≤ s.limits.swapUs * 1600 ∨ waveWaits s = false → Ends .swapStalled s fun t => t = s))

/-- R161, R163, R179, R182: a move's last chunk switches the page and frees its source frame; a frame's zeroing makes it free and zero; a
schedule's late page is recorded once; an uncorrectable tier read faults the job. R170 to R175: a transfer starts where its engine can
take it, moves every word that is left and completes, or halts at a page that is ABSENT with the words before it committed. -/
def Obligations.TiersAndStreams : Prop :=
  (∀ (s : State) (page : Nat) (vat : Bool) (f g : Nat), s.tiers.maps = [] → s.tiers.badNear = [] → s.tiers.badVat = [] → s.tiers.lostSlots = [] →
    s.ras.failedStacks = 0 → s.adm.pending = [] →
    (∀ m : Move, (getPage s page).st = .moving vat f (!vat) g → s.tiers.moves = [m] → m.page = page → m.started = true → m.forOp = none →
        frameSt s vat f ≠ .retired → Ends (.pageMoveComplete page) s fun t =>
      let e := getPage s page
      t.tiers.pages = Tbl.set {} s.tiers.pages page { e with st := if vat then .near g else .vat g } ∧
      t.tiers.moves = [] ∧ t.tiers.cache = (cacheDrop s page).tiers.cache ∧
      t.job = { s.job with sched := { s.job.sched with moves := s.job.sched.moves + 1 } } ∧
      (vat = true → t.tiers.near = (copyFrame s vat f (!vat) g).tiers.near ∧ t.tiers.vat = s.tiers.vat ∧
        t.tiers.vatF = Tbl.set .free s.tiers.vatF f .zeroing ∧ t.tiers.nearF = s.tiers.nearF) ∧
      (vat = false → t.tiers.vat = (copyFrame s vat f (!vat) g).tiers.vat ∧ t.tiers.near = s.tiers.near ∧
        t.tiers.nearF = Tbl.set .free s.tiers.nearF f .zeroing ∧ t.tiers.vatF = s.tiers.vatF) ∧
      t = { s with tiers := t.tiers, job := t.job }) ∧
    (s.tiers.moves = [] → Ends (.pageMoveComplete page) s fun t => t = s) ∧
    (frameSt s false f = .zeroing → s.tiers.moves = [] → Ends (.frameZeroDone false f) s fun t =>
      t = { s with tiers := { s.tiers with
        nearF := Tbl.set .free s.tiers.nearF f .free, near := Mem.zero s.tiers.near (f * 2 ^ 21) (2 ^ 21) } }) ∧
    (frameSt s true f = .zeroing → s.tiers.moves = [] → s.boot.vatZeroed = true → Ends (.frameZeroDone true f) s fun t =>
      t.tiers.vat = Mem.zero s.tiers.vat (f * 2 ^ 21) (2 ^ 21) ∧ t.tiers.vatF = Tbl.set .free s.tiers.vatF f .free ∧
      t = { s with tiers := { s.tiers with vat := t.tiers.vat, vatF := t.tiers.vatF, cured := t.tiers.cured } }) ∧
    (frameSt s vat f ≠ .zeroing → Ends (.frameZeroDone vat f) s fun t => t = s) ∧
    (∀ (k : Fin 8192) (e : Due), jobRuns s = true → s.job.sched.due = [e] → e.entry = k.val → e.before ≤ s.job.sched.count →
      Ends (.prefetchLate k) s fun t =>
        t.job = { s.job with sched := { s.job.sched with due := [], late := s.job.sched.late + 1 } } ∧
        t.recs.str = recNote s.recs.str 0x030E (2 ^ 17 * k.val + 2 ^ 30) (e.page * 2 ^ 21) ∧
        t = { s with job := t.job, recs := { s.recs with str := t.recs.str }, hosts := t.hosts }) ∧
    (∀ (k : Fin 8192), (∀ e ∈ s.job.sched.due, e.entry ≠ k.val ∨ s.job.sched.count < e.before) →
      Ends (.prefetchLate k) s fun t => t = s) ∧
    (∀ (a : BitVec 48), jobRuns s = true → Ends (.tierUncorrectable false g a) s fun t =>
      t.jobc = { s.jobc with st := 2, fault := 0x0314 } ∧ t.job = s.job ∧ t.tiers = s.tiers ∧
      t.recs.str = recNote s.recs.str 0x0314 (2 ^ 17 * (g % 8192)) a.toNat)) ∧
  (∀ (s : State) (d : Desc), jobRuns s = true →
    let x := getStr s d
    let r := strDesc s d
    let n := strTotal r
    (strCanStart s d = true → strTurn s d = true → (strMeet s d 0 = .word ∨ strMeet s d 0 = .absent) → Ends (.streamTransferStart d) s fun t =>
      t = setStr s d { x with st := 2, pos := 0, quiet := false, ran := true }) ∧
    (strCanStart s d = true → strTurn s d = true → strMeet s d 0 = .unmapped → Ends (.streamTransferStart d) s fun t =>
      t.jobc = { s.jobc with st := 2, fault := 0x0311 } ∧ t.job = (setStr s d { x with st := 2, pos := 0, quiet := false, ran := true }).job) ∧
    (strCanStart s d = false → Ends (.streamTransferStart d) s fun t => t = s) ∧
    (x.st = 2 → (∀ k < n, x.pos ≤ k → strMeet s d k = .word) → x.pos ≤ n → r.event = false → s.adm.reqs = [] →
        Ends (.streamTransferComplete d) s fun t =>
      let u := strWords s d x.pos (n - x.pos)
      t = setStr u d (strDone u.now (strHeld u d) r (getStr u d))) ∧
    (x.again = [] → strDone s.now false r x = (if r.persist then (match x.shadow with
        | none => { x with st := 0, pos := 0 }
        | some v => { x with st := 1, pos := 0, addr := v.1, off := v.2, shadow := none, took := x.took ++ [v], ready := s.now })
      else { x with st := 4, pos := 0 })) ∧
    (x.st ≠ 2 → Ends (.streamTransferComplete d) s fun t => t = s) ∧
    (∀ k < n, x.st = 2 → x.pos ≤ k → (∀ j < k, x.pos ≤ j → strMeet s d j = .word) → strMeet s d k = .absent → s.recs.str.valid = false →
        s.job.ckpt = none → Ends (.streamHaltedAbsent d) s fun t =>
      t.job.streams = Tbl.set {} s.job.streams d { x with st := 3, pos := k, quiet := false } ∧
      (x.quiet = false → t.recs.str.reg = BitVec.ofNat 64 (0x0310 + 2 ^ 16 + 2 ^ 17 * d.val + 2 ^ 31 * (64 * k % 2 ^ 21)))) ∧
    (∀ k < n, x.st = 2 → x.pos ≤ k → (∀ j < k, x.pos ≤ j → strMeet s d j = .word) → strMeet s d k = .absent →
      Ends (.streamTransferComplete d) s fun t => t = s))

/-- R199, R201, R210: a command that a program submits joins the urgent queue (SPILL, RESTORE) or the bulk queue, of 64 and 16, or is
refused BUSY; the head of a queue starts, and once its work is done it leaves the queue and its status goes to its program. A LOAD that
cannot start ends at once with the status of R202 and R203, which is recorded. R190 to R192, R200 to R209, R212: the work of the running
head of a queue, by its OP: the state it leaves and the status it ends with. DELETE destroys the image's keys and frees its stripes;
PUBLISH makes a READY version CURRENT, DROP makes the CURRENT one retire; a failure is recorded. The scrub reads the next stripe: one or
two missing shards are rebuilt, with more the stripe is lost. -/
def Obligations.Separator : Prop :=
  (∀ (s : State) (c : Ctx) (rd rs1 : GReg) (b : List Byte) (urgent : Bool) (x : SepCmd) (rest : List SepCmd) (nand : Nand), Sized s →
    let v := leNat b
    let new := { sepCmd v with forOp := opOf s c, job := s.jobc.id }
    let put := fun (l : List SepCmd) => if urgent then { s.sep with urgent := l } else { s.sep with bulk := l }
    let joins := fun (q : Sep) (t : State) => t = { issued s c rd (ticketAfter s c) 0 with sep := q }
    let busy := fun (t : State) => t = wrote s c rd 0x0004 4
    let toUrgent := { s.sep with urgent := s.sep.urgent ++ [new] }
    let toBulk := { s.sep with bulk := s.sep.bulk ++ [new] }
    (At s c (wordD 0x34 0 rd rs1 0 0) none → cmOperand s c (greg s c rs1).toNat 32 = some b → b.length = 32 → sepBad v = false → s.jobc.st = 1 →
      (s.sep.urgent.length < 64 →
        (v % 16 = 3 → Ends (.sepSpill (.issue c rd rs1)) s (joins toUrgent)) ∧
        (v % 16 = 4 → (∀ i < new.count, isBacked (getPage s (new.addr / 2 ^ 21 + i)).st = false) →
          Ends (.sepRestore (.issue c rd rs1)) s (joins toUrgent))) ∧
      (64 ≤ s.sep.urgent.length →
        (v % 16 = 3 → Ends (.sepSpill (.issue c rd rs1)) s busy) ∧ (v % 16 = 4 → Ends (.sepRestore (.issue c rd rs1)) s busy)) ∧
      (s.sep.bulk.length < 16 → sepBusy s new = false →
        (v % 16 = 1 → Ends (.sepPack (.issue c rd rs1)) s (joins toBulk)) ∧ (v % 16 = 2 → Ends (.sepLoad (.issue c rd rs1)) s (joins toBulk)) ∧
        (v % 16 = 5 → Ends (.sepDelete (.issue c rd rs1)) s (joins toBulk)) ∧ (v % 16 = 6 → Ends (.sepPublish (.issue c rd rs1)) s (joins toBulk)) ∧
        (v % 16 = 7 → Ends (.sepDrop (.issue c rd rs1)) s (joins toBulk))) ∧
      (16 ≤ s.sep.bulk.length ∨ sepBusy s new = true →
        (v % 16 = 1 → Ends (.sepPack (.issue c rd rs1)) s busy) ∧ (v % 16 = 2 → Ends (.sepLoad (.issue c rd rs1)) s busy) ∧
        (v % 16 = 5 → Ends (.sepDelete (.issue c rd rs1)) s busy) ∧ (v % 16 = 6 → Ends (.sepPublish (.issue c rd rs1)) s busy) ∧
        (v % 16 = 7 → Ends (.sepDrop (.issue c rd rs1)) s busy))) ∧
    ((if urgent then s.sep.urgent else s.sep.bulk) = x :: rest →
      (x.running = false → sepMay s urgent x = true → x.op ≠ 2 → Ends (.sepCommandStart ⟨urgent, nand⟩) s fun t =>
        t = { s with sep := put ({ x with running := true } :: rest) }) ∧
      (x.running = true ∨ sepMay s urgent x = false → Ends (.sepCommandStart ⟨urgent, nand⟩) s fun t => t = s) ∧
      (∀ code, x.result = some code → x.slot = none → Ends (.sepCommandComplete urgent) s fun t =>
        t = opDone { s with sep := put rest } x.forOp code) ∧
      (∀ code a, x.result = some code → x.slot = some a → (getAdp s a).st = 2 → Ends (.sepCommandComplete urgent) s fun t =>
        t = opDone { s with sep := put rest } x.forOp code) ∧
      (x.result = none → Ends (.sepCommandComplete urgent) s fun t => t = s)) ∧
    (s.sep.bulk = x :: rest → x.running = false → sepMay s false x = true → x.op = 2 →
      let ends := fun (code : Status) (t : State) =>
        t = noteSep { s with sep := { s.sep with bulk := { x with running := true, result := some code } :: rest } } code 2 0 0 x.id
      (∀ e : Nat × DirEnt, dirOf s x.id = some e → e.2.kind = 0 → wsetServed s x.wset = true →
        Ends (.sepCommandStart ⟨false, ⟨[], []⟩⟩) s (ends 0x0408)) ∧
      ((∀ e ∈ s.sep.dir, e.2.id ≠ x.id) → Ends (.sepCommandStart ⟨false, ⟨[], []⟩⟩) s (ends 0x0404)))) ∧
  (∀ (s : State) (x : SepCmd) (rest : List SepCmd) (nand : Nand),
    let u := nandReads s nand
    let after := fun (urgent : Bool) (r : Status × State) (t : State) =>
      t = recheckFreed s (sepFail (nandWorn (sepSetHead r.2 urgent { x with result := some r.1 }) nand) x r.1)
    let ends := fun (code : Status) (q : Sep) => ({ s with sep := { q with bulk := { x with result := some code } :: rest } } : State)
    (s.sep.bulk = x :: rest → x.running = true → x.result = none → sepMay s false x = true →
      (x.op = 1 → Ends (.sepPack (.work nand)) s (after false (sepPack u x))) ∧ (x.op = 2 → Ends (.sepLoad (.work nand)) s (after false (sepLoad u x))) ∧
      (x.op = 5 → Ends (.sepDelete (.work nand)) s (after false (sepDelete u x))) ∧
      (x.op = 6 → Ends (.sepPublish (.work nand)) s (after false (sepPublish u x))) ∧ (x.op = 7 → Ends (.sepDrop (.work nand)) s (after false (sepDrop u x))) ∧
      (∀ e, x.op = 1 → e ∈ s.sep.dir → e.2.id = x.id → Ends (.sepPack (.work ⟨[], []⟩)) s fun t =>
        t = noteSep (ends 0x0403 s.sep) 0x0403 1 0 0 x.id) ∧
      (x.op = 5 → dirOf s x.id = none → Ends (.sepDelete (.work ⟨[], []⟩)) s fun t => t = noteSep (ends 0x0404 s.sep) 0x0404 5 0 0 x.id) ∧
      (∀ e, x.op = 5 → dirOf s x.id = some e → Ends (.sepDelete (.work ⟨[], []⟩)) s fun t => t = ends 0 { s.sep with
        dir := Tbl.erase s.sep.dir e.1, stripes := s.sep.stripes.filter fun y => !(e.2.stripes.any fun z => z.2 == y.1) }) ∧
      (∀ (k : Nat) (a : AdpSlot), x.op = 6 → s.sep.adps = [(k, a)] → a.st = 2 → a.id = x.adapter → a.version = x.version →
        Ends (.sepPublish (.work ⟨[], []⟩)) s fun t => t = ends 0 { s.sep with adps := [(k, { a with st := 3 })] }) ∧
      (x.op = 6 → (∀ y ∈ s.sep.adps, y.2.st = 2 → y.2.id = x.adapter → y.2.version ≠ x.version) →
        Ends (.sepPublish (.work ⟨[], []⟩)) s fun t => t = noteSep (ends 0x040B s.sep) 0x040B 6 0 0 x.id) ∧
      (∀ (k : Nat) (a : AdpSlot), x.op = 7 → s.sep.adps = [(k, a)] → a.st = 3 → a.id = x.adapter → a.refs ≠ 0 →
        Ends (.sepDrop (.work ⟨[], []⟩)) s fun t => t = ends 0 { s.sep with adps := [(k, { a with st := 4 })] }) ∧
      (x.op = 7 → (∀ y ∈ s.sep.adps, y.2.st = 3 → y.2.id ≠ x.adapter) →
        Ends (.sepDrop (.work ⟨[], []⟩)) s fun t => t = noteSep (ends 0x040B s.sep) 0x040B 7 0 0 x.id)) ∧
    (s.sep.urgent = x :: rest → x.running = true → x.result = none → sepMay s true x = true →
      (x.op = 3 → Ends (.sepSpill (.work nand)) s (after true (sepSpill u x))) ∧
      (x.op = 4 → restoreFits s x = true → Ends (.sepRestore (.work nand)) s (after true (sepRestore u x)))) ∧
    (∀ (n : Fin 134217728) (y : Stripe) (others : List (Nat × Stripe)) (damage : BitVec 8), isReady s = true → s.sep.bulk = [] →
      s.sep.stripes = (n.val, y) :: others → s.sep.scrubPos ≤ n.val → y.shards.length = 8 →
      let hurt := { y with shards := y.shards.zipIdx.map fun d => if damage.getLsbD d.2 then [] else d.1 }
      let miss := missingOf n hurt
      let id := (Tbl.get {} s.sep.dir y.dir).id
      (missingOf n y = [] → Ends (.storeScrub ⟨[], []⟩) s fun t => t = { s with sep := { s.sep with scrubPos := n.val + 1 } }) ∧
      (miss ≠ [] → canRebuild hurt miss = true → Ends (.storeScrub ⟨[⟨n, damage, []⟩], []⟩) s fun t =>
        t = noteSep { s with sep := { s.sep with
          scrubPos := n.val + 1, rebuilt := s.sep.rebuilt + 1, writes := s.sep.writes + 1
          stripes := (n.val, stripeOf n y.dir s.sep.writes (rebuilt hurt miss)) :: others } } 0x0406 0 n (shardMask miss) id) ∧
      (miss ≠ [] → canRebuild hurt miss = false → y.lost = false → Ends (.storeScrub ⟨[⟨n, damage, []⟩], []⟩) s fun t =>
        t = noteSep { s with sep := { s.sep with
          scrubPos := n.val + 1, lost := s.sep.lost + 1, stripes := (n.val, { hurt with lost := true }) :: others } } 0x0407 0 n (shardMask miss) id)) ∧
    (isReady s = true → s.sep.bulk = [] → (∀ y ∈ s.sep.stripes, y.1 < s.sep.scrubPos) → Ends (.storeScrub nand) s fun t =>
      t = { s with sep := { s.sep with
        scrubPos := 0, passDays := (s.now - s.sep.scrubSince) / (86400 * 1600000000) % 256, scrubSince := s.now } }))

/-- R163, R218, R219, R224, R228, R254: ADMIT admits a request in one step, queues it, waits for zeroed frames or refuses it with a
record; CANCEL removes a pending request at once and waits for an open one. -/
def Obligations.AdmissionOperations : Prop :=
  ∀ (s : State) (c : Ctx) (rd rs1 rs2 : GReg) (h : Slot) (d : List Byte), Sized s → s.jobc.st = 1 →
    let counted := { s with adm := { s.adm with refused := s.adm.refused + 1 } }
    let tag := greg s c rs1
    (At s c (wordD 0x35 0 rd rs1 rs2 0) none → cmOperand s c (greg s c rs1).toNat 64 = some d → (greg s c rs2).toNat = h → s.adm.deciding = none →
      (∀ g, descBad d = false → decideReq s d = .admits g → g.absent = [] → Ends (.admitRequest c rd rs1 rs2) s fun t =>
        let r := t.adm.reqs.getLast?
        greg t c rd = (if rd = 0 then 0 else BitVec.ofNat 64 (2 ^ 17 * g.seq.getD 0)) ∧
        t.adm.admitted = s.adm.admitted + 1 ∧ t.adm.reqs.dropLast = s.adm.reqs ∧
        r.map (fun r => (r.svc, r.slot, r.host, r.job)) = some (dSvc d, g.slot, h.val, s.jobc.id) ∧
        r.map (fun r => (r.desc, r.ended)) = some (d, none) ∧
        r.map (fun r => (r.base, r.due)) = some (s.now, s.now + g.ttft) ∧
        (∀ i : Ctx, i ≠ c → getCtx t i = getCtx s i) ∧
        t = { s with adm := t.adm, tiers := t.tiers, sep := t.sep, hosts := t.hosts, raler := { s.raler with ctx := t.raler.ctx }, free := t.free }) ∧
      (∀ code, descBad d = false → decideReq s d = .lacks code → dQueue d = true → s.adm.pending.length < 1024 → Ends (.admitRequest c rd rs1 rs2) s fun t =>
        t = { wrote s c rd (BitVec.ofNat 64 (2 ^ 16)) 4 with adm := { s.adm with pending := s.adm.pending ++ [⟨h, s.jobc.id, d⟩] } }) ∧
      (∀ code, descBad d = false → decideReq s d = .lacks code → dQueue d = true → 1024 ≤ s.adm.pending.length →
        Ends (.admitRequest c rd rs1 rs2) s fun t => t = { wrote s c rd 0x050B 4 with
          adm := counted.adm, hosts := (postRecord counted h (recordBytes (dTag d) 1 0x050B s.now 0)).hosts }) ∧
      (descBad d = false → decideReq s d = .waits → Ends (.admitRequest c rd rs1 rs2) s fun t =>
        t = { s with adm := { s.adm with deciding := some (.ctx c (getCtx s c).prog) } }) ∧
      (∀ code, descBad d = false → decideReq s d = .refused code → Ends (.admitRequest c rd rs1 rs2) s fun t =>
        let reopen := if code = 0x0501 then (getSvc s (dSvc d)).ctrl.toNat / 2 % 2 ^ 40 else 0
        t = { wrote s c rd (code.setWidth 64) 4 with
          adm := counted.adm
          hosts := (postRecord counted h (recordBytes (dTag d) 1 code.toNat s.now (2 ^ 320 * reopen))).hosts }) ∧
      (descBad d = true → Ends (.admitRequest c rd rs1 rs2) s fun t =>
        t = { wrote s c rd 1 4 with
          adm := counted.adm, hosts := (postRecord counted h (recordBytes (dTag d) 1 1 s.now 0)).hosts }) ∧
      (descBad d = false → (getSvc s (dSvc d)).st = 0 → decideReq s d = .refused 0x0501) ∧
      (descBad d = false → (getSvc s (dSvc d)).st = 2 → decideReq s d = .refused 0x0502)) ∧
    (At s c (wordD 0x35 2 rd rs1 rs2 0) none → (greg s c rs2).toNat = h → (∀ r ∈ s.adm.reqs, c.val ∉ r.cancels) →
      (∀ p : Pend, s.adm.pending = [p] → p.host = h → dTag p.desc = tag.toNat → s.adm.reqs = [] → Ends (.cancel c rd rs1 rs2) s fun t =>
        t = { wrote s c rd 0x050D 4 with
          adm := { s.adm with pending := [] }
          hosts := (noteRecent (postRecord s h (recordBytes (dTag p.desc) 3 0x050D s.now 0)) h tag).hosts }) ∧
      (∀ r : Req, s.adm.pending = [] → s.adm.reqs = [r] → r.host = h → r.tag = tag → r.ended = none → Ends (.cancel c rd rs1 rs2) s fun t =>
        t = { setCtx s c { getCtx (moved s c 4) c with st := 2, waits := .cancel rd false } with
          adm := { s.adm with reqs := [{ r with cancels := r.cancels ++ [c.val] }] } }) ∧
      (s.adm.pending = [] → s.adm.reqs = [] → Ends (.cancel c rd rs1 rs2) s fun t =>
        t = wrote s c rd (if (getHost s h).recent.contains tag then 0x050E else 0x0510) 4))

/-- R214 to R217, R222, R225, R227, R228, R331: a service opens and closes; a round begins and ends; a missed deadline breaks a promise
and suspends the service; the completion record of a request that has ended is written, and what it held is released. -/
def Obligations.Services : Prop :=
  ∀ (s : State) (n : Slot) (v : Svc) (re : BitVec 40) (k : Win) (c : Ctx) (rd rs1 rs2 rs3 : GReg), Sized s →
    let x := getSvc s v
    let put := fun (y : Service) => { s.adm with svcs := s.adm.svcs.set v y }
    let ctrl := fun (o : Nat) => BitVec.ofNat 64 (o + 2 * re.toNat)
    (OwnerAnswers s n → x.st ≠ 1 → canOpen s x = true → Ends (.svcOpen n v re) s fun t => t = { s with adm := put { x with
      st := 1, ctrl := ctrl 1, idx := 0, inRound := false, prefillNext := 1, rounds := 0, long := 0, steps := 0, accepted := 0 } }) ∧
    (OwnerAnswers s n → x.st ≠ 1 → canOpen s x = false → Ends (.svcOpen n v re) s fun t => t = met s n 0x0503 0 (0x801018 + 0x40 * v.val)) ∧
    (OwnerAnswers s n → s.adm.pending = [] → Ends (.svcClose n v re) s fun t => t = { s with adm := put { x with st := 0, ctrl := ctrl 0 } }) ∧
    (∀ p : Pend, OwnerAnswers s n → s.adm.pending = [p] → dSvc p.desc = v → Ends (.svcClose n v re) s fun t =>
      let u := { s with adm := { put { x with st := 0, ctrl := ctrl 0 } with pending := [] } }
      t = refuse u p.host p.desc 0x0501) ∧
    (∀ (idx : Nat) (i : Fin 8), At s c (wordD 0x35 1 rd rs1 rs2 rs3) none → s.jobc.st = 1 → (greg s c rs1).toNat = v → (greg s c rs2).toNat = idx →
      (greg s c rs3).toNat = i → idx < 2 ^ 32 → s.adm.reqs = [] →
      (x.st ≠ 0 → Ends (.round c rd rs1 rs2 rs3) s fun t =>
        let u := { s with adm := put { x with
          idx := idx, prefillNext := idx + 1, ctr := x.ctr + 1, inRound := true, gone := [], start := s.now, timer := i, job := s.jobc.id, rounds := x.rounds + 1
          beats := (getTimer s i).beats } }
        t = { writeTokens u v (x.ctr + 1) with raler := (wrote s c rd 0 4).raler }) ∧
      (x.st = 0 → Ends (.round c rd rs1 rs2 rs3) s fun t => t = wrote s c rd 0x0501 4)) ∧
    (jobRuns s = true → x.inRound = true → x.job = s.jobc.id → x.beats + x.roundBeats ≤ (getTimer s x.timer).beats → s.adm.reqs = [] →
      Ends (.roundEnd v) s fun t => t = [0, 2, 4, 6].foldl (fun u c => raiseEvent u c 2 (BitVec.ofNat 64 (2 ^ 32 * (v.val + 2 ^ 4 * (x.idx % 2 ^ 28)))))
        { s with adm := put { x with inRound := false, gone := [], long := x.long + (if x.round < s.now - x.start then 1 else 0) } }) ∧
    ((getTimer s x.timer).beats < x.beats + x.roundBeats → Ends (.roundEnd v) s fun t => t = s) ∧
    (∀ r : Req, s.adm.reqs = [r] → r.svc = v → r.slot = k → r.ended = none → r.job = s.jobc.id → s.jobc.st = 1 → r.broken = false →
      (r.due < s.now → x.st ≠ 2 → s.adm.pending = [] → Ends (.promiseBroken v k) s fun t =>
        t.adm = { put { x with st := 2 } with reqs := [{ r with broken := true, excused := s.power.trip && !s.power.inRating }], broken := s.adm.broken + 1 } ∧
        t.recs.adm = recNote s.recs.adm 0x050C (2 ^ 17 * v.val + 2 ^ 21 * k.val) 0 ∧
        t = { s with adm := t.adm, recs := { s.recs with adm := t.recs.adm }, hosts := t.hosts }) ∧
      (s.now ≤ r.due → Ends (.promiseBroken v k) s fun t => t = s)) ∧
    (∀ (r : Req) (o : Nat × Status), s.adm.reqs = [r] → r.svc = v → r.slot = k → r.ended = some o → s.adm.copies = [] → s.adm.pending = [] →
      r.seq = none → r.adp = none → r.pages = 0 → Ends (.requestCompletion v k) s fun t =>
        t = { postRecord s r.host (completionBytes r o.1 o.2) with adm := { s.adm with reqs := [] } }) ∧
    (∀ r : Req, s.adm.reqs = [r] → r.ended = none → Ends (.requestCompletion v k) s fun t => t = s)

/-- R232, R235, R236, R237, R240, R242: the registers that place a service's key-value area and pool, the release of a sequence and of a
service's unreferenced blocks, a copy into the pool that completes, and a re-arm that the Cellar issues. -/
def Obligations.Cellar : Prop :=
  ∀ (s : State) (n : Slot) (v : Svc) (q : Fin 4096) (k : Win) (value : Word), Sized s →
    let x := getSvc s v
    let e := getSeq s q
    let put := fun (y : Service) => { s.adm with svcs := s.adm.svcs.set v y }
    let a := value.toNat % 2 ^ 27
    let sh := value.toNat / 2 ^ 27 % 2 ^ 5
    (OwnerAnswers s n → value.toNat < 2 ^ 32 → svcLocked s v = false → svcHolds s v = false →
      (10 ≤ sh → sh ≤ 20 → a % (64 * 2 ^ sh) = 0 → (∀ y ∈ s.adm.svcs, y.areaSet = false ∧ y.poolPages = 0) → Ends (.csKvareaWrite n v value) s fun t =>
        t = { s with adm := put { x with area := value, areaSet := true } }) ∧
      (sh < 10 ∨ 20 < sh ∨ a % (64 * 2 ^ sh) ≠ 0 → Ends (.csKvareaWrite n v value) s fun t => t = met s n 0x0001 0 (0x901008 + 0x40 * v.val))) ∧
    (OwnerAnswers s n → value.toNat < 2 ^ 47 → svcLocked s v = false → svcHolds s v = false →
      ((∀ i < value.toNat / 2 ^ 27, (getPage s (a + i)).st ≠ .unmapped) → Ends (.csPoolWrite n v value) s fun t =>
        t = { s with adm := put { x with pool := value } }) ∧
      (value.toNat / 2 ^ 27 ≠ 0 → (getPage s a).st = .unmapped → Ends (.csPoolWrite n v value) s fun t =>
        t = met s n 0x0315 0 (0x901000 + 0x40 * v.val))) ∧
    (OwnerAnswers s n → svcLocked s v = true → value.toNat < 2 ^ 32 →
      (Ends (.csKvareaWrite n v value) s fun t => t = met s n 0x0004 0 (0x901008 + 0x40 * v.val)) ∧
      Ends (.csPoolWrite n v value) s fun t => t = met s n 0x0004 0 (0x901000 + 0x40 * v.val)) ∧
    (OwnerAnswers s n → e.st = 2 → e.pool = [] → Ends (.release n q) s fun t =>
      t = { s with adm := { s.adm with seqs := Tbl.erase s.adm.seqs q, cmd := BitVec.ofNat 64 (1 + 4 * q.val) } }) ∧
    (OwnerAnswers s n → e.st ≠ 2 → Ends (.release n q) s fun t =>
      t = { s with adm := { s.adm with cmd := BitVec.ofNat 64 (1 + 4 * q.val + 2 ^ 32 * 0x0505) } }) ∧
    (OwnerAnswers s n → Ends (.dropPrefix n v) s fun t => t = { s with adm := { s.adm with
      cmd := BitVec.ofNat 64 (2 + 2 ^ 14 * v.val)
      blocks := s.adm.blocks.filter fun b => !(b.svc == v && b.refs == 0 && b.hash.isSome && !b.busy) } }) ∧
    (∀ (c : BCopy) (b : PBlock) (hash : List Byte), jobHeld s = true → s.adm.copies = [c] → s.adm.blocks = [b] → c.job = s.jobc.id → c.svc = v →
      c.orphan = false → c.hash = some hash → b.job = c.job → b.svc = v → b.idx = c.idx → b.hash = none → poolReady s v c.idx = true →
      Ends (.blockCopyComplete 0) s fun t =>
        t = { devStore s (poolAddr x c.idx) (devAll s (x.slotBase c.slot * 2 ^ 21 + c.own * x.blockBytes) (c.n * x.kvBytes)) with
          adm := { s.adm with
            copies := [], published := s.adm.published + 1, blocks := [{ b with busy := false, hash := some hash, last := s.now }] } }) ∧
    (s.adm.copies = [] → Ends (.blockCopyComplete 0) s fun t => t = s) ∧
    (∀ (r : Req) (w : MapDesc) (at_ : Nat), jobRuns s = true → s.adm.reqs = [r] → r.svc = v → r.slot = k → r.job = s.jobc.id →
      r.rearms = [(mapKind w, at_)] → r.issued = [] → readable s (x.mapAddr + 64 * k.val) 64 = true →
      let d := bits (slotEntry s v k) (16 * mapKind w) 11
      (strDesc s d).enable = true → (strDesc s d).persist = true → at_ % 64 = 0 → at_ < 2 ^ 48 → (getStr s d).st = 0 → (getStr s d).shadow = none →
        Ends (.slotMapRearm v k w) s fun t => t = { s with
          job := { s.job with streams := Tbl.set {} s.job.streams d (strArmed s.now (at_, (getStr s d).off) (getStr s d)) }
          adm := { s.adm with reqs := [{ r with rearms := [] }] } })

/-- R305, R332: MSEND hands its message to the ring and waits for its fate; MRECV takes the oldest message of the inbox. R326: RDREG and
WRREG: the register, or 0 with REG_STATUS; a misaligned offset and a forbidden one end the program. -/
def Obligations.MessagesAndRegisterInstructions : Prop :=
  (∀ (s : State) (c : Ctx) (rd rs1 rs2 rs3 : GReg), Sized s → s.jobc.st = 1 →
    let dst := (greg s c rs1).toNat
    (∀ (b : List Byte) (e : PtEntry), At s c (wordD 0x36 0 rd rs1 rs2 rs3) none → dst < 2 ^ 16 → (greg s c rs3).toNat ≤ 256 →
      cmOperand s c (greg s c rs2).toNat (greg s c rs3).toNat = some b → jobPt s = some e →
      (inBox s.ring.inForce e dst = true → Ends (.msend c rd rs1 rs2 rs3) s fun t =>
        t = originate (setCtx s c { getCtx (moved s c 4) c with st := 2, waits := .msend rd dst }) (ptPart e) dst (.msg b)) ∧
      (inBox s.ring.inForce e dst = false → Ends (.msend c rd rs1 rs2 rs3) s fun t => t.jobc = { s.jobc with st := 2, fault := 0x0808 })) ∧
    (At s c (wordD 0x36 0 rd rs1 rs2 rs3) none → 2 ^ 16 ≤ dst ∨ 256 < (greg s c rs3).toNat → Ends (.msend c rd rs1 rs2 rs3) s fun t =>
      t = wrote s c rd 1 4) ∧
    (∀ (m : BitVec 16 × List Byte) (rest : List (BitVec 16 × List Byte)), At s c (wordD 0x36 1 rd rs1 0 0) none → cmAllows c dst 256 = true →
      s.job.inbox = m :: rest → m.2.length ≤ 256 → Ends (.mrecv c rd rs1) s fun t =>
        t = { wrote s c rd (BitVec.ofNat 64 (2 ^ 16 * (m.1.toNat + 2 ^ 16 * m.2.length))) 4 with
          job := { s.job with inbox := rest }, cm := Mem.writeN s.cm dst m.2 }) ∧
    (At s c (wordD 0x36 1 rd rs1 0 0) none → cmAllows c dst 256 = true → s.job.inbox = [] → Ends (.mrecv c rd rs1) s fun t =>
      t = wrote s c rd 0x0927 4)) ∧
  (∀ (s : State) (c : Ctx) (rd rs1 : GReg) (x : Bool) (imm : BitVec 47), Sized s →
    let off := (greg s c rs1 + imm.signExtend 64).toNat
    let v := (greg s c rd).toNat
    let status := fun (u : State) (code : Status) => setCtx u c { getCtx u c with regStatus := code }
    let job := c.val % 2 = 0 ∧ (off < 0x300000 ∨ 0xB10000 ≤ off)
    (AtI s c 0x20 rd rs1 x imm → off % 8 = 0 → ¬ (0x280000 ≤ off ∧ off < 0x300000) → ¬ (0x503000 ≤ off ∧ off < 0x503100) →
      Ends (.rdreg c rd rs1 x imm) s fun t =>
        t = status (wrote s c rd (BitVec.ofNat 64 ((regAt (moved s c (len x)) true off).getD 0)) (len x)) 0) ∧
    (AtI s c 0x21 rd rs1 x imm → off % 8 = 0 → off / 0x100000 ≠ 1 → ¬ job → ¬ (0x280000 ≤ off ∧ off < 0x300000) →
      Ends (.wrreg c rd rs1 x imm) s fun t =>
        let r := regWrite (moved s c (len x)) 0 true off v
        t = status r.2 (r.1.getD 0)) ∧
    (AtI s c 0x20 rd rs1 x imm → off % 8 ≠ 0 → Ends (.rdreg c rd rs1 x imm) s fun t => t = programFault (moved s c (len x)) c 0x0921) ∧
    (AtI s c 0x21 rd rs1 x imm → off % 8 ≠ 0 → Ends (.wrreg c rd rs1 x imm) s fun t => t = programFault (moved s c (len x)) c 0x0921) ∧
    (AtI s c 0x21 rd rs1 x imm → off % 8 = 0 → (off / 0x100000 = 1 ∨ job) → Ends (.wrreg c rd rs1 x imm) s fun t =>
      t = programFault (moved s c (len x)) c 0x0923) ∧
    (AtI s c 0x21 rd rs1 x imm → off = 0x400018 → 20 ≤ v → v ≤ 1000 → Ends (.wrreg c rd rs1 x imm) s fun t =>
      t = status { moved s c (len x) with limits := { s.limits with hangUs := v } } 0))

/-- R333, R355 to R358: SAVE suspends the job's windows, freezes its beat timers and takes the job out of the units into the save area;
RESTORE brings it back; both are a supervisor's alone. -/
def Obligations.SaveAndRestore : Prop :=
  ∀ (s : State) (c : Ctx) (rd rs1 : GReg), Sized s →
    let id := (greg s c rs1).toNat
    let signal := fun (u : State) => u.hosts.map fun h => msixRaise s.now h 3
    (At s c (wordD 0x37 0 rd 0 0 0) none → c.val % 2 = 0 → Ends (.save c rd) s fun t => t = programFault (moved s c 4) c 0x0923) ∧
    (At s c (wordD 0x37 0 rd 0 0 0) none → c.val % 2 = 1 → s.jobc.st = 1 → s.saved.length < 8 → savedMib s + imageMib s ≤ 1024 →
      Ends (.save c rd) s fun t => t = { issued s c rd (ticketAfter s c) 0 with
        jobc := { s.jobc with st := 3, op := opOf s c, began := s.now, saveMib := imageMib s }
        job := { s.job with grid := { s.job.grid with timers := s.job.grid.timers.map fun x => { x with frozen := some s.now } } }
        wins := s.wins.map fun w => if w.opened && w.job == s.jobc.id then { w with suspended := true } else w
        hosts := signal s }) ∧
    (At s c (wordD 0x37 0 rd 0 0 0) none → c.val % 2 = 1 → s.jobc.st ≠ 1 → Ends (.save c rd) s fun t => t = wrote s c rd 0x0929 4) ∧
    (At s c (wordD 0x37 1 rd rs1 0 0) none → c.val % 2 = 1 → s.jobc.st = 0 → id < 2 ^ 16 → (∃ k ∈ s.saved, k.ctl.id = id) →
      Ends (.restore c rd rs1) s fun t => t = { issued s c rd (ticketAfter s c) 0 with
        jobc := { s.jobc with st := 4, id := id, op := opOf s c }, hosts := signal s }) ∧
    (At s c (wordD 0x37 1 rd rs1 0 0) none → c.val % 2 = 1 → s.jobc.st ≠ 0 → id < 2 ^ 16 → Ends (.restore c rd rs1) s fun t =>
      t = wrote s c rd 0x0906 4) ∧
    (s.jobc.st = 3 → s.tiers.moves = [] → s.job.grid.cells = [] → s.jobc.op.prog = 0 → s.saved = [] → Ends (.saveComplete false) s fun t =>
      t.saved.map (fun k => (k.entry, k.ctl, k.job, k.mib)) = [(0, { s.jobc with st := 1 }, s.job, s.jobc.saveMib)] ∧
      t.saved.map SavedJob.ctx = [[0, 2, 4, 6].map (getCtx s)] ∧
      t.jobc = { s.jobc with st := 0, id := 0, nearRes := 0, vatRes := 0, noRing := false, ptEntry := 0, banksOf := s.jobc.id } ∧
      t.job = {} ∧ (∀ k : Ctx, k.val % 2 = 1 → getCtx t k = getCtx s k) ∧
      t = { s with saved := t.saved, jobc := t.jobc, job := {}, raler := { s.raler with ctx := t.raler.ctx }, sep := t.sep, hosts := signal s }) ∧
    (s.jobc.st = 3 → Ends (.saveComplete true) s fun t => t.jobc.st = 2 ∧ t.jobc.fault = 0x0B0C ∧ t.saved = s.saved ∧
      t.job = { s.job with grid := { s.job.grid with timers := s.job.grid.timers.map fun x => shiftTimer (s.now - x.frozen.getD s.now) x } }) ∧
    (s.jobc.st ≠ 3 → Ends (.saveComplete false) s fun t => t = s) ∧
    (∀ k : SavedJob, s.jobc.st = 4 → s.saved = [k] → k.ctl.id = s.jobc.id → k.ctl.st = 1 → k.sliceLost = false → k.ctx.length = 4 →
      s.jobc.op.prog = 0 → Ends .restoreComplete s fun t =>
        t.jobc.st = 1 ∧ t.jobc.id = k.ctl.id ∧ t.saved = [] ∧ t.job.grid.recs = k.job.grid.recs ∧ t.job.inbox = k.job.inbox ∧
        (∀ i : Fin 4, (getCtx t (2 * i)).regs = (nth {} k.ctx i).regs ∧ (getCtx t (2 * i)).pc = (nth {} k.ctx i).pc)) ∧
    (∀ k : SavedJob, s.jobc.st = 4 → s.saved = [k] → k.ctl.id = s.jobc.id → k.sliceLost = true → s.jobc.op.prog = 0 →
      Ends .restoreComplete s fun t => t = { s with jobc := { s.jobc with st := 0, id := 0 }, hosts := signal s })
end

