-- ==== Sys2Proof/Laws/Host.lean ====
section
/-! SUPPORT. Host writes: where the module answers the slot and its ownership is settled, a write of a register goes straight to that
register (R445, R340). -/

namespace Sys2Proof.Machine

/-- R340: where nothing is due, settling changes nothing. -/
theorem ownSettle_settled {s : State} (h : Settled s) : ownSettle s = s := by
  have h1 : leaseExpire s = s := by
    unfold leaseExpire
    split
    · next hh => simp at hh; have := h.1 hh.1; omega
    · rfl
  unfold ownSettle
  rw [h1]
  unfold handoverLapse
  split
  · next hh => simp at hh; have := h.2 hh.1; omega
  · rfl

/-- A row that stands for an 8-byte write of a register within BAR0 does that write and notes its status for the slot. -/
theorem hostReg_answers {s : State} {n : Slot} (h : Answers s n) (off v : Nat) (hb : off + 8 ≤ 0x4000000) :
    hostReg s n off v = .next (slotNote (bar0Write s n off 8 v) n 0 off) := by
  obtain ⟨_, h2, h3⟩ := h
  simp [hostReg, hostWrite, ownSettle_settled h3, h2, inBar, hb]

/-- R445: an aligned 8-byte write outside the control memory aperture reaches the register. -/
theorem bar0Write_answers {s : State} {n : Slot} (h : Answers s n) (off v : Nat) (h8 : off % 8 = 0) (ha : inAperture off = false) :
    bar0Write s n off 8 v = regWrite s n (isOwner s n) off v := by
  obtain ⟨h1, _, _⟩ := h
  simp [bar0Write, h1, wide, h8, ha]

/-- R445: a register that the slot may write takes the write without its reserved bits, and they are noted. -/
theorem regWrite_may {s : State} {n : Nat} {own : Bool} {off v : Nat} {k : Bool × Nat}
    (h1 : (regAt s true off).isSome = true) (h2 : regKind off = some k) (h3 : k.1 = false ∨ own = true) :
    regWrite s n own off v = reservedNote (regDo s n off (v &&& k.2)) v k.2 := by
  unfold regWrite
  obtain ⟨a, ha⟩ := Option.isSome_iff_exists.1 h1
  rw [ha, h2]
  rcases h3 with h3 | h3 <;> simp [h3]

end Sys2Proof.Machine
end

