-- ==== Sys2Proof/Laws/Mem.lean ====
section
/-! SUPPORT. Sparse tables and memories: reading after writing, and the canonical form that every operation keeps. -/

namespace Sys2Proof

namespace Tbl

variable {α : Type} [DecidableEq α] {d : α}

theorem wfFrom_mono {t : List (Nat × α)} {lo hi : Nat} (h : wfFrom d hi t = true) (hl : lo ≤ hi) : wfFrom d lo t = true := by
  cases t with
  | nil => rfl
  | cons p t =>
    simp only [wfFrom, Bool.and_eq_true, decide_eq_true_eq] at h ⊢
    exact ⟨⟨by omega, h.1.2⟩, h.2⟩

theorem get_below {t : List (Nat × α)} {lo k : Nat} (h : wfFrom d lo t = true) (hk : k < lo) : get d t k = d := by
  cases t with
  | nil => rfl
  | cons p t =>
    simp only [wfFrom, Bool.and_eq_true, decide_eq_true_eq] at h
    obtain ⟨j, v⟩ := p
    simp only [get]
    rw [if_neg (by omega), if_pos (by omega)]

theorem get_insert {t : List (Nat × α)} {k j : Nat} {v : α} : get d (insert t k v) j = if j = k then v else get d t j := by
  induction t with
  | nil =>
    simp only [insert, get]
    split
    · next h => subst h; simp
    · next h => rw [if_neg (Ne.symm h)]; split <;> rfl
  | cons p t ih =>
    obtain ⟨i, w⟩ := p
    simp only [insert]
    by_cases h1 : i = k
    · subst h1; rw [if_pos rfl]; simp only [get]
      by_cases hj : j = i
      · subst hj; simp
      · rw [if_neg (Ne.symm hj), if_neg hj, if_neg (Ne.symm hj)]
    · rw [if_neg h1]
      by_cases h2 : k < i
      · rw [if_pos h2]; simp only [get]
        by_cases hj : j = k
        · subst hj; simp
        · rw [if_neg (Ne.symm hj), if_neg hj]
          by_cases h3 : j < k
          · rw [if_pos h3, if_neg (by omega), if_pos (by omega)]
          · rw [if_neg h3]
      · rw [if_neg h2]; simp only [get, ih]
        by_cases hj : j = k
        · subst hj; rw [if_neg h1, if_neg h2]; simp
        · simp only [if_neg hj]

theorem wfFrom_insert {t : List (Nat × α)} {lo k : Nat} {v : α} (h : wfFrom d lo t = true) (hk : lo ≤ k) (hv : v ≠ d) :
    wfFrom d lo (insert t k v) = true := by
  induction t generalizing lo with
  | nil => simp [insert, wfFrom, hk, hv]
  | cons p t ih =>
    obtain ⟨i, w⟩ := p
    simp only [wfFrom, Bool.and_eq_true, decide_eq_true_eq] at h
    simp only [insert]
    split
    · next e => subst e; simp only [wfFrom, Bool.and_eq_true, decide_eq_true_eq]; exact ⟨⟨hk, hv⟩, h.2⟩
    · split
      · next e => simp only [wfFrom, Bool.and_eq_true, decide_eq_true_eq]; exact ⟨⟨hk, hv⟩, ⟨by omega, h.1.2⟩, h.2⟩
      · simp only [wfFrom, Bool.and_eq_true, decide_eq_true_eq]; exact ⟨h.1, ih h.2 (by omega)⟩

theorem wfFrom_erase {t : List (Nat × α)} {lo k : Nat} (h : wfFrom d lo t = true) : wfFrom d lo (erase t k) = true := by
  induction t generalizing lo with
  | nil => rfl
  | cons p t ih =>
    obtain ⟨i, w⟩ := p
    have h' := h
    simp only [wfFrom, Bool.and_eq_true, decide_eq_true_eq] at h'
    simp only [erase]
    split
    · exact wfFrom_mono h'.2 (by omega)
    · split
      · exact h
      · simp only [wfFrom, Bool.and_eq_true, decide_eq_true_eq]; exact ⟨h'.1, ih h'.2⟩

theorem get_erase {t : List (Nat × α)} {lo k j : Nat} (h : wfFrom d lo t = true) : get d (erase t k) j = if j = k then d else get d t j := by
  induction t generalizing lo with
  | nil => simp [erase, get]
  | cons p t ih =>
    obtain ⟨i, w⟩ := p
    simp only [wfFrom, Bool.and_eq_true, decide_eq_true_eq] at h
    simp only [erase]
    by_cases h1 : i = k
    · subst h1; rw [if_pos rfl]
      by_cases hj : j = i
      · subst hj; rw [if_pos rfl]; exact get_below h.2 (by omega)
      · rw [if_neg hj]; simp only [get]; rw [if_neg (Ne.symm hj)]
        by_cases h3 : j < i
        · rw [if_pos h3]; exact get_below h.2 (by omega)
        · rw [if_neg h3]
    · rw [if_neg h1]
      by_cases h2 : k < i
      · rw [if_pos h2]
        by_cases hj : j = k
        · subst hj; rw [if_pos rfl]; simp only [get]; rw [if_neg h1, if_pos h2]
        · rw [if_neg hj]
      · rw [if_neg h2]; simp only [get, ih h.2]
        by_cases hj : j = k
        · subst hj; rw [if_neg h1, if_neg h2, if_pos rfl]; simp
        · simp only [if_neg hj]

theorem get_set {t : List (Nat × α)} {k j : Nat} {v : α} (h : wf d t = true) : get d (set d t k v) j = if j = k then v else get d t j := by
  unfold set; split
  · next e => subst e; exact get_erase h
  · exact get_insert

theorem wf_set {t : List (Nat × α)} {k : Nat} {v : α} (h : wf d t = true) : wf d (set d t k v) = true := by
  unfold set; split
  · exact wfFrom_erase h
  · next e => exact wfFrom_insert h (Nat.zero_le _) e

theorem wfFrom_filter {t : List (Nat × α)} {lo : Nat} (f : Nat × α → Bool) (h : wfFrom d lo t = true) : wfFrom d lo (t.filter f) = true := by
  induction t generalizing lo with
  | nil => rfl
  | cons p t ih =>
    simp only [wfFrom, Bool.and_eq_true, decide_eq_true_eq] at h
    simp only [List.filter_cons]
    split
    · simp only [wfFrom, Bool.and_eq_true, decide_eq_true_eq]; exact ⟨h.1, ih h.2⟩
    · exact wfFrom_mono (ih h.2) (by omega)

theorem wf_filter {t : List (Nat × α)} (f : Nat × α → Bool) (h : wf d t = true) : wf d (t.filter f) = true := wfFrom_filter f h

/-- Two tables, the second above the first. -/
theorem wfFrom_append {t u : List (Nat × α)} {lo hi : Nat} (h : wfFrom d lo t = true) (hu : wfFrom d hi u = true) (hl : lo ≤ hi)
    (hb : ∀ p ∈ t, p.1 < hi) : wfFrom d lo (t ++ u) = true := by
  induction t generalizing lo with
  | nil => exact wfFrom_mono hu hl
  | cons p t ih =>
    simp only [wfFrom, Bool.and_eq_true, decide_eq_true_eq] at h
    have := hb p (by simp)
    simp only [List.cons_append, wfFrom, Bool.and_eq_true, decide_eq_true_eq]
    exact ⟨h.1, ih h.2 (by omega) fun q hq => hb q (by simp [hq])⟩

end Tbl

namespace Mem

theorem read_write {m : Bytes} {a b : Nat} {v : Byte} (h : wf m = true) : read (write m a v) b = if b = a then v else read m b :=
  Tbl.get_set h

theorem wf_write {m : Bytes} {a : Nat} {v : Byte} (h : wf m = true) : wf (write m a v) = true := Tbl.wf_set h

theorem wf_writeN {m : Bytes} {a : Nat} {d : List Byte} (h : wf m = true) : wf (writeN m a d) = true := by
  induction d generalizing m a with
  | nil => exact h
  | cons b bs ih => exact ih (wf_write h)

theorem wf_zero {m : Bytes} {a n : Nat} (h : wf m = true) : wf (zero m a n) = true := Tbl.wf_filter _ h

theorem read_writeN_ne {m : Bytes} {a b : Nat} {d : List Byte} (h : wf m = true) (hb : b < a ∨ a + d.length ≤ b) :
    read (writeN m a d) b = read m b := by
  induction d generalizing m a with
  | nil => rfl
  | cons x xs ih =>
    simp only [List.length_cons] at hb
    simp only [writeN]
    rw [ih (wf_write h) (by omega), read_write h, if_neg (by omega)]

end Mem

end Sys2Proof
end

