-- ==== Sys2Proof/Laws/Raler.lean ====
section
/-! SUPPORT. Raler contexts: reading a context after writing one, and what an instruction or a device operation at a context's program
counter does to its context. -/

namespace Sys2Proof.Machine

/-! ### Contexts -/

theorem getCtx_setCtx {s : State} {c : Nat} {v : CtxSt} (h : c < s.raler.ctx.length) : getCtx (setCtx s c v) c = v := by
  simp [getCtx, setCtx, nth, h]

theorem getCtx_setCtx_ne {s : State} {c d : Nat} {v : CtxSt} (h : c ≠ d) : getCtx (setCtx s c v) d = getCtx s d := by
  simp [getCtx, setCtx, nth, h]

theorem setCtx_setCtx (s : State) (c : Nat) (u v : CtxSt) : setCtx (setCtx s c u) c v = setCtx s c v := by
  simp [setCtx]

theorem Sized.ctx_lt {s : State} (h : Sized s) (c : Ctx) : c.val < s.raler.ctx.length := by
  have := h.2.2.1.1; omega

theorem Sized.regs_length {s : State} (h : Sized s) (c : Ctx) : (getCtx s c).regs.length = 32 := by
  apply h.2.2.1.2
  have := Sized.ctx_lt h c
  simp [getCtx, nth, List.getD, this]

/-! ### An instruction moves its context on -/

theorem ctxAdvance_moved (s : State) (c : Ctx) (x : Bool) : ctxAdvance s c x = moved s c (len x) := by
  cases x <;> rfl

theorem getCtx_moved {s : State} (h : Sized s) (c : Ctx) (n : Nat) :
    getCtx (moved s c n) c = { getCtx s c with lastPc := (getCtx s c).pc, pc := (getCtx s c).pc + n } := by
  simp [moved, getCtx_setCtx (h.ctx_lt c)]

theorem greg_moved {s : State} (h : Sized s) (c : Ctx) (n r : Nat) : greg (moved s c n) c r = greg s c r := by
  simp [greg, moved, getCtx_setCtx (h.ctx_lt c)]

theorem putReg_moved {s : State} (h : Sized s) (c : Ctx) (n rd : Nat) (v : Word) : putReg (moved s c n) c rd v = wrote s c rd v n := by
  unfold putReg
  rw [getCtx_moved h]
  simp only [moved, setCtx_setCtx, wrote, ctxPut]
  by_cases h0 : rd = 0 <;> simp [h0]

theorem getCtx_wrote {s : State} (h : Sized s) (c : Ctx) (rd : Nat) (v : Word) (n : Nat) :
    getCtx (wrote s c rd v n) c = { getCtx s c with
      lastPc := (getCtx s c).pc, pc := (getCtx s c).pc + n, regs := if rd = 0 then (getCtx s c).regs else (getCtx s c).regs.set rd v } := by
  simp [wrote, getCtx_setCtx (h.ctx_lt c)]

theorem greg_wrote {s : State} (h : Sized s) (c : Ctx) (rd : GReg) (v : Word) (n : Nat) :
    greg (wrote s c rd v n) c rd = if rd = 0 then 0 else v := by
  by_cases h0 : rd = 0
  · simp [h0, greg]
  · have h1 : rd.val ≠ 0 := fun e => h0 (Fin.ext e)
    have := h.regs_length c
    simp [greg, wrote, getCtx_setCtx (h.ctx_lt c), h0, h1, nth, List.getD, this]

/-! ### The words at the program counter -/

theorem encR_word (op fn rd rs1 rs2 : Nat) : encR op fn rd rs1 rs2 = some (wordR op fn rd rs1 rs2, none) := rfl

theorem encD_word (op sub rd rs1 rs2 rs3 : Nat) : encD op sub rd rs1 rs2 rs3 = some (wordD op sub rd rs1 rs2 rs3, none) := rfl

theorem runInstr_at {s : State} {c : Ctx} {w : Nat} {e : Option Nat} (h : At s c w e) (f : State → State) :
    runInstr s c (some (w, e)) f = f (moved s c (len e.isSome)) := by
  simp [runInstr, h.1, h.2, ctxAdvance_moved]

theorem runInstr_atD {s : State} {c : Ctx} {op sub rd rs1 rs2 rs3 : Nat} (h : At s c (wordD op sub rd rs1 rs2 rs3) none)
    (f : State → State) : runInstr s c (encD op sub rd rs1 rs2 rs3) f = f (moved s c 4) := runInstr_at h f

theorem imm_of_15_bits (imm : BitVec 47) (h : -16384 ≤ imm.toInt ∧ imm.toInt < 16384) : (imm.setWidth 15).signExtend 47 = imm := by
  apply BitVec.eq_of_toInt_eq
  rw [BitVec.toInt_signExtend_of_le (by decide), BitVec.toInt_setWidth]
  have e : imm.toInt = (imm.toNat : Int).bmod (2 ^ 47) := BitVec.toInt_eq_toNat_bmod imm
  have hl := imm.isLt
  simp only [Int.bmod_def] at *
  omega

theorem runInstr_atI {s : State} {c : Ctx} {op r1 r2 : Nat} {x : Bool} {imm : BitVec 47} (h : AtI s c op r1 r2 x imm) (f : State → State) :
    runInstr s c (encI op r1 r2 x imm) f = f (moved s c (len x)) := by
  cases x
  · simp only [AtI] at h
    have e := imm_of_15_bits imm h.1
    simp only [encI]
    simp only [e, if_true]
    exact runInstr_at h.2 f
  · simp only [AtI, if_true] at h
    have : encI op r1 r2 true imm = some (op * 2 ^ 26 + 2 ^ 25 + r1 * 2 ^ 20 + r2 * 2 ^ 15 + imm.toNat % 2 ^ 15, some (imm.toNat / 2 ^ 15)) := by
      simp [encI, fld]; omega
    rw [this]; exact runInstr_at h f

/-! ### Device operations, R329 -/

theorem ctxRuns_st {s : State} {c : Ctx} (h : ctxRuns s c = true) : (getCtx s c).st = 1 := by
  simp only [ctxRuns, Bool.and_eq_true, beq_iff_eq] at h
  exact h.1.1.2

/-- A result reaches its register where the operation has left the contexts as they were. -/
theorem putResult_moved {s u : State} {c : Ctx} {n rd v : Nat} (h : Sized s) (hr : (getCtx s c).st = 1) (hu : u.raler = (moved s c n).raler) :
    putResult u c rd v = { u with raler := (wrote s c rd (BitVec.ofNat 64 v) n).raler } := by
  have e : getCtx u c = getCtx (moved s c n) c := by simp only [getCtx, hu]
  have e1 : (getCtx u c).st = 1 := by rw [e, getCtx_moved h]; exact hr
  simp only [putResult, e1, if_true]
  rw [← putReg_moved h]
  simp only [putReg, e]
  simp only [setCtx, hu]

/-- R329: a synchronous operation of the running job. -/
theorem syncOp_at {s u : State} {c : Ctx} {rd r : Nat} {st : Status} {w : Nat} {e : Option Nat} {f : State → Status × Nat × State}
    (h : Sized s) (hat : At s c w e) (hj : s.jobc.st = 1) (hf : f (moved s c (len e.isSome)) = (st, r, u))
    (hu : u.raler = (moved s c (len e.isSome)).raler) :
    syncOp s c rd (some (w, e)) f = { u with raler := (wrote s c rd (BitVec.ofNat 64 (st.toNat + r * 2 ^ 16)) (len e.isSome)).raler } := by
  have hn : noJob (moved s c (len e.isSome)) = false := by simp [noJob, moved, setCtx, hj]
  simp only [syncOp, runInstr_at hat, hn, hf, Bool.false_eq_true, if_false]
  rw [putResult_moved h (ctxRuns_st hat.1) hu]; rfl

theorem opOf_moved {s : State} (h : Sized s) (c : Ctx) :
    ({ ctx := c, prog := (getCtx (moved s c 4) c).prog, ticket := nextTicket (getCtx (moved s c 4) c).ticket } : OpRef) = opOf s c := by
  rw [getCtx_moved h]; rfl

/-- R329: an asynchronous operation at the program counter reaches its unit. -/
theorem asyncOp_at {s : State} {c : Ctx} {rd : Nat} {w : Nat} {f : OpRef → State → Status × Nat × State}
    (hat : At s c w none) (hj : s.jobc.st = 1) : asyncOp s c rd (some (w, none)) f = asyncIssue (moved s c 4) c rd f := by
  have hn : noJob (moved s c 4) = false := by simp [noJob, moved, setCtx, hj]
  have : asyncOp s c rd (some (w, none)) f =
      (if noJob (moved s c 4) = true then putResult (moved s c 4) c rd Code.noJob.toNat else asyncIssue (moved s c 4) c rd f) := by
    simp only [asyncOp, runInstr_at hat]; rfl
  rw [this, hn, if_neg Bool.false_ne_true]

/-- R329: an asynchronous operation that its unit accepts. -/
theorem asyncIssue_accepted {s u : State} {c : Ctx} {rd r : Nat} {f : OpRef → State → Status × Nat × State}
    (h : Sized s) (hr : (getCtx s c).st = 1) (hf : f (opOf s c) (moved s c 4) = (Code.ok, r, u)) (hu : u.raler = (moved s c 4).raler) :
    asyncIssue (moved s c 4) c rd f = { u with raler := (issued s c rd (ticketAfter s c) r).raler } := by
  have hg : getCtx u c = getCtx (moved s c 4) c := by simp only [getCtx, hu]
  have hl : c.val < u.raler.ctx.length := by rw [hu]; simpa [moved, setCtx] using h.ctx_lt c
  have hn : nextTicket (getCtx (moved s c 4) c).ticket = ticketAfter s c := by rw [getCtx_moved h]; rfl
  unfold asyncIssue
  dsimp only
  rw [opOf_moved h, hf]
  simp only [if_true, hn]
  simp only [putResult, getCtx_setCtx hl, hg, getCtx_moved h, hr, if_true, putReg, setCtx_setCtx]
  simp only [issued, getCtx_wrote h]
  simp only [setCtx, hu, moved, ctxPut, List.set_set]
  by_cases h0 : rd = 0 <;> simp [h0, fld, hr]

/-- R329: an operation that its unit refuses does nothing but write its status. -/
theorem asyncIssue_refused {s : State} {c : Ctx} {rd r : Nat} {st : Status} {f : OpRef → State → Status × Nat × State}
    (h : Sized s) (hr : (getCtx s c).st = 1) (hs : st ≠ Code.ok) (hf : f (opOf s c) (moved s c 4) = (st, r, moved s c 4)) :
    asyncIssue (moved s c 4) c rd f = wrote s c rd (BitVec.ofNat 64 st.toNat) 4 := by
  unfold asyncIssue
  dsimp only
  rw [opOf_moved h, hf]
  simp only [hs, if_false]
  rw [putResult_moved h hr rfl]; rfl

end Sys2Proof.Machine
end

