-- ==== Sys2Proof/Laws/State.lean ====
section
/-! SUPPORT. Every update of the state: what it leaves in each field that it does not write, and that a table read at the place just
written gives what was written. Later proofs cite these and unfold no update. -/

namespace Sys2Proof.Machine

/-! ### setGrid writes job -/

@[simp] theorem setGrid_pending (s : State) (x : Grid) : (setGrid s x).pending = s.pending := rfl
@[simp] theorem setGrid_free (s : State) (x : Grid) : (setGrid s x).free = s.free := rfl
@[simp] theorem setGrid_now (s : State) (x : Grid) : (setGrid s x).now = s.now := rfl
@[simp] theorem setGrid_cm (s : State) (x : Grid) : (setGrid s x).cm = s.cm := rfl
@[simp] theorem setGrid_boot (s : State) (x : Grid) : (setGrid s x).boot = s.boot := rfl
@[simp] theorem setGrid_fw (s : State) (x : Grid) : (setGrid s x).fw = s.fw := rfl
@[simp] theorem setGrid_mgmt (s : State) (x : Grid) : (setGrid s x).mgmt = s.mgmt := rfl
@[simp] theorem setGrid_panel (s : State) (x : Grid) : (setGrid s x).panel = s.panel := rfl
@[simp] theorem setGrid_ras (s : State) (x : Grid) : (setGrid s x).ras = s.ras := rfl
@[simp] theorem setGrid_power (s : State) (x : Grid) : (setGrid s x).power = s.power := rfl
@[simp] theorem setGrid_cap (s : State) (x : Grid) : (setGrid s x).cap = s.cap := rfl
@[simp] theorem setGrid_raler (s : State) (x : Grid) : (setGrid s x).raler = s.raler := rfl
@[simp] theorem setGrid_hosts (s : State) (x : Grid) : (setGrid s x).hosts = s.hosts := rfl
@[simp] theorem setGrid_own (s : State) (x : Grid) : (setGrid s x).own = s.own := rfl
@[simp] theorem setGrid_snap (s : State) (x : Grid) : (setGrid s x).snap = s.snap := rfl
@[simp] theorem setGrid_jobc (s : State) (x : Grid) : (setGrid s x).jobc = s.jobc := rfl
@[simp] theorem setGrid_saved (s : State) (x : Grid) : (setGrid s x).saved = s.saved := rfl
@[simp] theorem setGrid_wins (s : State) (x : Grid) : (setGrid s x).wins = s.wins := rfl
@[simp] theorem setGrid_tiers (s : State) (x : Grid) : (setGrid s x).tiers = s.tiers := rfl
@[simp] theorem setGrid_recs (s : State) (x : Grid) : (setGrid s x).recs = s.recs := rfl
@[simp] theorem setGrid_limits (s : State) (x : Grid) : (setGrid s x).limits = s.limits := rfl
@[simp] theorem setGrid_counts (s : State) (x : Grid) : (setGrid s x).counts = s.counts := rfl
@[simp] theorem setGrid_dies (s : State) (x : Grid) : (setGrid s x).dies = s.dies := rfl
@[simp] theorem setGrid_remapLog (s : State) (x : Grid) : (setGrid s x).remapLog = s.remapLog := rfl
@[simp] theorem setGrid_hours (s : State) (x : Grid) : (setGrid s x).hours = s.hours := rfl
@[simp] theorem setGrid_ring (s : State) (x : Grid) : (setGrid s x).ring = s.ring := rfl
@[simp] theorem setGrid_sep (s : State) (x : Grid) : (setGrid s x).sep = s.sep := rfl
@[simp] theorem setGrid_adm (s : State) (x : Grid) : (setGrid s x).adm = s.adm := rfl

/-! ### setCell writes job -/

@[simp] theorem setCell_pending (s : State) (c : Nat) (x : CellSt) : (setCell s c x).pending = s.pending := rfl
@[simp] theorem setCell_free (s : State) (c : Nat) (x : CellSt) : (setCell s c x).free = s.free := rfl
@[simp] theorem setCell_now (s : State) (c : Nat) (x : CellSt) : (setCell s c x).now = s.now := rfl
@[simp] theorem setCell_cm (s : State) (c : Nat) (x : CellSt) : (setCell s c x).cm = s.cm := rfl
@[simp] theorem setCell_boot (s : State) (c : Nat) (x : CellSt) : (setCell s c x).boot = s.boot := rfl
@[simp] theorem setCell_fw (s : State) (c : Nat) (x : CellSt) : (setCell s c x).fw = s.fw := rfl
@[simp] theorem setCell_mgmt (s : State) (c : Nat) (x : CellSt) : (setCell s c x).mgmt = s.mgmt := rfl
@[simp] theorem setCell_panel (s : State) (c : Nat) (x : CellSt) : (setCell s c x).panel = s.panel := rfl
@[simp] theorem setCell_ras (s : State) (c : Nat) (x : CellSt) : (setCell s c x).ras = s.ras := rfl
@[simp] theorem setCell_power (s : State) (c : Nat) (x : CellSt) : (setCell s c x).power = s.power := rfl
@[simp] theorem setCell_cap (s : State) (c : Nat) (x : CellSt) : (setCell s c x).cap = s.cap := rfl
@[simp] theorem setCell_raler (s : State) (c : Nat) (x : CellSt) : (setCell s c x).raler = s.raler := rfl
@[simp] theorem setCell_hosts (s : State) (c : Nat) (x : CellSt) : (setCell s c x).hosts = s.hosts := rfl
@[simp] theorem setCell_own (s : State) (c : Nat) (x : CellSt) : (setCell s c x).own = s.own := rfl
@[simp] theorem setCell_snap (s : State) (c : Nat) (x : CellSt) : (setCell s c x).snap = s.snap := rfl
@[simp] theorem setCell_jobc (s : State) (c : Nat) (x : CellSt) : (setCell s c x).jobc = s.jobc := rfl
@[simp] theorem setCell_saved (s : State) (c : Nat) (x : CellSt) : (setCell s c x).saved = s.saved := rfl
@[simp] theorem setCell_wins (s : State) (c : Nat) (x : CellSt) : (setCell s c x).wins = s.wins := rfl
@[simp] theorem setCell_tiers (s : State) (c : Nat) (x : CellSt) : (setCell s c x).tiers = s.tiers := rfl
@[simp] theorem setCell_recs (s : State) (c : Nat) (x : CellSt) : (setCell s c x).recs = s.recs := rfl
@[simp] theorem setCell_limits (s : State) (c : Nat) (x : CellSt) : (setCell s c x).limits = s.limits := rfl
@[simp] theorem setCell_counts (s : State) (c : Nat) (x : CellSt) : (setCell s c x).counts = s.counts := rfl
@[simp] theorem setCell_dies (s : State) (c : Nat) (x : CellSt) : (setCell s c x).dies = s.dies := rfl
@[simp] theorem setCell_remapLog (s : State) (c : Nat) (x : CellSt) : (setCell s c x).remapLog = s.remapLog := rfl
@[simp] theorem setCell_hours (s : State) (c : Nat) (x : CellSt) : (setCell s c x).hours = s.hours := rfl
@[simp] theorem setCell_ring (s : State) (c : Nat) (x : CellSt) : (setCell s c x).ring = s.ring := rfl
@[simp] theorem setCell_sep (s : State) (c : Nat) (x : CellSt) : (setCell s c x).sep = s.sep := rfl
@[simp] theorem setCell_adm (s : State) (c : Nat) (x : CellSt) : (setCell s c x).adm = s.adm := rfl

/-! ### setMu writes job -/

@[simp] theorem setMu_pending (s : State) (c : Nat) (x : MuSt) : (setMu s c x).pending = s.pending := rfl
@[simp] theorem setMu_free (s : State) (c : Nat) (x : MuSt) : (setMu s c x).free = s.free := rfl
@[simp] theorem setMu_now (s : State) (c : Nat) (x : MuSt) : (setMu s c x).now = s.now := rfl
@[simp] theorem setMu_cm (s : State) (c : Nat) (x : MuSt) : (setMu s c x).cm = s.cm := rfl
@[simp] theorem setMu_boot (s : State) (c : Nat) (x : MuSt) : (setMu s c x).boot = s.boot := rfl
@[simp] theorem setMu_fw (s : State) (c : Nat) (x : MuSt) : (setMu s c x).fw = s.fw := rfl
@[simp] theorem setMu_mgmt (s : State) (c : Nat) (x : MuSt) : (setMu s c x).mgmt = s.mgmt := rfl
@[simp] theorem setMu_panel (s : State) (c : Nat) (x : MuSt) : (setMu s c x).panel = s.panel := rfl
@[simp] theorem setMu_ras (s : State) (c : Nat) (x : MuSt) : (setMu s c x).ras = s.ras := rfl
@[simp] theorem setMu_power (s : State) (c : Nat) (x : MuSt) : (setMu s c x).power = s.power := rfl
@[simp] theorem setMu_cap (s : State) (c : Nat) (x : MuSt) : (setMu s c x).cap = s.cap := rfl
@[simp] theorem setMu_raler (s : State) (c : Nat) (x : MuSt) : (setMu s c x).raler = s.raler := rfl
@[simp] theorem setMu_hosts (s : State) (c : Nat) (x : MuSt) : (setMu s c x).hosts = s.hosts := rfl
@[simp] theorem setMu_own (s : State) (c : Nat) (x : MuSt) : (setMu s c x).own = s.own := rfl
@[simp] theorem setMu_snap (s : State) (c : Nat) (x : MuSt) : (setMu s c x).snap = s.snap := rfl
@[simp] theorem setMu_jobc (s : State) (c : Nat) (x : MuSt) : (setMu s c x).jobc = s.jobc := rfl
@[simp] theorem setMu_saved (s : State) (c : Nat) (x : MuSt) : (setMu s c x).saved = s.saved := rfl
@[simp] theorem setMu_wins (s : State) (c : Nat) (x : MuSt) : (setMu s c x).wins = s.wins := rfl
@[simp] theorem setMu_tiers (s : State) (c : Nat) (x : MuSt) : (setMu s c x).tiers = s.tiers := rfl
@[simp] theorem setMu_recs (s : State) (c : Nat) (x : MuSt) : (setMu s c x).recs = s.recs := rfl
@[simp] theorem setMu_limits (s : State) (c : Nat) (x : MuSt) : (setMu s c x).limits = s.limits := rfl
@[simp] theorem setMu_counts (s : State) (c : Nat) (x : MuSt) : (setMu s c x).counts = s.counts := rfl
@[simp] theorem setMu_dies (s : State) (c : Nat) (x : MuSt) : (setMu s c x).dies = s.dies := rfl
@[simp] theorem setMu_remapLog (s : State) (c : Nat) (x : MuSt) : (setMu s c x).remapLog = s.remapLog := rfl
@[simp] theorem setMu_hours (s : State) (c : Nat) (x : MuSt) : (setMu s c x).hours = s.hours := rfl
@[simp] theorem setMu_ring (s : State) (c : Nat) (x : MuSt) : (setMu s c x).ring = s.ring := rfl
@[simp] theorem setMu_sep (s : State) (c : Nat) (x : MuSt) : (setMu s c x).sep = s.sep := rfl
@[simp] theorem setMu_adm (s : State) (c : Nat) (x : MuSt) : (setMu s c x).adm = s.adm := rfl

/-! ### setChurn writes job -/

@[simp] theorem setChurn_pending (s : State) (x : Churn) : (setChurn s x).pending = s.pending := rfl
@[simp] theorem setChurn_free (s : State) (x : Churn) : (setChurn s x).free = s.free := rfl
@[simp] theorem setChurn_now (s : State) (x : Churn) : (setChurn s x).now = s.now := rfl
@[simp] theorem setChurn_cm (s : State) (x : Churn) : (setChurn s x).cm = s.cm := rfl
@[simp] theorem setChurn_boot (s : State) (x : Churn) : (setChurn s x).boot = s.boot := rfl
@[simp] theorem setChurn_fw (s : State) (x : Churn) : (setChurn s x).fw = s.fw := rfl
@[simp] theorem setChurn_mgmt (s : State) (x : Churn) : (setChurn s x).mgmt = s.mgmt := rfl
@[simp] theorem setChurn_panel (s : State) (x : Churn) : (setChurn s x).panel = s.panel := rfl
@[simp] theorem setChurn_ras (s : State) (x : Churn) : (setChurn s x).ras = s.ras := rfl
@[simp] theorem setChurn_power (s : State) (x : Churn) : (setChurn s x).power = s.power := rfl
@[simp] theorem setChurn_cap (s : State) (x : Churn) : (setChurn s x).cap = s.cap := rfl
@[simp] theorem setChurn_raler (s : State) (x : Churn) : (setChurn s x).raler = s.raler := rfl
@[simp] theorem setChurn_hosts (s : State) (x : Churn) : (setChurn s x).hosts = s.hosts := rfl
@[simp] theorem setChurn_own (s : State) (x : Churn) : (setChurn s x).own = s.own := rfl
@[simp] theorem setChurn_snap (s : State) (x : Churn) : (setChurn s x).snap = s.snap := rfl
@[simp] theorem setChurn_jobc (s : State) (x : Churn) : (setChurn s x).jobc = s.jobc := rfl
@[simp] theorem setChurn_saved (s : State) (x : Churn) : (setChurn s x).saved = s.saved := rfl
@[simp] theorem setChurn_wins (s : State) (x : Churn) : (setChurn s x).wins = s.wins := rfl
@[simp] theorem setChurn_tiers (s : State) (x : Churn) : (setChurn s x).tiers = s.tiers := rfl
@[simp] theorem setChurn_recs (s : State) (x : Churn) : (setChurn s x).recs = s.recs := rfl
@[simp] theorem setChurn_limits (s : State) (x : Churn) : (setChurn s x).limits = s.limits := rfl
@[simp] theorem setChurn_counts (s : State) (x : Churn) : (setChurn s x).counts = s.counts := rfl
@[simp] theorem setChurn_dies (s : State) (x : Churn) : (setChurn s x).dies = s.dies := rfl
@[simp] theorem setChurn_remapLog (s : State) (x : Churn) : (setChurn s x).remapLog = s.remapLog := rfl
@[simp] theorem setChurn_hours (s : State) (x : Churn) : (setChurn s x).hours = s.hours := rfl
@[simp] theorem setChurn_ring (s : State) (x : Churn) : (setChurn s x).ring = s.ring := rfl
@[simp] theorem setChurn_sep (s : State) (x : Churn) : (setChurn s x).sep = s.sep := rfl
@[simp] theorem setChurn_adm (s : State) (x : Churn) : (setChurn s x).adm = s.adm := rfl

/-! ### setWave writes job -/

@[simp] theorem setWave_pending (s : State) (x : Wave) : (setWave s x).pending = s.pending := rfl
@[simp] theorem setWave_free (s : State) (x : Wave) : (setWave s x).free = s.free := rfl
@[simp] theorem setWave_now (s : State) (x : Wave) : (setWave s x).now = s.now := rfl
@[simp] theorem setWave_cm (s : State) (x : Wave) : (setWave s x).cm = s.cm := rfl
@[simp] theorem setWave_boot (s : State) (x : Wave) : (setWave s x).boot = s.boot := rfl
@[simp] theorem setWave_fw (s : State) (x : Wave) : (setWave s x).fw = s.fw := rfl
@[simp] theorem setWave_mgmt (s : State) (x : Wave) : (setWave s x).mgmt = s.mgmt := rfl
@[simp] theorem setWave_panel (s : State) (x : Wave) : (setWave s x).panel = s.panel := rfl
@[simp] theorem setWave_ras (s : State) (x : Wave) : (setWave s x).ras = s.ras := rfl
@[simp] theorem setWave_power (s : State) (x : Wave) : (setWave s x).power = s.power := rfl
@[simp] theorem setWave_cap (s : State) (x : Wave) : (setWave s x).cap = s.cap := rfl
@[simp] theorem setWave_raler (s : State) (x : Wave) : (setWave s x).raler = s.raler := rfl
@[simp] theorem setWave_hosts (s : State) (x : Wave) : (setWave s x).hosts = s.hosts := rfl
@[simp] theorem setWave_own (s : State) (x : Wave) : (setWave s x).own = s.own := rfl
@[simp] theorem setWave_snap (s : State) (x : Wave) : (setWave s x).snap = s.snap := rfl
@[simp] theorem setWave_jobc (s : State) (x : Wave) : (setWave s x).jobc = s.jobc := rfl
@[simp] theorem setWave_saved (s : State) (x : Wave) : (setWave s x).saved = s.saved := rfl
@[simp] theorem setWave_wins (s : State) (x : Wave) : (setWave s x).wins = s.wins := rfl
@[simp] theorem setWave_tiers (s : State) (x : Wave) : (setWave s x).tiers = s.tiers := rfl
@[simp] theorem setWave_recs (s : State) (x : Wave) : (setWave s x).recs = s.recs := rfl
@[simp] theorem setWave_limits (s : State) (x : Wave) : (setWave s x).limits = s.limits := rfl
@[simp] theorem setWave_counts (s : State) (x : Wave) : (setWave s x).counts = s.counts := rfl
@[simp] theorem setWave_dies (s : State) (x : Wave) : (setWave s x).dies = s.dies := rfl
@[simp] theorem setWave_remapLog (s : State) (x : Wave) : (setWave s x).remapLog = s.remapLog := rfl
@[simp] theorem setWave_hours (s : State) (x : Wave) : (setWave s x).hours = s.hours := rfl
@[simp] theorem setWave_ring (s : State) (x : Wave) : (setWave s x).ring = s.ring := rfl
@[simp] theorem setWave_sep (s : State) (x : Wave) : (setWave s x).sep = s.sep := rfl
@[simp] theorem setWave_adm (s : State) (x : Wave) : (setWave s x).adm = s.adm := rfl

/-! ### setImg writes job -/

@[simp] theorem setImg_pending (s : State) (i : Nat) (x : ImgSlot) : (setImg s i x).pending = s.pending := rfl
@[simp] theorem setImg_free (s : State) (i : Nat) (x : ImgSlot) : (setImg s i x).free = s.free := rfl
@[simp] theorem setImg_now (s : State) (i : Nat) (x : ImgSlot) : (setImg s i x).now = s.now := rfl
@[simp] theorem setImg_cm (s : State) (i : Nat) (x : ImgSlot) : (setImg s i x).cm = s.cm := rfl
@[simp] theorem setImg_boot (s : State) (i : Nat) (x : ImgSlot) : (setImg s i x).boot = s.boot := rfl
@[simp] theorem setImg_fw (s : State) (i : Nat) (x : ImgSlot) : (setImg s i x).fw = s.fw := rfl
@[simp] theorem setImg_mgmt (s : State) (i : Nat) (x : ImgSlot) : (setImg s i x).mgmt = s.mgmt := rfl
@[simp] theorem setImg_panel (s : State) (i : Nat) (x : ImgSlot) : (setImg s i x).panel = s.panel := rfl
@[simp] theorem setImg_ras (s : State) (i : Nat) (x : ImgSlot) : (setImg s i x).ras = s.ras := rfl
@[simp] theorem setImg_power (s : State) (i : Nat) (x : ImgSlot) : (setImg s i x).power = s.power := rfl
@[simp] theorem setImg_cap (s : State) (i : Nat) (x : ImgSlot) : (setImg s i x).cap = s.cap := rfl
@[simp] theorem setImg_raler (s : State) (i : Nat) (x : ImgSlot) : (setImg s i x).raler = s.raler := rfl
@[simp] theorem setImg_hosts (s : State) (i : Nat) (x : ImgSlot) : (setImg s i x).hosts = s.hosts := rfl
@[simp] theorem setImg_own (s : State) (i : Nat) (x : ImgSlot) : (setImg s i x).own = s.own := rfl
@[simp] theorem setImg_snap (s : State) (i : Nat) (x : ImgSlot) : (setImg s i x).snap = s.snap := rfl
@[simp] theorem setImg_jobc (s : State) (i : Nat) (x : ImgSlot) : (setImg s i x).jobc = s.jobc := rfl
@[simp] theorem setImg_saved (s : State) (i : Nat) (x : ImgSlot) : (setImg s i x).saved = s.saved := rfl
@[simp] theorem setImg_wins (s : State) (i : Nat) (x : ImgSlot) : (setImg s i x).wins = s.wins := rfl
@[simp] theorem setImg_tiers (s : State) (i : Nat) (x : ImgSlot) : (setImg s i x).tiers = s.tiers := rfl
@[simp] theorem setImg_recs (s : State) (i : Nat) (x : ImgSlot) : (setImg s i x).recs = s.recs := rfl
@[simp] theorem setImg_limits (s : State) (i : Nat) (x : ImgSlot) : (setImg s i x).limits = s.limits := rfl
@[simp] theorem setImg_counts (s : State) (i : Nat) (x : ImgSlot) : (setImg s i x).counts = s.counts := rfl
@[simp] theorem setImg_dies (s : State) (i : Nat) (x : ImgSlot) : (setImg s i x).dies = s.dies := rfl
@[simp] theorem setImg_remapLog (s : State) (i : Nat) (x : ImgSlot) : (setImg s i x).remapLog = s.remapLog := rfl
@[simp] theorem setImg_hours (s : State) (i : Nat) (x : ImgSlot) : (setImg s i x).hours = s.hours := rfl
@[simp] theorem setImg_ring (s : State) (i : Nat) (x : ImgSlot) : (setImg s i x).ring = s.ring := rfl
@[simp] theorem setImg_sep (s : State) (i : Nat) (x : ImgSlot) : (setImg s i x).sep = s.sep := rfl
@[simp] theorem setImg_adm (s : State) (i : Nat) (x : ImgSlot) : (setImg s i x).adm = s.adm := rfl

/-! ### setTimer writes job -/

@[simp] theorem setTimer_pending (s : State) (i : Nat) (x : Timer) : (setTimer s i x).pending = s.pending := rfl
@[simp] theorem setTimer_free (s : State) (i : Nat) (x : Timer) : (setTimer s i x).free = s.free := rfl
@[simp] theorem setTimer_now (s : State) (i : Nat) (x : Timer) : (setTimer s i x).now = s.now := rfl
@[simp] theorem setTimer_cm (s : State) (i : Nat) (x : Timer) : (setTimer s i x).cm = s.cm := rfl
@[simp] theorem setTimer_boot (s : State) (i : Nat) (x : Timer) : (setTimer s i x).boot = s.boot := rfl
@[simp] theorem setTimer_fw (s : State) (i : Nat) (x : Timer) : (setTimer s i x).fw = s.fw := rfl
@[simp] theorem setTimer_mgmt (s : State) (i : Nat) (x : Timer) : (setTimer s i x).mgmt = s.mgmt := rfl
@[simp] theorem setTimer_panel (s : State) (i : Nat) (x : Timer) : (setTimer s i x).panel = s.panel := rfl
@[simp] theorem setTimer_ras (s : State) (i : Nat) (x : Timer) : (setTimer s i x).ras = s.ras := rfl
@[simp] theorem setTimer_power (s : State) (i : Nat) (x : Timer) : (setTimer s i x).power = s.power := rfl
@[simp] theorem setTimer_cap (s : State) (i : Nat) (x : Timer) : (setTimer s i x).cap = s.cap := rfl
@[simp] theorem setTimer_raler (s : State) (i : Nat) (x : Timer) : (setTimer s i x).raler = s.raler := rfl
@[simp] theorem setTimer_hosts (s : State) (i : Nat) (x : Timer) : (setTimer s i x).hosts = s.hosts := rfl
@[simp] theorem setTimer_own (s : State) (i : Nat) (x : Timer) : (setTimer s i x).own = s.own := rfl
@[simp] theorem setTimer_snap (s : State) (i : Nat) (x : Timer) : (setTimer s i x).snap = s.snap := rfl
@[simp] theorem setTimer_jobc (s : State) (i : Nat) (x : Timer) : (setTimer s i x).jobc = s.jobc := rfl
@[simp] theorem setTimer_saved (s : State) (i : Nat) (x : Timer) : (setTimer s i x).saved = s.saved := rfl
@[simp] theorem setTimer_wins (s : State) (i : Nat) (x : Timer) : (setTimer s i x).wins = s.wins := rfl
@[simp] theorem setTimer_tiers (s : State) (i : Nat) (x : Timer) : (setTimer s i x).tiers = s.tiers := rfl
@[simp] theorem setTimer_recs (s : State) (i : Nat) (x : Timer) : (setTimer s i x).recs = s.recs := rfl
@[simp] theorem setTimer_limits (s : State) (i : Nat) (x : Timer) : (setTimer s i x).limits = s.limits := rfl
@[simp] theorem setTimer_counts (s : State) (i : Nat) (x : Timer) : (setTimer s i x).counts = s.counts := rfl
@[simp] theorem setTimer_dies (s : State) (i : Nat) (x : Timer) : (setTimer s i x).dies = s.dies := rfl
@[simp] theorem setTimer_remapLog (s : State) (i : Nat) (x : Timer) : (setTimer s i x).remapLog = s.remapLog := rfl
@[simp] theorem setTimer_hours (s : State) (i : Nat) (x : Timer) : (setTimer s i x).hours = s.hours := rfl
@[simp] theorem setTimer_ring (s : State) (i : Nat) (x : Timer) : (setTimer s i x).ring = s.ring := rfl
@[simp] theorem setTimer_sep (s : State) (i : Nat) (x : Timer) : (setTimer s i x).sep = s.sep := rfl
@[simp] theorem setTimer_adm (s : State) (i : Nat) (x : Timer) : (setTimer s i x).adm = s.adm := rfl

/-! ### setSched writes job -/

@[simp] theorem setSched_pending (s : State) (x : Sched) : (setSched s x).pending = s.pending := rfl
@[simp] theorem setSched_free (s : State) (x : Sched) : (setSched s x).free = s.free := rfl
@[simp] theorem setSched_now (s : State) (x : Sched) : (setSched s x).now = s.now := rfl
@[simp] theorem setSched_cm (s : State) (x : Sched) : (setSched s x).cm = s.cm := rfl
@[simp] theorem setSched_boot (s : State) (x : Sched) : (setSched s x).boot = s.boot := rfl
@[simp] theorem setSched_fw (s : State) (x : Sched) : (setSched s x).fw = s.fw := rfl
@[simp] theorem setSched_mgmt (s : State) (x : Sched) : (setSched s x).mgmt = s.mgmt := rfl
@[simp] theorem setSched_panel (s : State) (x : Sched) : (setSched s x).panel = s.panel := rfl
@[simp] theorem setSched_ras (s : State) (x : Sched) : (setSched s x).ras = s.ras := rfl
@[simp] theorem setSched_power (s : State) (x : Sched) : (setSched s x).power = s.power := rfl
@[simp] theorem setSched_cap (s : State) (x : Sched) : (setSched s x).cap = s.cap := rfl
@[simp] theorem setSched_raler (s : State) (x : Sched) : (setSched s x).raler = s.raler := rfl
@[simp] theorem setSched_hosts (s : State) (x : Sched) : (setSched s x).hosts = s.hosts := rfl
@[simp] theorem setSched_own (s : State) (x : Sched) : (setSched s x).own = s.own := rfl
@[simp] theorem setSched_snap (s : State) (x : Sched) : (setSched s x).snap = s.snap := rfl
@[simp] theorem setSched_jobc (s : State) (x : Sched) : (setSched s x).jobc = s.jobc := rfl
@[simp] theorem setSched_saved (s : State) (x : Sched) : (setSched s x).saved = s.saved := rfl
@[simp] theorem setSched_wins (s : State) (x : Sched) : (setSched s x).wins = s.wins := rfl
@[simp] theorem setSched_tiers (s : State) (x : Sched) : (setSched s x).tiers = s.tiers := rfl
@[simp] theorem setSched_recs (s : State) (x : Sched) : (setSched s x).recs = s.recs := rfl
@[simp] theorem setSched_limits (s : State) (x : Sched) : (setSched s x).limits = s.limits := rfl
@[simp] theorem setSched_counts (s : State) (x : Sched) : (setSched s x).counts = s.counts := rfl
@[simp] theorem setSched_dies (s : State) (x : Sched) : (setSched s x).dies = s.dies := rfl
@[simp] theorem setSched_remapLog (s : State) (x : Sched) : (setSched s x).remapLog = s.remapLog := rfl
@[simp] theorem setSched_hours (s : State) (x : Sched) : (setSched s x).hours = s.hours := rfl
@[simp] theorem setSched_ring (s : State) (x : Sched) : (setSched s x).ring = s.ring := rfl
@[simp] theorem setSched_sep (s : State) (x : Sched) : (setSched s x).sep = s.sep := rfl
@[simp] theorem setSched_adm (s : State) (x : Sched) : (setSched s x).adm = s.adm := rfl

/-! ### setJob writes job -/

@[simp] theorem setJob_pending (s : State) (x : Job) : (setJob s x).pending = s.pending := rfl
@[simp] theorem setJob_free (s : State) (x : Job) : (setJob s x).free = s.free := rfl
@[simp] theorem setJob_now (s : State) (x : Job) : (setJob s x).now = s.now := rfl
@[simp] theorem setJob_cm (s : State) (x : Job) : (setJob s x).cm = s.cm := rfl
@[simp] theorem setJob_boot (s : State) (x : Job) : (setJob s x).boot = s.boot := rfl
@[simp] theorem setJob_fw (s : State) (x : Job) : (setJob s x).fw = s.fw := rfl
@[simp] theorem setJob_mgmt (s : State) (x : Job) : (setJob s x).mgmt = s.mgmt := rfl
@[simp] theorem setJob_panel (s : State) (x : Job) : (setJob s x).panel = s.panel := rfl
@[simp] theorem setJob_ras (s : State) (x : Job) : (setJob s x).ras = s.ras := rfl
@[simp] theorem setJob_power (s : State) (x : Job) : (setJob s x).power = s.power := rfl
@[simp] theorem setJob_cap (s : State) (x : Job) : (setJob s x).cap = s.cap := rfl
@[simp] theorem setJob_raler (s : State) (x : Job) : (setJob s x).raler = s.raler := rfl
@[simp] theorem setJob_hosts (s : State) (x : Job) : (setJob s x).hosts = s.hosts := rfl
@[simp] theorem setJob_own (s : State) (x : Job) : (setJob s x).own = s.own := rfl
@[simp] theorem setJob_snap (s : State) (x : Job) : (setJob s x).snap = s.snap := rfl
@[simp] theorem setJob_jobc (s : State) (x : Job) : (setJob s x).jobc = s.jobc := rfl
@[simp] theorem setJob_saved (s : State) (x : Job) : (setJob s x).saved = s.saved := rfl
@[simp] theorem setJob_wins (s : State) (x : Job) : (setJob s x).wins = s.wins := rfl
@[simp] theorem setJob_tiers (s : State) (x : Job) : (setJob s x).tiers = s.tiers := rfl
@[simp] theorem setJob_recs (s : State) (x : Job) : (setJob s x).recs = s.recs := rfl
@[simp] theorem setJob_limits (s : State) (x : Job) : (setJob s x).limits = s.limits := rfl
@[simp] theorem setJob_counts (s : State) (x : Job) : (setJob s x).counts = s.counts := rfl
@[simp] theorem setJob_dies (s : State) (x : Job) : (setJob s x).dies = s.dies := rfl
@[simp] theorem setJob_remapLog (s : State) (x : Job) : (setJob s x).remapLog = s.remapLog := rfl
@[simp] theorem setJob_hours (s : State) (x : Job) : (setJob s x).hours = s.hours := rfl
@[simp] theorem setJob_ring (s : State) (x : Job) : (setJob s x).ring = s.ring := rfl
@[simp] theorem setJob_sep (s : State) (x : Job) : (setJob s x).sep = s.sep := rfl
@[simp] theorem setJob_adm (s : State) (x : Job) : (setJob s x).adm = s.adm := rfl

/-! ### setLad writes job -/

@[simp] theorem setLad_pending (s : State) (x : Ladle) : (setLad s x).pending = s.pending := rfl
@[simp] theorem setLad_free (s : State) (x : Ladle) : (setLad s x).free = s.free := rfl
@[simp] theorem setLad_now (s : State) (x : Ladle) : (setLad s x).now = s.now := rfl
@[simp] theorem setLad_cm (s : State) (x : Ladle) : (setLad s x).cm = s.cm := rfl
@[simp] theorem setLad_boot (s : State) (x : Ladle) : (setLad s x).boot = s.boot := rfl
@[simp] theorem setLad_fw (s : State) (x : Ladle) : (setLad s x).fw = s.fw := rfl
@[simp] theorem setLad_mgmt (s : State) (x : Ladle) : (setLad s x).mgmt = s.mgmt := rfl
@[simp] theorem setLad_panel (s : State) (x : Ladle) : (setLad s x).panel = s.panel := rfl
@[simp] theorem setLad_ras (s : State) (x : Ladle) : (setLad s x).ras = s.ras := rfl
@[simp] theorem setLad_power (s : State) (x : Ladle) : (setLad s x).power = s.power := rfl
@[simp] theorem setLad_cap (s : State) (x : Ladle) : (setLad s x).cap = s.cap := rfl
@[simp] theorem setLad_raler (s : State) (x : Ladle) : (setLad s x).raler = s.raler := rfl
@[simp] theorem setLad_hosts (s : State) (x : Ladle) : (setLad s x).hosts = s.hosts := rfl
@[simp] theorem setLad_own (s : State) (x : Ladle) : (setLad s x).own = s.own := rfl
@[simp] theorem setLad_snap (s : State) (x : Ladle) : (setLad s x).snap = s.snap := rfl
@[simp] theorem setLad_jobc (s : State) (x : Ladle) : (setLad s x).jobc = s.jobc := rfl
@[simp] theorem setLad_saved (s : State) (x : Ladle) : (setLad s x).saved = s.saved := rfl
@[simp] theorem setLad_wins (s : State) (x : Ladle) : (setLad s x).wins = s.wins := rfl
@[simp] theorem setLad_tiers (s : State) (x : Ladle) : (setLad s x).tiers = s.tiers := rfl
@[simp] theorem setLad_recs (s : State) (x : Ladle) : (setLad s x).recs = s.recs := rfl
@[simp] theorem setLad_limits (s : State) (x : Ladle) : (setLad s x).limits = s.limits := rfl
@[simp] theorem setLad_counts (s : State) (x : Ladle) : (setLad s x).counts = s.counts := rfl
@[simp] theorem setLad_dies (s : State) (x : Ladle) : (setLad s x).dies = s.dies := rfl
@[simp] theorem setLad_remapLog (s : State) (x : Ladle) : (setLad s x).remapLog = s.remapLog := rfl
@[simp] theorem setLad_hours (s : State) (x : Ladle) : (setLad s x).hours = s.hours := rfl
@[simp] theorem setLad_ring (s : State) (x : Ladle) : (setLad s x).ring = s.ring := rfl
@[simp] theorem setLad_sep (s : State) (x : Ladle) : (setLad s x).sep = s.sep := rfl
@[simp] theorem setLad_adm (s : State) (x : Ladle) : (setLad s x).adm = s.adm := rfl

/-! ### setDisp writes job -/

@[simp] theorem setDisp_pending (s : State) (i : Nat) (x : DispSt) : (setDisp s i x).pending = s.pending := rfl
@[simp] theorem setDisp_free (s : State) (i : Nat) (x : DispSt) : (setDisp s i x).free = s.free := rfl
@[simp] theorem setDisp_now (s : State) (i : Nat) (x : DispSt) : (setDisp s i x).now = s.now := rfl
@[simp] theorem setDisp_cm (s : State) (i : Nat) (x : DispSt) : (setDisp s i x).cm = s.cm := rfl
@[simp] theorem setDisp_boot (s : State) (i : Nat) (x : DispSt) : (setDisp s i x).boot = s.boot := rfl
@[simp] theorem setDisp_fw (s : State) (i : Nat) (x : DispSt) : (setDisp s i x).fw = s.fw := rfl
@[simp] theorem setDisp_mgmt (s : State) (i : Nat) (x : DispSt) : (setDisp s i x).mgmt = s.mgmt := rfl
@[simp] theorem setDisp_panel (s : State) (i : Nat) (x : DispSt) : (setDisp s i x).panel = s.panel := rfl
@[simp] theorem setDisp_ras (s : State) (i : Nat) (x : DispSt) : (setDisp s i x).ras = s.ras := rfl
@[simp] theorem setDisp_power (s : State) (i : Nat) (x : DispSt) : (setDisp s i x).power = s.power := rfl
@[simp] theorem setDisp_cap (s : State) (i : Nat) (x : DispSt) : (setDisp s i x).cap = s.cap := rfl
@[simp] theorem setDisp_raler (s : State) (i : Nat) (x : DispSt) : (setDisp s i x).raler = s.raler := rfl
@[simp] theorem setDisp_hosts (s : State) (i : Nat) (x : DispSt) : (setDisp s i x).hosts = s.hosts := rfl
@[simp] theorem setDisp_own (s : State) (i : Nat) (x : DispSt) : (setDisp s i x).own = s.own := rfl
@[simp] theorem setDisp_snap (s : State) (i : Nat) (x : DispSt) : (setDisp s i x).snap = s.snap := rfl
@[simp] theorem setDisp_jobc (s : State) (i : Nat) (x : DispSt) : (setDisp s i x).jobc = s.jobc := rfl
@[simp] theorem setDisp_saved (s : State) (i : Nat) (x : DispSt) : (setDisp s i x).saved = s.saved := rfl
@[simp] theorem setDisp_wins (s : State) (i : Nat) (x : DispSt) : (setDisp s i x).wins = s.wins := rfl
@[simp] theorem setDisp_tiers (s : State) (i : Nat) (x : DispSt) : (setDisp s i x).tiers = s.tiers := rfl
@[simp] theorem setDisp_recs (s : State) (i : Nat) (x : DispSt) : (setDisp s i x).recs = s.recs := rfl
@[simp] theorem setDisp_limits (s : State) (i : Nat) (x : DispSt) : (setDisp s i x).limits = s.limits := rfl
@[simp] theorem setDisp_counts (s : State) (i : Nat) (x : DispSt) : (setDisp s i x).counts = s.counts := rfl
@[simp] theorem setDisp_dies (s : State) (i : Nat) (x : DispSt) : (setDisp s i x).dies = s.dies := rfl
@[simp] theorem setDisp_remapLog (s : State) (i : Nat) (x : DispSt) : (setDisp s i x).remapLog = s.remapLog := rfl
@[simp] theorem setDisp_hours (s : State) (i : Nat) (x : DispSt) : (setDisp s i x).hours = s.hours := rfl
@[simp] theorem setDisp_ring (s : State) (i : Nat) (x : DispSt) : (setDisp s i x).ring = s.ring := rfl
@[simp] theorem setDisp_sep (s : State) (i : Nat) (x : DispSt) : (setDisp s i x).sep = s.sep := rfl
@[simp] theorem setDisp_adm (s : State) (i : Nat) (x : DispSt) : (setDisp s i x).adm = s.adm := rfl

/-! ### setColl writes job -/

@[simp] theorem setColl_pending (s : State) (i : Nat) (x : CollSt) : (setColl s i x).pending = s.pending := rfl
@[simp] theorem setColl_free (s : State) (i : Nat) (x : CollSt) : (setColl s i x).free = s.free := rfl
@[simp] theorem setColl_now (s : State) (i : Nat) (x : CollSt) : (setColl s i x).now = s.now := rfl
@[simp] theorem setColl_cm (s : State) (i : Nat) (x : CollSt) : (setColl s i x).cm = s.cm := rfl
@[simp] theorem setColl_boot (s : State) (i : Nat) (x : CollSt) : (setColl s i x).boot = s.boot := rfl
@[simp] theorem setColl_fw (s : State) (i : Nat) (x : CollSt) : (setColl s i x).fw = s.fw := rfl
@[simp] theorem setColl_mgmt (s : State) (i : Nat) (x : CollSt) : (setColl s i x).mgmt = s.mgmt := rfl
@[simp] theorem setColl_panel (s : State) (i : Nat) (x : CollSt) : (setColl s i x).panel = s.panel := rfl
@[simp] theorem setColl_ras (s : State) (i : Nat) (x : CollSt) : (setColl s i x).ras = s.ras := rfl
@[simp] theorem setColl_power (s : State) (i : Nat) (x : CollSt) : (setColl s i x).power = s.power := rfl
@[simp] theorem setColl_cap (s : State) (i : Nat) (x : CollSt) : (setColl s i x).cap = s.cap := rfl
@[simp] theorem setColl_raler (s : State) (i : Nat) (x : CollSt) : (setColl s i x).raler = s.raler := rfl
@[simp] theorem setColl_hosts (s : State) (i : Nat) (x : CollSt) : (setColl s i x).hosts = s.hosts := rfl
@[simp] theorem setColl_own (s : State) (i : Nat) (x : CollSt) : (setColl s i x).own = s.own := rfl
@[simp] theorem setColl_snap (s : State) (i : Nat) (x : CollSt) : (setColl s i x).snap = s.snap := rfl
@[simp] theorem setColl_jobc (s : State) (i : Nat) (x : CollSt) : (setColl s i x).jobc = s.jobc := rfl
@[simp] theorem setColl_saved (s : State) (i : Nat) (x : CollSt) : (setColl s i x).saved = s.saved := rfl
@[simp] theorem setColl_wins (s : State) (i : Nat) (x : CollSt) : (setColl s i x).wins = s.wins := rfl
@[simp] theorem setColl_tiers (s : State) (i : Nat) (x : CollSt) : (setColl s i x).tiers = s.tiers := rfl
@[simp] theorem setColl_recs (s : State) (i : Nat) (x : CollSt) : (setColl s i x).recs = s.recs := rfl
@[simp] theorem setColl_limits (s : State) (i : Nat) (x : CollSt) : (setColl s i x).limits = s.limits := rfl
@[simp] theorem setColl_counts (s : State) (i : Nat) (x : CollSt) : (setColl s i x).counts = s.counts := rfl
@[simp] theorem setColl_dies (s : State) (i : Nat) (x : CollSt) : (setColl s i x).dies = s.dies := rfl
@[simp] theorem setColl_remapLog (s : State) (i : Nat) (x : CollSt) : (setColl s i x).remapLog = s.remapLog := rfl
@[simp] theorem setColl_hours (s : State) (i : Nat) (x : CollSt) : (setColl s i x).hours = s.hours := rfl
@[simp] theorem setColl_ring (s : State) (i : Nat) (x : CollSt) : (setColl s i x).ring = s.ring := rfl
@[simp] theorem setColl_sep (s : State) (i : Nat) (x : CollSt) : (setColl s i x).sep = s.sep := rfl
@[simp] theorem setColl_adm (s : State) (i : Nat) (x : CollSt) : (setColl s i x).adm = s.adm := rfl

/-! ### setBind writes job -/

@[simp] theorem setBind_pending (s : State) (i : Nat) (x : LqBind) : (setBind s i x).pending = s.pending := rfl
@[simp] theorem setBind_free (s : State) (i : Nat) (x : LqBind) : (setBind s i x).free = s.free := rfl
@[simp] theorem setBind_now (s : State) (i : Nat) (x : LqBind) : (setBind s i x).now = s.now := rfl
@[simp] theorem setBind_cm (s : State) (i : Nat) (x : LqBind) : (setBind s i x).cm = s.cm := rfl
@[simp] theorem setBind_boot (s : State) (i : Nat) (x : LqBind) : (setBind s i x).boot = s.boot := rfl
@[simp] theorem setBind_fw (s : State) (i : Nat) (x : LqBind) : (setBind s i x).fw = s.fw := rfl
@[simp] theorem setBind_mgmt (s : State) (i : Nat) (x : LqBind) : (setBind s i x).mgmt = s.mgmt := rfl
@[simp] theorem setBind_panel (s : State) (i : Nat) (x : LqBind) : (setBind s i x).panel = s.panel := rfl
@[simp] theorem setBind_ras (s : State) (i : Nat) (x : LqBind) : (setBind s i x).ras = s.ras := rfl
@[simp] theorem setBind_power (s : State) (i : Nat) (x : LqBind) : (setBind s i x).power = s.power := rfl
@[simp] theorem setBind_cap (s : State) (i : Nat) (x : LqBind) : (setBind s i x).cap = s.cap := rfl
@[simp] theorem setBind_raler (s : State) (i : Nat) (x : LqBind) : (setBind s i x).raler = s.raler := rfl
@[simp] theorem setBind_hosts (s : State) (i : Nat) (x : LqBind) : (setBind s i x).hosts = s.hosts := rfl
@[simp] theorem setBind_own (s : State) (i : Nat) (x : LqBind) : (setBind s i x).own = s.own := rfl
@[simp] theorem setBind_snap (s : State) (i : Nat) (x : LqBind) : (setBind s i x).snap = s.snap := rfl
@[simp] theorem setBind_jobc (s : State) (i : Nat) (x : LqBind) : (setBind s i x).jobc = s.jobc := rfl
@[simp] theorem setBind_saved (s : State) (i : Nat) (x : LqBind) : (setBind s i x).saved = s.saved := rfl
@[simp] theorem setBind_wins (s : State) (i : Nat) (x : LqBind) : (setBind s i x).wins = s.wins := rfl
@[simp] theorem setBind_tiers (s : State) (i : Nat) (x : LqBind) : (setBind s i x).tiers = s.tiers := rfl
@[simp] theorem setBind_recs (s : State) (i : Nat) (x : LqBind) : (setBind s i x).recs = s.recs := rfl
@[simp] theorem setBind_limits (s : State) (i : Nat) (x : LqBind) : (setBind s i x).limits = s.limits := rfl
@[simp] theorem setBind_counts (s : State) (i : Nat) (x : LqBind) : (setBind s i x).counts = s.counts := rfl
@[simp] theorem setBind_dies (s : State) (i : Nat) (x : LqBind) : (setBind s i x).dies = s.dies := rfl
@[simp] theorem setBind_remapLog (s : State) (i : Nat) (x : LqBind) : (setBind s i x).remapLog = s.remapLog := rfl
@[simp] theorem setBind_hours (s : State) (i : Nat) (x : LqBind) : (setBind s i x).hours = s.hours := rfl
@[simp] theorem setBind_ring (s : State) (i : Nat) (x : LqBind) : (setBind s i x).ring = s.ring := rfl
@[simp] theorem setBind_sep (s : State) (i : Nat) (x : LqBind) : (setBind s i x).sep = s.sep := rfl
@[simp] theorem setBind_adm (s : State) (i : Nat) (x : LqBind) : (setBind s i x).adm = s.adm := rfl

/-! ### setSender writes job -/

@[simp] theorem setSender_pending (s : State) (i : Nat) (x : Sender) : (setSender s i x).pending = s.pending := rfl
@[simp] theorem setSender_free (s : State) (i : Nat) (x : Sender) : (setSender s i x).free = s.free := rfl
@[simp] theorem setSender_now (s : State) (i : Nat) (x : Sender) : (setSender s i x).now = s.now := rfl
@[simp] theorem setSender_cm (s : State) (i : Nat) (x : Sender) : (setSender s i x).cm = s.cm := rfl
@[simp] theorem setSender_boot (s : State) (i : Nat) (x : Sender) : (setSender s i x).boot = s.boot := rfl
@[simp] theorem setSender_fw (s : State) (i : Nat) (x : Sender) : (setSender s i x).fw = s.fw := rfl
@[simp] theorem setSender_mgmt (s : State) (i : Nat) (x : Sender) : (setSender s i x).mgmt = s.mgmt := rfl
@[simp] theorem setSender_panel (s : State) (i : Nat) (x : Sender) : (setSender s i x).panel = s.panel := rfl
@[simp] theorem setSender_ras (s : State) (i : Nat) (x : Sender) : (setSender s i x).ras = s.ras := rfl
@[simp] theorem setSender_power (s : State) (i : Nat) (x : Sender) : (setSender s i x).power = s.power := rfl
@[simp] theorem setSender_cap (s : State) (i : Nat) (x : Sender) : (setSender s i x).cap = s.cap := rfl
@[simp] theorem setSender_raler (s : State) (i : Nat) (x : Sender) : (setSender s i x).raler = s.raler := rfl
@[simp] theorem setSender_hosts (s : State) (i : Nat) (x : Sender) : (setSender s i x).hosts = s.hosts := rfl
@[simp] theorem setSender_own (s : State) (i : Nat) (x : Sender) : (setSender s i x).own = s.own := rfl
@[simp] theorem setSender_snap (s : State) (i : Nat) (x : Sender) : (setSender s i x).snap = s.snap := rfl
@[simp] theorem setSender_jobc (s : State) (i : Nat) (x : Sender) : (setSender s i x).jobc = s.jobc := rfl
@[simp] theorem setSender_saved (s : State) (i : Nat) (x : Sender) : (setSender s i x).saved = s.saved := rfl
@[simp] theorem setSender_wins (s : State) (i : Nat) (x : Sender) : (setSender s i x).wins = s.wins := rfl
@[simp] theorem setSender_tiers (s : State) (i : Nat) (x : Sender) : (setSender s i x).tiers = s.tiers := rfl
@[simp] theorem setSender_recs (s : State) (i : Nat) (x : Sender) : (setSender s i x).recs = s.recs := rfl
@[simp] theorem setSender_limits (s : State) (i : Nat) (x : Sender) : (setSender s i x).limits = s.limits := rfl
@[simp] theorem setSender_counts (s : State) (i : Nat) (x : Sender) : (setSender s i x).counts = s.counts := rfl
@[simp] theorem setSender_dies (s : State) (i : Nat) (x : Sender) : (setSender s i x).dies = s.dies := rfl
@[simp] theorem setSender_remapLog (s : State) (i : Nat) (x : Sender) : (setSender s i x).remapLog = s.remapLog := rfl
@[simp] theorem setSender_hours (s : State) (i : Nat) (x : Sender) : (setSender s i x).hours = s.hours := rfl
@[simp] theorem setSender_ring (s : State) (i : Nat) (x : Sender) : (setSender s i x).ring = s.ring := rfl
@[simp] theorem setSender_sep (s : State) (i : Nat) (x : Sender) : (setSender s i x).sep = s.sep := rfl
@[simp] theorem setSender_adm (s : State) (i : Nat) (x : Sender) : (setSender s i x).adm = s.adm := rfl

/-! ### setStr writes job -/

@[simp] theorem setStr_pending (s : State) (i : Nat) (x : Stream) : (setStr s i x).pending = s.pending := rfl
@[simp] theorem setStr_free (s : State) (i : Nat) (x : Stream) : (setStr s i x).free = s.free := rfl
@[simp] theorem setStr_now (s : State) (i : Nat) (x : Stream) : (setStr s i x).now = s.now := rfl
@[simp] theorem setStr_cm (s : State) (i : Nat) (x : Stream) : (setStr s i x).cm = s.cm := rfl
@[simp] theorem setStr_boot (s : State) (i : Nat) (x : Stream) : (setStr s i x).boot = s.boot := rfl
@[simp] theorem setStr_fw (s : State) (i : Nat) (x : Stream) : (setStr s i x).fw = s.fw := rfl
@[simp] theorem setStr_mgmt (s : State) (i : Nat) (x : Stream) : (setStr s i x).mgmt = s.mgmt := rfl
@[simp] theorem setStr_panel (s : State) (i : Nat) (x : Stream) : (setStr s i x).panel = s.panel := rfl
@[simp] theorem setStr_ras (s : State) (i : Nat) (x : Stream) : (setStr s i x).ras = s.ras := rfl
@[simp] theorem setStr_power (s : State) (i : Nat) (x : Stream) : (setStr s i x).power = s.power := rfl
@[simp] theorem setStr_cap (s : State) (i : Nat) (x : Stream) : (setStr s i x).cap = s.cap := rfl
@[simp] theorem setStr_raler (s : State) (i : Nat) (x : Stream) : (setStr s i x).raler = s.raler := rfl
@[simp] theorem setStr_hosts (s : State) (i : Nat) (x : Stream) : (setStr s i x).hosts = s.hosts := rfl
@[simp] theorem setStr_own (s : State) (i : Nat) (x : Stream) : (setStr s i x).own = s.own := rfl
@[simp] theorem setStr_snap (s : State) (i : Nat) (x : Stream) : (setStr s i x).snap = s.snap := rfl
@[simp] theorem setStr_jobc (s : State) (i : Nat) (x : Stream) : (setStr s i x).jobc = s.jobc := rfl
@[simp] theorem setStr_saved (s : State) (i : Nat) (x : Stream) : (setStr s i x).saved = s.saved := rfl
@[simp] theorem setStr_wins (s : State) (i : Nat) (x : Stream) : (setStr s i x).wins = s.wins := rfl
@[simp] theorem setStr_tiers (s : State) (i : Nat) (x : Stream) : (setStr s i x).tiers = s.tiers := rfl
@[simp] theorem setStr_recs (s : State) (i : Nat) (x : Stream) : (setStr s i x).recs = s.recs := rfl
@[simp] theorem setStr_limits (s : State) (i : Nat) (x : Stream) : (setStr s i x).limits = s.limits := rfl
@[simp] theorem setStr_counts (s : State) (i : Nat) (x : Stream) : (setStr s i x).counts = s.counts := rfl
@[simp] theorem setStr_dies (s : State) (i : Nat) (x : Stream) : (setStr s i x).dies = s.dies := rfl
@[simp] theorem setStr_remapLog (s : State) (i : Nat) (x : Stream) : (setStr s i x).remapLog = s.remapLog := rfl
@[simp] theorem setStr_hours (s : State) (i : Nat) (x : Stream) : (setStr s i x).hours = s.hours := rfl
@[simp] theorem setStr_ring (s : State) (i : Nat) (x : Stream) : (setStr s i x).ring = s.ring := rfl
@[simp] theorem setStr_sep (s : State) (i : Nat) (x : Stream) : (setStr s i x).sep = s.sep := rfl
@[simp] theorem setStr_adm (s : State) (i : Nat) (x : Stream) : (setStr s i x).adm = s.adm := rfl

/-! ### setWin writes wins -/

@[simp] theorem setWin_pending (s : State) (w : Nat) (x : Window) : (setWin s w x).pending = s.pending := rfl
@[simp] theorem setWin_free (s : State) (w : Nat) (x : Window) : (setWin s w x).free = s.free := rfl
@[simp] theorem setWin_now (s : State) (w : Nat) (x : Window) : (setWin s w x).now = s.now := rfl
@[simp] theorem setWin_cm (s : State) (w : Nat) (x : Window) : (setWin s w x).cm = s.cm := rfl
@[simp] theorem setWin_boot (s : State) (w : Nat) (x : Window) : (setWin s w x).boot = s.boot := rfl
@[simp] theorem setWin_fw (s : State) (w : Nat) (x : Window) : (setWin s w x).fw = s.fw := rfl
@[simp] theorem setWin_mgmt (s : State) (w : Nat) (x : Window) : (setWin s w x).mgmt = s.mgmt := rfl
@[simp] theorem setWin_panel (s : State) (w : Nat) (x : Window) : (setWin s w x).panel = s.panel := rfl
@[simp] theorem setWin_ras (s : State) (w : Nat) (x : Window) : (setWin s w x).ras = s.ras := rfl
@[simp] theorem setWin_power (s : State) (w : Nat) (x : Window) : (setWin s w x).power = s.power := rfl
@[simp] theorem setWin_cap (s : State) (w : Nat) (x : Window) : (setWin s w x).cap = s.cap := rfl
@[simp] theorem setWin_raler (s : State) (w : Nat) (x : Window) : (setWin s w x).raler = s.raler := rfl
@[simp] theorem setWin_hosts (s : State) (w : Nat) (x : Window) : (setWin s w x).hosts = s.hosts := rfl
@[simp] theorem setWin_own (s : State) (w : Nat) (x : Window) : (setWin s w x).own = s.own := rfl
@[simp] theorem setWin_snap (s : State) (w : Nat) (x : Window) : (setWin s w x).snap = s.snap := rfl
@[simp] theorem setWin_jobc (s : State) (w : Nat) (x : Window) : (setWin s w x).jobc = s.jobc := rfl
@[simp] theorem setWin_job (s : State) (w : Nat) (x : Window) : (setWin s w x).job = s.job := rfl
@[simp] theorem setWin_saved (s : State) (w : Nat) (x : Window) : (setWin s w x).saved = s.saved := rfl
@[simp] theorem setWin_tiers (s : State) (w : Nat) (x : Window) : (setWin s w x).tiers = s.tiers := rfl
@[simp] theorem setWin_recs (s : State) (w : Nat) (x : Window) : (setWin s w x).recs = s.recs := rfl
@[simp] theorem setWin_limits (s : State) (w : Nat) (x : Window) : (setWin s w x).limits = s.limits := rfl
@[simp] theorem setWin_counts (s : State) (w : Nat) (x : Window) : (setWin s w x).counts = s.counts := rfl
@[simp] theorem setWin_dies (s : State) (w : Nat) (x : Window) : (setWin s w x).dies = s.dies := rfl
@[simp] theorem setWin_remapLog (s : State) (w : Nat) (x : Window) : (setWin s w x).remapLog = s.remapLog := rfl
@[simp] theorem setWin_hours (s : State) (w : Nat) (x : Window) : (setWin s w x).hours = s.hours := rfl
@[simp] theorem setWin_ring (s : State) (w : Nat) (x : Window) : (setWin s w x).ring = s.ring := rfl
@[simp] theorem setWin_sep (s : State) (w : Nat) (x : Window) : (setWin s w x).sep = s.sep := rfl
@[simp] theorem setWin_adm (s : State) (w : Nat) (x : Window) : (setWin s w x).adm = s.adm := rfl

/-! ### setHost writes hosts -/

@[simp] theorem setHost_pending (s : State) (n : Nat) (x : HostSlot) : (setHost s n x).pending = s.pending := rfl
@[simp] theorem setHost_free (s : State) (n : Nat) (x : HostSlot) : (setHost s n x).free = s.free := rfl
@[simp] theorem setHost_now (s : State) (n : Nat) (x : HostSlot) : (setHost s n x).now = s.now := rfl
@[simp] theorem setHost_cm (s : State) (n : Nat) (x : HostSlot) : (setHost s n x).cm = s.cm := rfl
@[simp] theorem setHost_boot (s : State) (n : Nat) (x : HostSlot) : (setHost s n x).boot = s.boot := rfl
@[simp] theorem setHost_fw (s : State) (n : Nat) (x : HostSlot) : (setHost s n x).fw = s.fw := rfl
@[simp] theorem setHost_mgmt (s : State) (n : Nat) (x : HostSlot) : (setHost s n x).mgmt = s.mgmt := rfl
@[simp] theorem setHost_panel (s : State) (n : Nat) (x : HostSlot) : (setHost s n x).panel = s.panel := rfl
@[simp] theorem setHost_ras (s : State) (n : Nat) (x : HostSlot) : (setHost s n x).ras = s.ras := rfl
@[simp] theorem setHost_power (s : State) (n : Nat) (x : HostSlot) : (setHost s n x).power = s.power := rfl
@[simp] theorem setHost_cap (s : State) (n : Nat) (x : HostSlot) : (setHost s n x).cap = s.cap := rfl
@[simp] theorem setHost_raler (s : State) (n : Nat) (x : HostSlot) : (setHost s n x).raler = s.raler := rfl
@[simp] theorem setHost_own (s : State) (n : Nat) (x : HostSlot) : (setHost s n x).own = s.own := rfl
@[simp] theorem setHost_snap (s : State) (n : Nat) (x : HostSlot) : (setHost s n x).snap = s.snap := rfl
@[simp] theorem setHost_jobc (s : State) (n : Nat) (x : HostSlot) : (setHost s n x).jobc = s.jobc := rfl
@[simp] theorem setHost_job (s : State) (n : Nat) (x : HostSlot) : (setHost s n x).job = s.job := rfl
@[simp] theorem setHost_saved (s : State) (n : Nat) (x : HostSlot) : (setHost s n x).saved = s.saved := rfl
@[simp] theorem setHost_wins (s : State) (n : Nat) (x : HostSlot) : (setHost s n x).wins = s.wins := rfl
@[simp] theorem setHost_tiers (s : State) (n : Nat) (x : HostSlot) : (setHost s n x).tiers = s.tiers := rfl
@[simp] theorem setHost_recs (s : State) (n : Nat) (x : HostSlot) : (setHost s n x).recs = s.recs := rfl
@[simp] theorem setHost_limits (s : State) (n : Nat) (x : HostSlot) : (setHost s n x).limits = s.limits := rfl
@[simp] theorem setHost_counts (s : State) (n : Nat) (x : HostSlot) : (setHost s n x).counts = s.counts := rfl
@[simp] theorem setHost_dies (s : State) (n : Nat) (x : HostSlot) : (setHost s n x).dies = s.dies := rfl
@[simp] theorem setHost_remapLog (s : State) (n : Nat) (x : HostSlot) : (setHost s n x).remapLog = s.remapLog := rfl
@[simp] theorem setHost_hours (s : State) (n : Nat) (x : HostSlot) : (setHost s n x).hours = s.hours := rfl
@[simp] theorem setHost_ring (s : State) (n : Nat) (x : HostSlot) : (setHost s n x).ring = s.ring := rfl
@[simp] theorem setHost_sep (s : State) (n : Nat) (x : HostSlot) : (setHost s n x).sep = s.sep := rfl
@[simp] theorem setHost_adm (s : State) (n : Nat) (x : HostSlot) : (setHost s n x).adm = s.adm := rfl

/-! ### setCtx writes raler -/

@[simp] theorem setCtx_pending (s : State) (c : Nat) (x : CtxSt) : (setCtx s c x).pending = s.pending := rfl
@[simp] theorem setCtx_free (s : State) (c : Nat) (x : CtxSt) : (setCtx s c x).free = s.free := rfl
@[simp] theorem setCtx_now (s : State) (c : Nat) (x : CtxSt) : (setCtx s c x).now = s.now := rfl
@[simp] theorem setCtx_cm (s : State) (c : Nat) (x : CtxSt) : (setCtx s c x).cm = s.cm := rfl
@[simp] theorem setCtx_boot (s : State) (c : Nat) (x : CtxSt) : (setCtx s c x).boot = s.boot := rfl
@[simp] theorem setCtx_fw (s : State) (c : Nat) (x : CtxSt) : (setCtx s c x).fw = s.fw := rfl
@[simp] theorem setCtx_mgmt (s : State) (c : Nat) (x : CtxSt) : (setCtx s c x).mgmt = s.mgmt := rfl
@[simp] theorem setCtx_panel (s : State) (c : Nat) (x : CtxSt) : (setCtx s c x).panel = s.panel := rfl
@[simp] theorem setCtx_ras (s : State) (c : Nat) (x : CtxSt) : (setCtx s c x).ras = s.ras := rfl
@[simp] theorem setCtx_power (s : State) (c : Nat) (x : CtxSt) : (setCtx s c x).power = s.power := rfl
@[simp] theorem setCtx_cap (s : State) (c : Nat) (x : CtxSt) : (setCtx s c x).cap = s.cap := rfl
@[simp] theorem setCtx_hosts (s : State) (c : Nat) (x : CtxSt) : (setCtx s c x).hosts = s.hosts := rfl
@[simp] theorem setCtx_own (s : State) (c : Nat) (x : CtxSt) : (setCtx s c x).own = s.own := rfl
@[simp] theorem setCtx_snap (s : State) (c : Nat) (x : CtxSt) : (setCtx s c x).snap = s.snap := rfl
@[simp] theorem setCtx_jobc (s : State) (c : Nat) (x : CtxSt) : (setCtx s c x).jobc = s.jobc := rfl
@[simp] theorem setCtx_job (s : State) (c : Nat) (x : CtxSt) : (setCtx s c x).job = s.job := rfl
@[simp] theorem setCtx_saved (s : State) (c : Nat) (x : CtxSt) : (setCtx s c x).saved = s.saved := rfl
@[simp] theorem setCtx_wins (s : State) (c : Nat) (x : CtxSt) : (setCtx s c x).wins = s.wins := rfl
@[simp] theorem setCtx_tiers (s : State) (c : Nat) (x : CtxSt) : (setCtx s c x).tiers = s.tiers := rfl
@[simp] theorem setCtx_recs (s : State) (c : Nat) (x : CtxSt) : (setCtx s c x).recs = s.recs := rfl
@[simp] theorem setCtx_limits (s : State) (c : Nat) (x : CtxSt) : (setCtx s c x).limits = s.limits := rfl
@[simp] theorem setCtx_counts (s : State) (c : Nat) (x : CtxSt) : (setCtx s c x).counts = s.counts := rfl
@[simp] theorem setCtx_dies (s : State) (c : Nat) (x : CtxSt) : (setCtx s c x).dies = s.dies := rfl
@[simp] theorem setCtx_remapLog (s : State) (c : Nat) (x : CtxSt) : (setCtx s c x).remapLog = s.remapLog := rfl
@[simp] theorem setCtx_hours (s : State) (c : Nat) (x : CtxSt) : (setCtx s c x).hours = s.hours := rfl
@[simp] theorem setCtx_ring (s : State) (c : Nat) (x : CtxSt) : (setCtx s c x).ring = s.ring := rfl
@[simp] theorem setCtx_sep (s : State) (c : Nat) (x : CtxSt) : (setCtx s c x).sep = s.sep := rfl
@[simp] theorem setCtx_adm (s : State) (c : Nat) (x : CtxSt) : (setCtx s c x).adm = s.adm := rfl

/-! ### setPq writes raler -/

@[simp] theorem setPq_pending (s : State) (q : Nat) (x : ProgQ) : (setPq s q x).pending = s.pending := rfl
@[simp] theorem setPq_free (s : State) (q : Nat) (x : ProgQ) : (setPq s q x).free = s.free := rfl
@[simp] theorem setPq_now (s : State) (q : Nat) (x : ProgQ) : (setPq s q x).now = s.now := rfl
@[simp] theorem setPq_cm (s : State) (q : Nat) (x : ProgQ) : (setPq s q x).cm = s.cm := rfl
@[simp] theorem setPq_boot (s : State) (q : Nat) (x : ProgQ) : (setPq s q x).boot = s.boot := rfl
@[simp] theorem setPq_fw (s : State) (q : Nat) (x : ProgQ) : (setPq s q x).fw = s.fw := rfl
@[simp] theorem setPq_mgmt (s : State) (q : Nat) (x : ProgQ) : (setPq s q x).mgmt = s.mgmt := rfl
@[simp] theorem setPq_panel (s : State) (q : Nat) (x : ProgQ) : (setPq s q x).panel = s.panel := rfl
@[simp] theorem setPq_ras (s : State) (q : Nat) (x : ProgQ) : (setPq s q x).ras = s.ras := rfl
@[simp] theorem setPq_power (s : State) (q : Nat) (x : ProgQ) : (setPq s q x).power = s.power := rfl
@[simp] theorem setPq_cap (s : State) (q : Nat) (x : ProgQ) : (setPq s q x).cap = s.cap := rfl
@[simp] theorem setPq_hosts (s : State) (q : Nat) (x : ProgQ) : (setPq s q x).hosts = s.hosts := rfl
@[simp] theorem setPq_own (s : State) (q : Nat) (x : ProgQ) : (setPq s q x).own = s.own := rfl
@[simp] theorem setPq_snap (s : State) (q : Nat) (x : ProgQ) : (setPq s q x).snap = s.snap := rfl
@[simp] theorem setPq_jobc (s : State) (q : Nat) (x : ProgQ) : (setPq s q x).jobc = s.jobc := rfl
@[simp] theorem setPq_job (s : State) (q : Nat) (x : ProgQ) : (setPq s q x).job = s.job := rfl
@[simp] theorem setPq_saved (s : State) (q : Nat) (x : ProgQ) : (setPq s q x).saved = s.saved := rfl
@[simp] theorem setPq_wins (s : State) (q : Nat) (x : ProgQ) : (setPq s q x).wins = s.wins := rfl
@[simp] theorem setPq_tiers (s : State) (q : Nat) (x : ProgQ) : (setPq s q x).tiers = s.tiers := rfl
@[simp] theorem setPq_recs (s : State) (q : Nat) (x : ProgQ) : (setPq s q x).recs = s.recs := rfl
@[simp] theorem setPq_limits (s : State) (q : Nat) (x : ProgQ) : (setPq s q x).limits = s.limits := rfl
@[simp] theorem setPq_counts (s : State) (q : Nat) (x : ProgQ) : (setPq s q x).counts = s.counts := rfl
@[simp] theorem setPq_dies (s : State) (q : Nat) (x : ProgQ) : (setPq s q x).dies = s.dies := rfl
@[simp] theorem setPq_remapLog (s : State) (q : Nat) (x : ProgQ) : (setPq s q x).remapLog = s.remapLog := rfl
@[simp] theorem setPq_hours (s : State) (q : Nat) (x : ProgQ) : (setPq s q x).hours = s.hours := rfl
@[simp] theorem setPq_ring (s : State) (q : Nat) (x : ProgQ) : (setPq s q x).ring = s.ring := rfl
@[simp] theorem setPq_sep (s : State) (q : Nat) (x : ProgQ) : (setPq s q x).sep = s.sep := rfl
@[simp] theorem setPq_adm (s : State) (q : Nat) (x : ProgQ) : (setPq s q x).adm = s.adm := rfl

/-! ### setPage writes tiers -/

@[simp] theorem setPage_pending (s : State) (p : Nat) (x : PageEnt) : (setPage s p x).pending = s.pending := rfl
@[simp] theorem setPage_free (s : State) (p : Nat) (x : PageEnt) : (setPage s p x).free = s.free := rfl
@[simp] theorem setPage_now (s : State) (p : Nat) (x : PageEnt) : (setPage s p x).now = s.now := rfl
@[simp] theorem setPage_cm (s : State) (p : Nat) (x : PageEnt) : (setPage s p x).cm = s.cm := rfl
@[simp] theorem setPage_boot (s : State) (p : Nat) (x : PageEnt) : (setPage s p x).boot = s.boot := rfl
@[simp] theorem setPage_fw (s : State) (p : Nat) (x : PageEnt) : (setPage s p x).fw = s.fw := rfl
@[simp] theorem setPage_mgmt (s : State) (p : Nat) (x : PageEnt) : (setPage s p x).mgmt = s.mgmt := rfl
@[simp] theorem setPage_panel (s : State) (p : Nat) (x : PageEnt) : (setPage s p x).panel = s.panel := rfl
@[simp] theorem setPage_ras (s : State) (p : Nat) (x : PageEnt) : (setPage s p x).ras = s.ras := rfl
@[simp] theorem setPage_power (s : State) (p : Nat) (x : PageEnt) : (setPage s p x).power = s.power := rfl
@[simp] theorem setPage_cap (s : State) (p : Nat) (x : PageEnt) : (setPage s p x).cap = s.cap := rfl
@[simp] theorem setPage_raler (s : State) (p : Nat) (x : PageEnt) : (setPage s p x).raler = s.raler := rfl
@[simp] theorem setPage_hosts (s : State) (p : Nat) (x : PageEnt) : (setPage s p x).hosts = s.hosts := rfl
@[simp] theorem setPage_own (s : State) (p : Nat) (x : PageEnt) : (setPage s p x).own = s.own := rfl
@[simp] theorem setPage_snap (s : State) (p : Nat) (x : PageEnt) : (setPage s p x).snap = s.snap := rfl
@[simp] theorem setPage_jobc (s : State) (p : Nat) (x : PageEnt) : (setPage s p x).jobc = s.jobc := rfl
@[simp] theorem setPage_job (s : State) (p : Nat) (x : PageEnt) : (setPage s p x).job = s.job := rfl
@[simp] theorem setPage_saved (s : State) (p : Nat) (x : PageEnt) : (setPage s p x).saved = s.saved := rfl
@[simp] theorem setPage_wins (s : State) (p : Nat) (x : PageEnt) : (setPage s p x).wins = s.wins := rfl
@[simp] theorem setPage_recs (s : State) (p : Nat) (x : PageEnt) : (setPage s p x).recs = s.recs := rfl
@[simp] theorem setPage_limits (s : State) (p : Nat) (x : PageEnt) : (setPage s p x).limits = s.limits := rfl
@[simp] theorem setPage_counts (s : State) (p : Nat) (x : PageEnt) : (setPage s p x).counts = s.counts := rfl
@[simp] theorem setPage_dies (s : State) (p : Nat) (x : PageEnt) : (setPage s p x).dies = s.dies := rfl
@[simp] theorem setPage_remapLog (s : State) (p : Nat) (x : PageEnt) : (setPage s p x).remapLog = s.remapLog := rfl
@[simp] theorem setPage_hours (s : State) (p : Nat) (x : PageEnt) : (setPage s p x).hours = s.hours := rfl
@[simp] theorem setPage_ring (s : State) (p : Nat) (x : PageEnt) : (setPage s p x).ring = s.ring := rfl
@[simp] theorem setPage_sep (s : State) (p : Nat) (x : PageEnt) : (setPage s p x).sep = s.sep := rfl
@[simp] theorem setPage_adm (s : State) (p : Nat) (x : PageEnt) : (setPage s p x).adm = s.adm := rfl

/-! ### setRing writes ring -/

@[simp] theorem setRing_pending (s : State) (x : Ring) : (setRing s x).pending = s.pending := rfl
@[simp] theorem setRing_free (s : State) (x : Ring) : (setRing s x).free = s.free := rfl
@[simp] theorem setRing_now (s : State) (x : Ring) : (setRing s x).now = s.now := rfl
@[simp] theorem setRing_cm (s : State) (x : Ring) : (setRing s x).cm = s.cm := rfl
@[simp] theorem setRing_boot (s : State) (x : Ring) : (setRing s x).boot = s.boot := rfl
@[simp] theorem setRing_fw (s : State) (x : Ring) : (setRing s x).fw = s.fw := rfl
@[simp] theorem setRing_mgmt (s : State) (x : Ring) : (setRing s x).mgmt = s.mgmt := rfl
@[simp] theorem setRing_panel (s : State) (x : Ring) : (setRing s x).panel = s.panel := rfl
@[simp] theorem setRing_ras (s : State) (x : Ring) : (setRing s x).ras = s.ras := rfl
@[simp] theorem setRing_power (s : State) (x : Ring) : (setRing s x).power = s.power := rfl
@[simp] theorem setRing_cap (s : State) (x : Ring) : (setRing s x).cap = s.cap := rfl
@[simp] theorem setRing_raler (s : State) (x : Ring) : (setRing s x).raler = s.raler := rfl
@[simp] theorem setRing_hosts (s : State) (x : Ring) : (setRing s x).hosts = s.hosts := rfl
@[simp] theorem setRing_own (s : State) (x : Ring) : (setRing s x).own = s.own := rfl
@[simp] theorem setRing_snap (s : State) (x : Ring) : (setRing s x).snap = s.snap := rfl
@[simp] theorem setRing_jobc (s : State) (x : Ring) : (setRing s x).jobc = s.jobc := rfl
@[simp] theorem setRing_job (s : State) (x : Ring) : (setRing s x).job = s.job := rfl
@[simp] theorem setRing_saved (s : State) (x : Ring) : (setRing s x).saved = s.saved := rfl
@[simp] theorem setRing_wins (s : State) (x : Ring) : (setRing s x).wins = s.wins := rfl
@[simp] theorem setRing_tiers (s : State) (x : Ring) : (setRing s x).tiers = s.tiers := rfl
@[simp] theorem setRing_recs (s : State) (x : Ring) : (setRing s x).recs = s.recs := rfl
@[simp] theorem setRing_limits (s : State) (x : Ring) : (setRing s x).limits = s.limits := rfl
@[simp] theorem setRing_counts (s : State) (x : Ring) : (setRing s x).counts = s.counts := rfl
@[simp] theorem setRing_dies (s : State) (x : Ring) : (setRing s x).dies = s.dies := rfl
@[simp] theorem setRing_remapLog (s : State) (x : Ring) : (setRing s x).remapLog = s.remapLog := rfl
@[simp] theorem setRing_hours (s : State) (x : Ring) : (setRing s x).hours = s.hours := rfl
@[simp] theorem setRing_sep (s : State) (x : Ring) : (setRing s x).sep = s.sep := rfl
@[simp] theorem setRing_adm (s : State) (x : Ring) : (setRing s x).adm = s.adm := rfl

/-! ### setBucket writes ring -/

@[simp] theorem setBucket_pending (s : State) (p e : Nat) (x : Bucket) : (setBucket s p e x).pending = s.pending := rfl
@[simp] theorem setBucket_free (s : State) (p e : Nat) (x : Bucket) : (setBucket s p e x).free = s.free := rfl
@[simp] theorem setBucket_now (s : State) (p e : Nat) (x : Bucket) : (setBucket s p e x).now = s.now := rfl
@[simp] theorem setBucket_cm (s : State) (p e : Nat) (x : Bucket) : (setBucket s p e x).cm = s.cm := rfl
@[simp] theorem setBucket_boot (s : State) (p e : Nat) (x : Bucket) : (setBucket s p e x).boot = s.boot := rfl
@[simp] theorem setBucket_fw (s : State) (p e : Nat) (x : Bucket) : (setBucket s p e x).fw = s.fw := rfl
@[simp] theorem setBucket_mgmt (s : State) (p e : Nat) (x : Bucket) : (setBucket s p e x).mgmt = s.mgmt := rfl
@[simp] theorem setBucket_panel (s : State) (p e : Nat) (x : Bucket) : (setBucket s p e x).panel = s.panel := rfl
@[simp] theorem setBucket_ras (s : State) (p e : Nat) (x : Bucket) : (setBucket s p e x).ras = s.ras := rfl
@[simp] theorem setBucket_power (s : State) (p e : Nat) (x : Bucket) : (setBucket s p e x).power = s.power := rfl
@[simp] theorem setBucket_cap (s : State) (p e : Nat) (x : Bucket) : (setBucket s p e x).cap = s.cap := rfl
@[simp] theorem setBucket_raler (s : State) (p e : Nat) (x : Bucket) : (setBucket s p e x).raler = s.raler := rfl
@[simp] theorem setBucket_hosts (s : State) (p e : Nat) (x : Bucket) : (setBucket s p e x).hosts = s.hosts := rfl
@[simp] theorem setBucket_own (s : State) (p e : Nat) (x : Bucket) : (setBucket s p e x).own = s.own := rfl
@[simp] theorem setBucket_snap (s : State) (p e : Nat) (x : Bucket) : (setBucket s p e x).snap = s.snap := rfl
@[simp] theorem setBucket_jobc (s : State) (p e : Nat) (x : Bucket) : (setBucket s p e x).jobc = s.jobc := rfl
@[simp] theorem setBucket_job (s : State) (p e : Nat) (x : Bucket) : (setBucket s p e x).job = s.job := rfl
@[simp] theorem setBucket_saved (s : State) (p e : Nat) (x : Bucket) : (setBucket s p e x).saved = s.saved := rfl
@[simp] theorem setBucket_wins (s : State) (p e : Nat) (x : Bucket) : (setBucket s p e x).wins = s.wins := rfl
@[simp] theorem setBucket_tiers (s : State) (p e : Nat) (x : Bucket) : (setBucket s p e x).tiers = s.tiers := rfl
@[simp] theorem setBucket_recs (s : State) (p e : Nat) (x : Bucket) : (setBucket s p e x).recs = s.recs := rfl
@[simp] theorem setBucket_limits (s : State) (p e : Nat) (x : Bucket) : (setBucket s p e x).limits = s.limits := rfl
@[simp] theorem setBucket_counts (s : State) (p e : Nat) (x : Bucket) : (setBucket s p e x).counts = s.counts := rfl
@[simp] theorem setBucket_dies (s : State) (p e : Nat) (x : Bucket) : (setBucket s p e x).dies = s.dies := rfl
@[simp] theorem setBucket_remapLog (s : State) (p e : Nat) (x : Bucket) : (setBucket s p e x).remapLog = s.remapLog := rfl
@[simp] theorem setBucket_hours (s : State) (p e : Nat) (x : Bucket) : (setBucket s p e x).hours = s.hours := rfl
@[simp] theorem setBucket_sep (s : State) (p e : Nat) (x : Bucket) : (setBucket s p e x).sep = s.sep := rfl
@[simp] theorem setBucket_adm (s : State) (p e : Nat) (x : Bucket) : (setBucket s p e x).adm = s.adm := rfl

/-! ### setSep writes sep -/

@[simp] theorem setSep_pending (s : State) (x : Sep) : (setSep s x).pending = s.pending := rfl
@[simp] theorem setSep_free (s : State) (x : Sep) : (setSep s x).free = s.free := rfl
@[simp] theorem setSep_now (s : State) (x : Sep) : (setSep s x).now = s.now := rfl
@[simp] theorem setSep_cm (s : State) (x : Sep) : (setSep s x).cm = s.cm := rfl
@[simp] theorem setSep_boot (s : State) (x : Sep) : (setSep s x).boot = s.boot := rfl
@[simp] theorem setSep_fw (s : State) (x : Sep) : (setSep s x).fw = s.fw := rfl
@[simp] theorem setSep_mgmt (s : State) (x : Sep) : (setSep s x).mgmt = s.mgmt := rfl
@[simp] theorem setSep_panel (s : State) (x : Sep) : (setSep s x).panel = s.panel := rfl
@[simp] theorem setSep_ras (s : State) (x : Sep) : (setSep s x).ras = s.ras := rfl
@[simp] theorem setSep_power (s : State) (x : Sep) : (setSep s x).power = s.power := rfl
@[simp] theorem setSep_cap (s : State) (x : Sep) : (setSep s x).cap = s.cap := rfl
@[simp] theorem setSep_raler (s : State) (x : Sep) : (setSep s x).raler = s.raler := rfl
@[simp] theorem setSep_hosts (s : State) (x : Sep) : (setSep s x).hosts = s.hosts := rfl
@[simp] theorem setSep_own (s : State) (x : Sep) : (setSep s x).own = s.own := rfl
@[simp] theorem setSep_snap (s : State) (x : Sep) : (setSep s x).snap = s.snap := rfl
@[simp] theorem setSep_jobc (s : State) (x : Sep) : (setSep s x).jobc = s.jobc := rfl
@[simp] theorem setSep_job (s : State) (x : Sep) : (setSep s x).job = s.job := rfl
@[simp] theorem setSep_saved (s : State) (x : Sep) : (setSep s x).saved = s.saved := rfl
@[simp] theorem setSep_wins (s : State) (x : Sep) : (setSep s x).wins = s.wins := rfl
@[simp] theorem setSep_tiers (s : State) (x : Sep) : (setSep s x).tiers = s.tiers := rfl
@[simp] theorem setSep_recs (s : State) (x : Sep) : (setSep s x).recs = s.recs := rfl
@[simp] theorem setSep_limits (s : State) (x : Sep) : (setSep s x).limits = s.limits := rfl
@[simp] theorem setSep_counts (s : State) (x : Sep) : (setSep s x).counts = s.counts := rfl
@[simp] theorem setSep_dies (s : State) (x : Sep) : (setSep s x).dies = s.dies := rfl
@[simp] theorem setSep_remapLog (s : State) (x : Sep) : (setSep s x).remapLog = s.remapLog := rfl
@[simp] theorem setSep_hours (s : State) (x : Sep) : (setSep s x).hours = s.hours := rfl
@[simp] theorem setSep_ring (s : State) (x : Sep) : (setSep s x).ring = s.ring := rfl
@[simp] theorem setSep_adm (s : State) (x : Sep) : (setSep s x).adm = s.adm := rfl

/-! ### setAdp writes sep -/

@[simp] theorem setAdp_pending (s : State) (i : Nat) (x : AdpSlot) : (setAdp s i x).pending = s.pending := rfl
@[simp] theorem setAdp_free (s : State) (i : Nat) (x : AdpSlot) : (setAdp s i x).free = s.free := rfl
@[simp] theorem setAdp_now (s : State) (i : Nat) (x : AdpSlot) : (setAdp s i x).now = s.now := rfl
@[simp] theorem setAdp_cm (s : State) (i : Nat) (x : AdpSlot) : (setAdp s i x).cm = s.cm := rfl
@[simp] theorem setAdp_boot (s : State) (i : Nat) (x : AdpSlot) : (setAdp s i x).boot = s.boot := rfl
@[simp] theorem setAdp_fw (s : State) (i : Nat) (x : AdpSlot) : (setAdp s i x).fw = s.fw := rfl
@[simp] theorem setAdp_mgmt (s : State) (i : Nat) (x : AdpSlot) : (setAdp s i x).mgmt = s.mgmt := rfl
@[simp] theorem setAdp_panel (s : State) (i : Nat) (x : AdpSlot) : (setAdp s i x).panel = s.panel := rfl
@[simp] theorem setAdp_ras (s : State) (i : Nat) (x : AdpSlot) : (setAdp s i x).ras = s.ras := rfl
@[simp] theorem setAdp_power (s : State) (i : Nat) (x : AdpSlot) : (setAdp s i x).power = s.power := rfl
@[simp] theorem setAdp_cap (s : State) (i : Nat) (x : AdpSlot) : (setAdp s i x).cap = s.cap := rfl
@[simp] theorem setAdp_raler (s : State) (i : Nat) (x : AdpSlot) : (setAdp s i x).raler = s.raler := rfl
@[simp] theorem setAdp_hosts (s : State) (i : Nat) (x : AdpSlot) : (setAdp s i x).hosts = s.hosts := rfl
@[simp] theorem setAdp_own (s : State) (i : Nat) (x : AdpSlot) : (setAdp s i x).own = s.own := rfl
@[simp] theorem setAdp_snap (s : State) (i : Nat) (x : AdpSlot) : (setAdp s i x).snap = s.snap := rfl
@[simp] theorem setAdp_jobc (s : State) (i : Nat) (x : AdpSlot) : (setAdp s i x).jobc = s.jobc := rfl
@[simp] theorem setAdp_job (s : State) (i : Nat) (x : AdpSlot) : (setAdp s i x).job = s.job := rfl
@[simp] theorem setAdp_saved (s : State) (i : Nat) (x : AdpSlot) : (setAdp s i x).saved = s.saved := rfl
@[simp] theorem setAdp_wins (s : State) (i : Nat) (x : AdpSlot) : (setAdp s i x).wins = s.wins := rfl
@[simp] theorem setAdp_tiers (s : State) (i : Nat) (x : AdpSlot) : (setAdp s i x).tiers = s.tiers := rfl
@[simp] theorem setAdp_recs (s : State) (i : Nat) (x : AdpSlot) : (setAdp s i x).recs = s.recs := rfl
@[simp] theorem setAdp_limits (s : State) (i : Nat) (x : AdpSlot) : (setAdp s i x).limits = s.limits := rfl
@[simp] theorem setAdp_counts (s : State) (i : Nat) (x : AdpSlot) : (setAdp s i x).counts = s.counts := rfl
@[simp] theorem setAdp_dies (s : State) (i : Nat) (x : AdpSlot) : (setAdp s i x).dies = s.dies := rfl
@[simp] theorem setAdp_remapLog (s : State) (i : Nat) (x : AdpSlot) : (setAdp s i x).remapLog = s.remapLog := rfl
@[simp] theorem setAdp_hours (s : State) (i : Nat) (x : AdpSlot) : (setAdp s i x).hours = s.hours := rfl
@[simp] theorem setAdp_ring (s : State) (i : Nat) (x : AdpSlot) : (setAdp s i x).ring = s.ring := rfl
@[simp] theorem setAdp_adm (s : State) (i : Nat) (x : AdpSlot) : (setAdp s i x).adm = s.adm := rfl

/-! ### setWset writes sep -/

@[simp] theorem setWset_pending (s : State) (i : Nat) (x : WSet) : (setWset s i x).pending = s.pending := rfl
@[simp] theorem setWset_free (s : State) (i : Nat) (x : WSet) : (setWset s i x).free = s.free := rfl
@[simp] theorem setWset_now (s : State) (i : Nat) (x : WSet) : (setWset s i x).now = s.now := rfl
@[simp] theorem setWset_cm (s : State) (i : Nat) (x : WSet) : (setWset s i x).cm = s.cm := rfl
@[simp] theorem setWset_boot (s : State) (i : Nat) (x : WSet) : (setWset s i x).boot = s.boot := rfl
@[simp] theorem setWset_fw (s : State) (i : Nat) (x : WSet) : (setWset s i x).fw = s.fw := rfl
@[simp] theorem setWset_mgmt (s : State) (i : Nat) (x : WSet) : (setWset s i x).mgmt = s.mgmt := rfl
@[simp] theorem setWset_panel (s : State) (i : Nat) (x : WSet) : (setWset s i x).panel = s.panel := rfl
@[simp] theorem setWset_ras (s : State) (i : Nat) (x : WSet) : (setWset s i x).ras = s.ras := rfl
@[simp] theorem setWset_power (s : State) (i : Nat) (x : WSet) : (setWset s i x).power = s.power := rfl
@[simp] theorem setWset_cap (s : State) (i : Nat) (x : WSet) : (setWset s i x).cap = s.cap := rfl
@[simp] theorem setWset_raler (s : State) (i : Nat) (x : WSet) : (setWset s i x).raler = s.raler := rfl
@[simp] theorem setWset_hosts (s : State) (i : Nat) (x : WSet) : (setWset s i x).hosts = s.hosts := rfl
@[simp] theorem setWset_own (s : State) (i : Nat) (x : WSet) : (setWset s i x).own = s.own := rfl
@[simp] theorem setWset_snap (s : State) (i : Nat) (x : WSet) : (setWset s i x).snap = s.snap := rfl
@[simp] theorem setWset_jobc (s : State) (i : Nat) (x : WSet) : (setWset s i x).jobc = s.jobc := rfl
@[simp] theorem setWset_job (s : State) (i : Nat) (x : WSet) : (setWset s i x).job = s.job := rfl
@[simp] theorem setWset_saved (s : State) (i : Nat) (x : WSet) : (setWset s i x).saved = s.saved := rfl
@[simp] theorem setWset_wins (s : State) (i : Nat) (x : WSet) : (setWset s i x).wins = s.wins := rfl
@[simp] theorem setWset_tiers (s : State) (i : Nat) (x : WSet) : (setWset s i x).tiers = s.tiers := rfl
@[simp] theorem setWset_recs (s : State) (i : Nat) (x : WSet) : (setWset s i x).recs = s.recs := rfl
@[simp] theorem setWset_limits (s : State) (i : Nat) (x : WSet) : (setWset s i x).limits = s.limits := rfl
@[simp] theorem setWset_counts (s : State) (i : Nat) (x : WSet) : (setWset s i x).counts = s.counts := rfl
@[simp] theorem setWset_dies (s : State) (i : Nat) (x : WSet) : (setWset s i x).dies = s.dies := rfl
@[simp] theorem setWset_remapLog (s : State) (i : Nat) (x : WSet) : (setWset s i x).remapLog = s.remapLog := rfl
@[simp] theorem setWset_hours (s : State) (i : Nat) (x : WSet) : (setWset s i x).hours = s.hours := rfl
@[simp] theorem setWset_ring (s : State) (i : Nat) (x : WSet) : (setWset s i x).ring = s.ring := rfl
@[simp] theorem setWset_adm (s : State) (i : Nat) (x : WSet) : (setWset s i x).adm = s.adm := rfl

/-! ### setAdm writes adm -/

@[simp] theorem setAdm_pending (s : State) (x : Adm) : (setAdm s x).pending = s.pending := rfl
@[simp] theorem setAdm_free (s : State) (x : Adm) : (setAdm s x).free = s.free := rfl
@[simp] theorem setAdm_now (s : State) (x : Adm) : (setAdm s x).now = s.now := rfl
@[simp] theorem setAdm_cm (s : State) (x : Adm) : (setAdm s x).cm = s.cm := rfl
@[simp] theorem setAdm_boot (s : State) (x : Adm) : (setAdm s x).boot = s.boot := rfl
@[simp] theorem setAdm_fw (s : State) (x : Adm) : (setAdm s x).fw = s.fw := rfl
@[simp] theorem setAdm_mgmt (s : State) (x : Adm) : (setAdm s x).mgmt = s.mgmt := rfl
@[simp] theorem setAdm_panel (s : State) (x : Adm) : (setAdm s x).panel = s.panel := rfl
@[simp] theorem setAdm_ras (s : State) (x : Adm) : (setAdm s x).ras = s.ras := rfl
@[simp] theorem setAdm_power (s : State) (x : Adm) : (setAdm s x).power = s.power := rfl
@[simp] theorem setAdm_cap (s : State) (x : Adm) : (setAdm s x).cap = s.cap := rfl
@[simp] theorem setAdm_raler (s : State) (x : Adm) : (setAdm s x).raler = s.raler := rfl
@[simp] theorem setAdm_hosts (s : State) (x : Adm) : (setAdm s x).hosts = s.hosts := rfl
@[simp] theorem setAdm_own (s : State) (x : Adm) : (setAdm s x).own = s.own := rfl
@[simp] theorem setAdm_snap (s : State) (x : Adm) : (setAdm s x).snap = s.snap := rfl
@[simp] theorem setAdm_jobc (s : State) (x : Adm) : (setAdm s x).jobc = s.jobc := rfl
@[simp] theorem setAdm_job (s : State) (x : Adm) : (setAdm s x).job = s.job := rfl
@[simp] theorem setAdm_saved (s : State) (x : Adm) : (setAdm s x).saved = s.saved := rfl
@[simp] theorem setAdm_wins (s : State) (x : Adm) : (setAdm s x).wins = s.wins := rfl
@[simp] theorem setAdm_tiers (s : State) (x : Adm) : (setAdm s x).tiers = s.tiers := rfl
@[simp] theorem setAdm_recs (s : State) (x : Adm) : (setAdm s x).recs = s.recs := rfl
@[simp] theorem setAdm_limits (s : State) (x : Adm) : (setAdm s x).limits = s.limits := rfl
@[simp] theorem setAdm_counts (s : State) (x : Adm) : (setAdm s x).counts = s.counts := rfl
@[simp] theorem setAdm_dies (s : State) (x : Adm) : (setAdm s x).dies = s.dies := rfl
@[simp] theorem setAdm_remapLog (s : State) (x : Adm) : (setAdm s x).remapLog = s.remapLog := rfl
@[simp] theorem setAdm_hours (s : State) (x : Adm) : (setAdm s x).hours = s.hours := rfl
@[simp] theorem setAdm_ring (s : State) (x : Adm) : (setAdm s x).ring = s.ring := rfl
@[simp] theorem setAdm_sep (s : State) (x : Adm) : (setAdm s x).sep = s.sep := rfl

/-! ### setSeq writes adm -/

@[simp] theorem setSeq_pending (s : State) (i : Nat) (x : SeqEnt) : (setSeq s i x).pending = s.pending := rfl
@[simp] theorem setSeq_free (s : State) (i : Nat) (x : SeqEnt) : (setSeq s i x).free = s.free := rfl
@[simp] theorem setSeq_now (s : State) (i : Nat) (x : SeqEnt) : (setSeq s i x).now = s.now := rfl
@[simp] theorem setSeq_cm (s : State) (i : Nat) (x : SeqEnt) : (setSeq s i x).cm = s.cm := rfl
@[simp] theorem setSeq_boot (s : State) (i : Nat) (x : SeqEnt) : (setSeq s i x).boot = s.boot := rfl
@[simp] theorem setSeq_fw (s : State) (i : Nat) (x : SeqEnt) : (setSeq s i x).fw = s.fw := rfl
@[simp] theorem setSeq_mgmt (s : State) (i : Nat) (x : SeqEnt) : (setSeq s i x).mgmt = s.mgmt := rfl
@[simp] theorem setSeq_panel (s : State) (i : Nat) (x : SeqEnt) : (setSeq s i x).panel = s.panel := rfl
@[simp] theorem setSeq_ras (s : State) (i : Nat) (x : SeqEnt) : (setSeq s i x).ras = s.ras := rfl
@[simp] theorem setSeq_power (s : State) (i : Nat) (x : SeqEnt) : (setSeq s i x).power = s.power := rfl
@[simp] theorem setSeq_cap (s : State) (i : Nat) (x : SeqEnt) : (setSeq s i x).cap = s.cap := rfl
@[simp] theorem setSeq_raler (s : State) (i : Nat) (x : SeqEnt) : (setSeq s i x).raler = s.raler := rfl
@[simp] theorem setSeq_hosts (s : State) (i : Nat) (x : SeqEnt) : (setSeq s i x).hosts = s.hosts := rfl
@[simp] theorem setSeq_own (s : State) (i : Nat) (x : SeqEnt) : (setSeq s i x).own = s.own := rfl
@[simp] theorem setSeq_snap (s : State) (i : Nat) (x : SeqEnt) : (setSeq s i x).snap = s.snap := rfl
@[simp] theorem setSeq_jobc (s : State) (i : Nat) (x : SeqEnt) : (setSeq s i x).jobc = s.jobc := rfl
@[simp] theorem setSeq_job (s : State) (i : Nat) (x : SeqEnt) : (setSeq s i x).job = s.job := rfl
@[simp] theorem setSeq_saved (s : State) (i : Nat) (x : SeqEnt) : (setSeq s i x).saved = s.saved := rfl
@[simp] theorem setSeq_wins (s : State) (i : Nat) (x : SeqEnt) : (setSeq s i x).wins = s.wins := rfl
@[simp] theorem setSeq_tiers (s : State) (i : Nat) (x : SeqEnt) : (setSeq s i x).tiers = s.tiers := rfl
@[simp] theorem setSeq_recs (s : State) (i : Nat) (x : SeqEnt) : (setSeq s i x).recs = s.recs := rfl
@[simp] theorem setSeq_limits (s : State) (i : Nat) (x : SeqEnt) : (setSeq s i x).limits = s.limits := rfl
@[simp] theorem setSeq_counts (s : State) (i : Nat) (x : SeqEnt) : (setSeq s i x).counts = s.counts := rfl
@[simp] theorem setSeq_dies (s : State) (i : Nat) (x : SeqEnt) : (setSeq s i x).dies = s.dies := rfl
@[simp] theorem setSeq_remapLog (s : State) (i : Nat) (x : SeqEnt) : (setSeq s i x).remapLog = s.remapLog := rfl
@[simp] theorem setSeq_hours (s : State) (i : Nat) (x : SeqEnt) : (setSeq s i x).hours = s.hours := rfl
@[simp] theorem setSeq_ring (s : State) (i : Nat) (x : SeqEnt) : (setSeq s i x).ring = s.ring := rfl
@[simp] theorem setSeq_sep (s : State) (i : Nat) (x : SeqEnt) : (setSeq s i x).sep = s.sep := rfl

/-! ### setSvc writes adm -/

@[simp] theorem setSvc_pending (s : State) (i : Nat) (x : Service) : (setSvc s i x).pending = s.pending := rfl
@[simp] theorem setSvc_free (s : State) (i : Nat) (x : Service) : (setSvc s i x).free = s.free := rfl
@[simp] theorem setSvc_now (s : State) (i : Nat) (x : Service) : (setSvc s i x).now = s.now := rfl
@[simp] theorem setSvc_cm (s : State) (i : Nat) (x : Service) : (setSvc s i x).cm = s.cm := rfl
@[simp] theorem setSvc_boot (s : State) (i : Nat) (x : Service) : (setSvc s i x).boot = s.boot := rfl
@[simp] theorem setSvc_fw (s : State) (i : Nat) (x : Service) : (setSvc s i x).fw = s.fw := rfl
@[simp] theorem setSvc_mgmt (s : State) (i : Nat) (x : Service) : (setSvc s i x).mgmt = s.mgmt := rfl
@[simp] theorem setSvc_panel (s : State) (i : Nat) (x : Service) : (setSvc s i x).panel = s.panel := rfl
@[simp] theorem setSvc_ras (s : State) (i : Nat) (x : Service) : (setSvc s i x).ras = s.ras := rfl
@[simp] theorem setSvc_power (s : State) (i : Nat) (x : Service) : (setSvc s i x).power = s.power := rfl
@[simp] theorem setSvc_cap (s : State) (i : Nat) (x : Service) : (setSvc s i x).cap = s.cap := rfl
@[simp] theorem setSvc_raler (s : State) (i : Nat) (x : Service) : (setSvc s i x).raler = s.raler := rfl
@[simp] theorem setSvc_hosts (s : State) (i : Nat) (x : Service) : (setSvc s i x).hosts = s.hosts := rfl
@[simp] theorem setSvc_own (s : State) (i : Nat) (x : Service) : (setSvc s i x).own = s.own := rfl
@[simp] theorem setSvc_snap (s : State) (i : Nat) (x : Service) : (setSvc s i x).snap = s.snap := rfl
@[simp] theorem setSvc_jobc (s : State) (i : Nat) (x : Service) : (setSvc s i x).jobc = s.jobc := rfl
@[simp] theorem setSvc_job (s : State) (i : Nat) (x : Service) : (setSvc s i x).job = s.job := rfl
@[simp] theorem setSvc_saved (s : State) (i : Nat) (x : Service) : (setSvc s i x).saved = s.saved := rfl
@[simp] theorem setSvc_wins (s : State) (i : Nat) (x : Service) : (setSvc s i x).wins = s.wins := rfl
@[simp] theorem setSvc_tiers (s : State) (i : Nat) (x : Service) : (setSvc s i x).tiers = s.tiers := rfl
@[simp] theorem setSvc_recs (s : State) (i : Nat) (x : Service) : (setSvc s i x).recs = s.recs := rfl
@[simp] theorem setSvc_limits (s : State) (i : Nat) (x : Service) : (setSvc s i x).limits = s.limits := rfl
@[simp] theorem setSvc_counts (s : State) (i : Nat) (x : Service) : (setSvc s i x).counts = s.counts := rfl
@[simp] theorem setSvc_dies (s : State) (i : Nat) (x : Service) : (setSvc s i x).dies = s.dies := rfl
@[simp] theorem setSvc_remapLog (s : State) (i : Nat) (x : Service) : (setSvc s i x).remapLog = s.remapLog := rfl
@[simp] theorem setSvc_hours (s : State) (i : Nat) (x : Service) : (setSvc s i x).hours = s.hours := rfl
@[simp] theorem setSvc_ring (s : State) (i : Nat) (x : Service) : (setSvc s i x).ring = s.ring := rfl
@[simp] theorem setSvc_sep (s : State) (i : Nat) (x : Service) : (setSvc s i x).sep = s.sep := rfl

/-! ### setRas writes ras -/

@[simp] theorem setRas_pending (s : State) (x : Ras) : (setRas s x).pending = s.pending := rfl
@[simp] theorem setRas_free (s : State) (x : Ras) : (setRas s x).free = s.free := rfl
@[simp] theorem setRas_now (s : State) (x : Ras) : (setRas s x).now = s.now := rfl
@[simp] theorem setRas_cm (s : State) (x : Ras) : (setRas s x).cm = s.cm := rfl
@[simp] theorem setRas_boot (s : State) (x : Ras) : (setRas s x).boot = s.boot := rfl
@[simp] theorem setRas_fw (s : State) (x : Ras) : (setRas s x).fw = s.fw := rfl
@[simp] theorem setRas_mgmt (s : State) (x : Ras) : (setRas s x).mgmt = s.mgmt := rfl
@[simp] theorem setRas_panel (s : State) (x : Ras) : (setRas s x).panel = s.panel := rfl
@[simp] theorem setRas_power (s : State) (x : Ras) : (setRas s x).power = s.power := rfl
@[simp] theorem setRas_cap (s : State) (x : Ras) : (setRas s x).cap = s.cap := rfl
@[simp] theorem setRas_raler (s : State) (x : Ras) : (setRas s x).raler = s.raler := rfl
@[simp] theorem setRas_hosts (s : State) (x : Ras) : (setRas s x).hosts = s.hosts := rfl
@[simp] theorem setRas_own (s : State) (x : Ras) : (setRas s x).own = s.own := rfl
@[simp] theorem setRas_snap (s : State) (x : Ras) : (setRas s x).snap = s.snap := rfl
@[simp] theorem setRas_jobc (s : State) (x : Ras) : (setRas s x).jobc = s.jobc := rfl
@[simp] theorem setRas_job (s : State) (x : Ras) : (setRas s x).job = s.job := rfl
@[simp] theorem setRas_saved (s : State) (x : Ras) : (setRas s x).saved = s.saved := rfl
@[simp] theorem setRas_wins (s : State) (x : Ras) : (setRas s x).wins = s.wins := rfl
@[simp] theorem setRas_tiers (s : State) (x : Ras) : (setRas s x).tiers = s.tiers := rfl
@[simp] theorem setRas_recs (s : State) (x : Ras) : (setRas s x).recs = s.recs := rfl
@[simp] theorem setRas_limits (s : State) (x : Ras) : (setRas s x).limits = s.limits := rfl
@[simp] theorem setRas_counts (s : State) (x : Ras) : (setRas s x).counts = s.counts := rfl
@[simp] theorem setRas_dies (s : State) (x : Ras) : (setRas s x).dies = s.dies := rfl
@[simp] theorem setRas_remapLog (s : State) (x : Ras) : (setRas s x).remapLog = s.remapLog := rfl
@[simp] theorem setRas_hours (s : State) (x : Ras) : (setRas s x).hours = s.hours := rfl
@[simp] theorem setRas_ring (s : State) (x : Ras) : (setRas s x).ring = s.ring := rfl
@[simp] theorem setRas_sep (s : State) (x : Ras) : (setRas s x).sep = s.sep := rfl
@[simp] theorem setRas_adm (s : State) (x : Ras) : (setRas s x).adm = s.adm := rfl

/-! ### setChan writes ras -/

@[simp] theorem setChan_pending (s : State) (i : Nat) (x : VatCh) : (setChan s i x).pending = s.pending := rfl
@[simp] theorem setChan_free (s : State) (i : Nat) (x : VatCh) : (setChan s i x).free = s.free := rfl
@[simp] theorem setChan_now (s : State) (i : Nat) (x : VatCh) : (setChan s i x).now = s.now := rfl
@[simp] theorem setChan_cm (s : State) (i : Nat) (x : VatCh) : (setChan s i x).cm = s.cm := rfl
@[simp] theorem setChan_boot (s : State) (i : Nat) (x : VatCh) : (setChan s i x).boot = s.boot := rfl
@[simp] theorem setChan_fw (s : State) (i : Nat) (x : VatCh) : (setChan s i x).fw = s.fw := rfl
@[simp] theorem setChan_mgmt (s : State) (i : Nat) (x : VatCh) : (setChan s i x).mgmt = s.mgmt := rfl
@[simp] theorem setChan_panel (s : State) (i : Nat) (x : VatCh) : (setChan s i x).panel = s.panel := rfl
@[simp] theorem setChan_power (s : State) (i : Nat) (x : VatCh) : (setChan s i x).power = s.power := rfl
@[simp] theorem setChan_cap (s : State) (i : Nat) (x : VatCh) : (setChan s i x).cap = s.cap := rfl
@[simp] theorem setChan_raler (s : State) (i : Nat) (x : VatCh) : (setChan s i x).raler = s.raler := rfl
@[simp] theorem setChan_hosts (s : State) (i : Nat) (x : VatCh) : (setChan s i x).hosts = s.hosts := rfl
@[simp] theorem setChan_own (s : State) (i : Nat) (x : VatCh) : (setChan s i x).own = s.own := rfl
@[simp] theorem setChan_snap (s : State) (i : Nat) (x : VatCh) : (setChan s i x).snap = s.snap := rfl
@[simp] theorem setChan_jobc (s : State) (i : Nat) (x : VatCh) : (setChan s i x).jobc = s.jobc := rfl
@[simp] theorem setChan_job (s : State) (i : Nat) (x : VatCh) : (setChan s i x).job = s.job := rfl
@[simp] theorem setChan_saved (s : State) (i : Nat) (x : VatCh) : (setChan s i x).saved = s.saved := rfl
@[simp] theorem setChan_wins (s : State) (i : Nat) (x : VatCh) : (setChan s i x).wins = s.wins := rfl
@[simp] theorem setChan_tiers (s : State) (i : Nat) (x : VatCh) : (setChan s i x).tiers = s.tiers := rfl
@[simp] theorem setChan_recs (s : State) (i : Nat) (x : VatCh) : (setChan s i x).recs = s.recs := rfl
@[simp] theorem setChan_limits (s : State) (i : Nat) (x : VatCh) : (setChan s i x).limits = s.limits := rfl
@[simp] theorem setChan_counts (s : State) (i : Nat) (x : VatCh) : (setChan s i x).counts = s.counts := rfl
@[simp] theorem setChan_dies (s : State) (i : Nat) (x : VatCh) : (setChan s i x).dies = s.dies := rfl
@[simp] theorem setChan_remapLog (s : State) (i : Nat) (x : VatCh) : (setChan s i x).remapLog = s.remapLog := rfl
@[simp] theorem setChan_hours (s : State) (i : Nat) (x : VatCh) : (setChan s i x).hours = s.hours := rfl
@[simp] theorem setChan_ring (s : State) (i : Nat) (x : VatCh) : (setChan s i x).ring = s.ring := rfl
@[simp] theorem setChan_sep (s : State) (i : Nat) (x : VatCh) : (setChan s i x).sep = s.sep := rfl
@[simp] theorem setChan_adm (s : State) (i : Nat) (x : VatCh) : (setChan s i x).adm = s.adm := rfl

/-! ### setLimits writes limits -/

@[simp] theorem setLimits_pending (s : State) (x : Limits) : (setLimits s x).pending = s.pending := rfl
@[simp] theorem setLimits_free (s : State) (x : Limits) : (setLimits s x).free = s.free := rfl
@[simp] theorem setLimits_now (s : State) (x : Limits) : (setLimits s x).now = s.now := rfl
@[simp] theorem setLimits_cm (s : State) (x : Limits) : (setLimits s x).cm = s.cm := rfl
@[simp] theorem setLimits_boot (s : State) (x : Limits) : (setLimits s x).boot = s.boot := rfl
@[simp] theorem setLimits_fw (s : State) (x : Limits) : (setLimits s x).fw = s.fw := rfl
@[simp] theorem setLimits_mgmt (s : State) (x : Limits) : (setLimits s x).mgmt = s.mgmt := rfl
@[simp] theorem setLimits_panel (s : State) (x : Limits) : (setLimits s x).panel = s.panel := rfl
@[simp] theorem setLimits_ras (s : State) (x : Limits) : (setLimits s x).ras = s.ras := rfl
@[simp] theorem setLimits_power (s : State) (x : Limits) : (setLimits s x).power = s.power := rfl
@[simp] theorem setLimits_cap (s : State) (x : Limits) : (setLimits s x).cap = s.cap := rfl
@[simp] theorem setLimits_raler (s : State) (x : Limits) : (setLimits s x).raler = s.raler := rfl
@[simp] theorem setLimits_hosts (s : State) (x : Limits) : (setLimits s x).hosts = s.hosts := rfl
@[simp] theorem setLimits_own (s : State) (x : Limits) : (setLimits s x).own = s.own := rfl
@[simp] theorem setLimits_snap (s : State) (x : Limits) : (setLimits s x).snap = s.snap := rfl
@[simp] theorem setLimits_jobc (s : State) (x : Limits) : (setLimits s x).jobc = s.jobc := rfl
@[simp] theorem setLimits_job (s : State) (x : Limits) : (setLimits s x).job = s.job := rfl
@[simp] theorem setLimits_saved (s : State) (x : Limits) : (setLimits s x).saved = s.saved := rfl
@[simp] theorem setLimits_wins (s : State) (x : Limits) : (setLimits s x).wins = s.wins := rfl
@[simp] theorem setLimits_tiers (s : State) (x : Limits) : (setLimits s x).tiers = s.tiers := rfl
@[simp] theorem setLimits_recs (s : State) (x : Limits) : (setLimits s x).recs = s.recs := rfl
@[simp] theorem setLimits_counts (s : State) (x : Limits) : (setLimits s x).counts = s.counts := rfl
@[simp] theorem setLimits_dies (s : State) (x : Limits) : (setLimits s x).dies = s.dies := rfl
@[simp] theorem setLimits_remapLog (s : State) (x : Limits) : (setLimits s x).remapLog = s.remapLog := rfl
@[simp] theorem setLimits_hours (s : State) (x : Limits) : (setLimits s x).hours = s.hours := rfl
@[simp] theorem setLimits_ring (s : State) (x : Limits) : (setLimits s x).ring = s.ring := rfl
@[simp] theorem setLimits_sep (s : State) (x : Limits) : (setLimits s x).sep = s.sep := rfl
@[simp] theorem setLimits_adm (s : State) (x : Limits) : (setLimits s x).adm = s.adm := rfl

/-! ### setRecs writes recs -/

@[simp] theorem setRecs_pending (s : State) (x : Records) : (setRecs s x).pending = s.pending := rfl
@[simp] theorem setRecs_free (s : State) (x : Records) : (setRecs s x).free = s.free := rfl
@[simp] theorem setRecs_now (s : State) (x : Records) : (setRecs s x).now = s.now := rfl
@[simp] theorem setRecs_cm (s : State) (x : Records) : (setRecs s x).cm = s.cm := rfl
@[simp] theorem setRecs_boot (s : State) (x : Records) : (setRecs s x).boot = s.boot := rfl
@[simp] theorem setRecs_fw (s : State) (x : Records) : (setRecs s x).fw = s.fw := rfl
@[simp] theorem setRecs_mgmt (s : State) (x : Records) : (setRecs s x).mgmt = s.mgmt := rfl
@[simp] theorem setRecs_panel (s : State) (x : Records) : (setRecs s x).panel = s.panel := rfl
@[simp] theorem setRecs_ras (s : State) (x : Records) : (setRecs s x).ras = s.ras := rfl
@[simp] theorem setRecs_power (s : State) (x : Records) : (setRecs s x).power = s.power := rfl
@[simp] theorem setRecs_cap (s : State) (x : Records) : (setRecs s x).cap = s.cap := rfl
@[simp] theorem setRecs_raler (s : State) (x : Records) : (setRecs s x).raler = s.raler := rfl
@[simp] theorem setRecs_hosts (s : State) (x : Records) : (setRecs s x).hosts = s.hosts := rfl
@[simp] theorem setRecs_own (s : State) (x : Records) : (setRecs s x).own = s.own := rfl
@[simp] theorem setRecs_snap (s : State) (x : Records) : (setRecs s x).snap = s.snap := rfl
@[simp] theorem setRecs_jobc (s : State) (x : Records) : (setRecs s x).jobc = s.jobc := rfl
@[simp] theorem setRecs_job (s : State) (x : Records) : (setRecs s x).job = s.job := rfl
@[simp] theorem setRecs_saved (s : State) (x : Records) : (setRecs s x).saved = s.saved := rfl
@[simp] theorem setRecs_wins (s : State) (x : Records) : (setRecs s x).wins = s.wins := rfl
@[simp] theorem setRecs_tiers (s : State) (x : Records) : (setRecs s x).tiers = s.tiers := rfl
@[simp] theorem setRecs_limits (s : State) (x : Records) : (setRecs s x).limits = s.limits := rfl
@[simp] theorem setRecs_counts (s : State) (x : Records) : (setRecs s x).counts = s.counts := rfl
@[simp] theorem setRecs_dies (s : State) (x : Records) : (setRecs s x).dies = s.dies := rfl
@[simp] theorem setRecs_remapLog (s : State) (x : Records) : (setRecs s x).remapLog = s.remapLog := rfl
@[simp] theorem setRecs_hours (s : State) (x : Records) : (setRecs s x).hours = s.hours := rfl
@[simp] theorem setRecs_ring (s : State) (x : Records) : (setRecs s x).ring = s.ring := rfl
@[simp] theorem setRecs_sep (s : State) (x : Records) : (setRecs s x).sep = s.sep := rfl
@[simp] theorem setRecs_adm (s : State) (x : Records) : (setRecs s x).adm = s.adm := rfl

/-! ### Reading what was written -/

theorem getWin_setWin {s : State} {w : Nat} {x : Window} (h : w < s.wins.length) : getWin (setWin s w x) w = x := by
  simp [getWin, setWin, nth, h]

theorem getHost_setHost {s : State} {n : Nat} {x : HostSlot} (h : n < s.hosts.length) : getHost (setHost s n x) n = x := by
  simp [getHost, setHost, nth, h]

theorem getHost_setHost_ne {s : State} {n m : Nat} {x : HostSlot} (h : n ≠ m) : getHost (setHost s n x) m = getHost s m := by
  simp [getHost, setHost, nth, h]

theorem getWin_setWin_ne {s : State} {w v : Nat} {x : Window} (h : w ≠ v) : getWin (setWin s w x) v = getWin s v := by
  simp [getWin, setWin, nth, h]

end Sys2Proof.Machine
end

