-- ==== Sys2Proof/Machine/Frames.lean ====
section
/-! DEFINITION. The bits of a Miled frame (R287, R288, R301): what a port puts on its lanes for a frame, and the command that the bits
a port receives spell. A command of the block carries a frame's fields; these definitions say which bits those are, and
`flitsReceive` of Machine/Flits.lean which command received bits are. -/

namespace Sys2Proof.Machine

/-! ### Table 13.2: TYPE and the SPEC fields -/

/-- TYPE of a CRED or DATA frame. -/
def bodyType : Body → Nat
  | .wreq .. => 1
  | .wgrant .. => 2
  | .write .. => 3
  | .add .. => 3
  | .row .. => 3
  | .answer .. => 3
  | .wnak .. => 4
  | .wreturn .. => 5
  | .close .. => 6
  | .marker .. => 7
  | .msg _ => 8
  | .msgnak _ => 9
  | .lost .. => 10

/-- WINDOW and GEN, SPEC bits 5:0 and 13:6. -/
def winSpec (w : Win) (g : Byte) : Nat := w + fld 6 g.toNat

/-- The tag of a KIND 1 WRITE, SPEC bits 92:38 (R301). -/
def tagSpec (t : RowTag) : Nat :=
  fld 38 t.home.toNat + fld 46 t.dispatch + fld 50 t.epoch.toNat + fld 66 t.awin + fld 72 t.agen.toNat + fld 80 t.aslot.toNat

/-- SPEC of a CRED or DATA frame. -/
def bodySpec : Body → Nat
  | .wreq w g n e => winSpec w g + fld 14 n.toNat + (e.elim 0 fun e => fld 22 e.toNat + flg 38 true)
  | .wgrant w g n c => winSpec w g + fld 14 n.toNat + fld 22 c.toNat
  | .write w g o _ => winSpec w g + fld 14 o.toNat
  | .add w g o _ => winSpec w g + fld 14 o.toNat + flg 37 true
  | .row w g o t _ => winSpec w g + fld 14 o.toNat + fld 35 1 + tagSpec t
  | .answer w g o e a _ => winSpec w g + fld 14 o.toNat + fld 35 2 + fld 50 e.toNat + fld 80 a.toNat
  | .wnak w g o c => winSpec w g + fld 14 o.toNat + fld 35 c.toNat
  | .wreturn w g n => winSpec w g + fld 14 n.toNat
  | .close w g => winSpec w g
  | .marker w g q m e n p => winSpec w g + fld 14 q.toNat + fld 24 m.toNat + fld 32 e.toNat + fld 48 n.toNat + flg 60 p
  | .msg _ => 0
  | .msgnak c => c.toNat
  | .lost c m => c.toNat + fld 16 m.toNat

/-- TYPE and SPEC of a LINK frame. -/
def linkSpec : Wire → Nat × Nat
  | .frame _ _ => (0, 0)
  | .ack a r k p dl n => (16, a.toNat + fld 16 r.toNat + flg 32 k + fld 33 p.toNat + flg 41 dl + fld 42 n)
  | .ident serial port plan _ => (17, serial.toNat + fld 64 port + fld 67 plan.toNat)
  | .heartbeat st leaving => (18, st + flg 3 leaving)
  | .leaving done => (19, flg 0 done)
  | .brk axis pos up => (20, axis + fld 2 pos + flg 6 up)
  | .swap lane width => (21, lane + fld 4 width)

/-! ### Table 13.1: the header -/

/-- A header with CRC zero. -/
def header (type cls lseq src dst part len spec : Nat) (dl : Bool) : Nat :=
  type + fld 5 cls + flg 7 dl + fld 8 lseq + fld 24 src + fld 40 dst + fld 56 part + fld 64 len + fld 80 spec

/-- The payload of a frame. -/
def bodyPayload : Body → List Byte
  | .write _ _ _ d => d
  | .add _ _ _ d => d
  | .row _ _ _ _ d => d
  | .answer _ _ _ _ _ d => d
  | .msg d => d
  | _ => []

/-- The header of what a port sends from module `src` to its neighbour `dst`; a CRED or DATA frame names its own ends. -/
def wireHeader (src dst : BitVec 16) : Wire → Nat
  | .frame lseq f =>
    header (bodyType f.body) (if bodyData f.body then 2 else 1) lseq.toNat f.src.toNat f.dst.toNat f.part.toNat (bodyLen f.body)
      (bodySpec f.body) f.dl
  | w => header (linkSpec w).1 0 0 src.toNat dst.toNat 0 0 (linkSpec w).2 false

/-- The flits of a header and a payload: the payload padded with zeros, and the CRC-32C of both in bits 255:224. -/
def frameBytes (h : Nat) (payload : List Byte) : List Byte :=
  let body := payload ++ List.replicate ((32 - payload.length % 32) % 32) 0
  splice (leBytes 32 h ++ body) 28 (leBytes 4 (crc32c (leBytes 32 h ++ body)))

def wireBytes (src dst : BitVec 16) (w : Wire) : List Byte :=
  frameBytes (wireHeader src dst w) (match w with
    | .frame _ f => bodyPayload f.body
    | _ => [])

/-! ### The reading of received flits -/

/-- The window and GEN that a SPEC names, and a field of it. -/
def specWin (v : Nat) : Win := ⟨bits v 0 6, Nat.mod_lt _ (by decide)⟩
def specByte (v lo : Nat) : Byte := BitVec.ofNat 8 (bits v lo 8)
def specHalf (v lo : Nat) : BitVec 16 := BitVec.ofNat 16 (bits v lo 16)

/-- The tag in a SPEC. -/
def specTag (v : Nat) : RowTag :=
  ⟨specByte v 38, ⟨bits v 46 4, Nat.mod_lt _ (by decide)⟩, specHalf v 50, ⟨bits v 66 6, Nat.mod_lt _ (by decide)⟩, specByte v 72,
    BitVec.ofNat 13 (bits v 80 13)⟩

/-- The body that TYPE, SPEC and a payload spell; none for a reserved TYPE and for a LEN above its limit. -/
def bodyOf (type v : Nat) (d : List Byte) : Option Body :=
  let w := specWin v
  let g := specByte v 6
  let off := BitVec.ofNat 21 (bits v 14 21)
  let long := decide (1 ≤ d.length) && decide (d.length ≤ 512)
  if type = 3 then
    (if !long then none
     else match bits v 35 3 with
      | 0 => some (.write w g off d)
      | 1 => some (.row w g off (specTag v) d)
      | 2 => some (.answer w g off (specHalf v 50) (BitVec.ofNat 13 (bits v 80 13)) d)
      | 4 => some (.add w g off d)
      | _ => none)
  else if type = 8 then (if d.length ≤ 256 then some (.msg d) else none)
  else if !d.isEmpty then none
  else match type with
    | 1 => some (.wreq w g (specByte v 14) (if bit v 38 then some (specHalf v 22) else none))
    | 2 => some (.wgrant w g (specByte v 14) (specHalf v 22))
    | 4 => some (.wnak w g off (specHalf v 35))
    | 5 => some (.wreturn w g (specByte v 14))
    | 6 => some (.close w g)
    | 7 => some (.marker w g (BitVec.ofNat 10 (bits v 14 10)) (specByte v 24) (specHalf v 32) (BitVec.ofNat 12 (bits v 48 12)) (bit v 60))
    | 9 => some (.msgnak (specHalf v 0))
    | 10 => some (.lost (specHalf v 0) (specHalf v 16))
    | _ => none

/-- The LINK frame that TYPE, SPEC and SRC spell. -/
def linkOf (type v : Nat) (src : BitVec 16) : Option Wire :=
  match type with
  | 16 => some (.ack (specHalf v 0) (specHalf v 16) (bit v 32) (specByte v 33) (bit v 41) (bits v 42 16))
  | 17 => some (.ident (BitVec.ofNat 64 (bits v 0 64)) (bits v 64 3) (BitVec.ofNat 32 (bits v 67 32)) src)
  | 18 => some (.heartbeat (bits v 0 3) (bit v 3))
  | 19 => some (.leaving (bit v 0))
  | 20 => some (.brk (bits v 0 2) (bits v 2 4) (bit v 6))
  | 21 => some (.swap (bits v 0 4) (bits v 4 4))
  | _ => none

/-- R287: the CRC of received flits agrees. -/
def crcGood (bs : List Byte) : Bool := leAt bs 28 4 == crc32c (splice bs 28 (leBytes 4 0))

/-- R287: what received flits say. A reserved TYPE, CLASS or bit, or a LEN above its limit, says nothing: the header that the reading
would be sent with is not the header received. -/
def wireOf (bs : List Byte) : Option Wire :=
  let h := leAt bs 0 28
  let v := bits h 80 128
  let len := bits h 64 10
  let src := specHalf h 24
  let w := if bits h 5 2 = 0 then linkOf (bits h 0 5) v src
    else (bodyOf (bits h 0 5) v ((bs.drop 32).take len)).map fun b =>
      .frame (specHalf h 8) ⟨src, specHalf h 40, specByte h 56, bit h 7, b⟩
  if bs.length = 32 + (len + 31) / 32 * 32 then w.filter fun w => wireHeader src (specHalf h 40) w == h else none

/-- The command that a frame for this module is. -/
def bodyCommand (rx : Rx) : Body → Instr
  | .wreq w g n e => .wreq rx w g n e
  | .wgrant w g n c => .wgrant rx w g n c
  | .write w g o d => .write rx w g o d
  | .add w g o d => .reduceFrame rx w g o d
  | .row w g o t d => .ladleRow rx w g o t d
  | .answer w g o e a d => .ladleAnswer rx w g o e a d
  | .wnak w g o c => .wnak rx w g o c
  | .wreturn w g n => .wreturn rx w g n
  | .close w g => .close rx w g
  | .marker w g q m e n p => .marker rx w g q m e n p
  | .msg d => .msg rx d
  | .msgnak c => .msgnak rx c
  | .lost c m => .lost rx c m

end Sys2Proof.Machine
end

