-- ==== Sys2Proof/Machine/Flits.lean ====
section
/-! DEFINITION. What the flits that a port receives do (R287, R288): the effect of the command whose frame they spell. -/

namespace Sys2Proof.Machine

/-- The effect of a frame received on a port; a lane above L12 is no lane, and the frame is malformed. -/
def wireReceive (s : State) (p : Port) : Wire → Host.Outcome State Fault Refusal
  | .frame lseq f =>
    if f.dst.toNat = myIndex s then exec (bodyCommand ⟨.port p lseq, f.src, f.part, f.dl⟩ f.body) s else execTransitFrame p lseq f s
  | .ack a r k part dl n => execAck p a r k part dl (BitVec.ofNat 16 n) s
  | .ident serial port plan src => execIdent p serial ⟨port % 8, Nat.mod_lt _ (by decide)⟩ plan src s
  | .heartbeat st leaving => execHeartbeatReceive p (BitVec.ofNat 3 st) ⟨leaving, {}⟩ s
  | .leaving done => execLeaving p done s
  | .brk axis pos up => execBreak p ⟨axis % 4, Nat.mod_lt _ (by decide)⟩ (BitVec.ofNat 4 pos) up s
  | .swap lane width => if h : lane < 13 then execSwap p ⟨lane, h⟩ (BitVec.ofNat 4 width) s else execCrcFailure p true s

/-- R287: the effect of received flits: CRC_FAILURE where the CRC fails, and where the header spells no frame. -/
def flitsReceive (s : State) (p : Port) (bs : List Byte) : Host.Outcome State Fault Refusal :=
  if crcGood bs then (wireOf bs).elim (execCrcFailure p true s) (wireReceive s p) else execCrcFailure p false s

end Sys2Proof.Machine
end

