-- ==== Sys2Proof/WellFormed.lean ====
section
/-! DEFINITION. Which commands can be given: what the types of their operands do not say already. -/

namespace Sys2Proof

/-- R3, R346: the widths of one access to a register window, in bytes, and the value fits it. -/
def wfAccess (width value : Nat) : Bool := [1, 2, 4, 8].contains width && decide (value < 2 ^ (8 * width))

/-- R324: an immediate without an extension word is the sign extension of 15 bits. -/
def wfImm (x : Bool) (imm : BitVec 47) : Bool := x || (imm.setWidth 15).signExtend 47 == imm

/-- Table 13.2: the payload of a WRITE is 1 to 512 bytes. -/
def wfPayload (data : List Byte) : Bool := decide (1 ≤ data.length) && decide (data.length ≤ 512)

/-- Table 13.2: the payload of a MSG is at most 256 bytes. -/
def wfMsg (data : List Byte) : Bool := decide (data.length ≤ 256)

/-- Table 13.2: the fields of a CRED or DATA frame. -/
def Body.wf : Body → Bool
  | .wreq _ _ n _ => n != 0
  | .write _ _ _ d => wfPayload d
  | .add _ _ _ d => wfPayload d
  | .row _ _ _ _ d => wfPayload d
  | .answer _ _ _ _ _ d => wfPayload d
  | .msg d => wfMsg d
  | .wgrant _ _ _ _ => true
  | .wnak _ _ _ _ => true
  | .wreturn _ _ _ => true
  | .close _ _ => true
  | .marker _ _ _ _ _ _ _ => true
  | .msgnak _ => true
  | .lost _ _ => true

/-- R287: the header of a CRED or DATA frame: PARTITION is 1 to 255. -/
def Frame.wf (f : Frame) : Bool := f.part != 0 && f.body.wf

/-- R287: the header of a received frame. -/
def Rx.wf (r : Rx) : Bool := r.part != 0

/-- R366: a reading predicts the draw at each of the 21 frequencies. -/
def PowerReading.wf (r : PowerReading) : Bool := r.predicted.length == 21

/-- The memory units of a module have 276480 HBM frames (R157). -/
def wfFrame (frame : Nat) : Bool := decide (frame < 276480)

/-- R15: an access of `width` bytes lies in BAR0, 64 MiB, or in BAR2, 16 KiB. -/
def wfBar (bar2 : Bool) (off width : Nat) : Bool := decide (off + width ≤ if bar2 then 0x4000 else 0x4000000)

/-- The commands that can be given. -/
def Instr.wf : Instr → Bool
  | .hostRegisterWrite _ bar2 off width value => wfBar bar2 off width && wfAccess width value
  | .hostRegisterReadBadWidth _ bar2 off width => wfBar bar2 off width && decide (1 ≤ width)
  | .linkEntryReceive .. | .beatBegin .. | .beatEnd .. | .beatOverrun .. | .gridHang .. | .matrixTileComplete .. => true
  | .tileDrain .. | .bPanelLoad .. | .vectorRowEnter .. | .tileEndCommit .. | .muGeneratorAccess .. | .flipRequest .. => true
  | .flipTakeEffect .. | .windowCloseComplete .. | .closeTimeout .. | .bankZeroDone .. | .bankWake .. | .muPeek .. => true
  | .steerFire .. | .registrationComplete .. | .shadowLoadComplete | .switchTokenInject | .switchTokenArrive .. | .cellCommit .. => true
  | .waveComplete | .swapStalled | .pageMoveComplete .. | .frameZeroDone .. | .streamTransferStart .. | .streamTransferComplete .. => true
  | .streamHaltedAbsent .. | .tierUncorrectable .. | .prefetchLate .. | .sepCommandStart .. | .sepCommandComplete .. | .sepPack .. => true
  | .sepLoad .. | .sepSpill .. | .sepRestore .. | .sepDelete .. | .sepPublish .. | .sepDrop .. => true
  | .storeScrub .. | .svcOpen .. | .svcClose .. | .roundEnd .. | .promiseBroken .. | .requestCompletion .. => true
  | .blockCopyComplete .. | .slotMapRearm .. | .release .. | .dropPrefix .. | .csKvareaWrite .. | .csPoolWrite .. => true
  | .ladleRowSend .. => true
  | .ladleRow rx _ _ _ _ d => rx.wf && wfPayload d
  | .ladleAnswerSend .. => true
  | .ladleAnswer rx _ _ _ _ _ d => rx.wf && wfPayload d
  | .ladleStalled .. | .portTrained .. | .frameTransmit .. | .crcFailure .. => true
  | .transitFrame _ _ f => f.wf
  | .wreq rx _ _ n _ => rx.wf && n != 0
  | .wgrant rx _ _ _ _ => rx.wf
  | .write rx _ _ _ d => rx.wf && wfPayload d
  | .reduceFrame rx _ _ _ d => rx.wf && wfPayload d
  | .wnak rx _ _ _ _ => rx.wf
  | .wreturn rx _ _ _ => rx.wf
  | .close rx _ _ => rx.wf
  | .marker rx _ _ _ _ _ _ _ => rx.wf
  | .msg rx d => rx.wf && wfMsg d
  | .msgnak rx _ => rx.wf
  | .lost rx _ _ => rx.wf
  | .ack .. | .ackSend .. | .ident .. | .identSend .. | .heartbeat .. | .linkDown .. => true
  | .break .. | .routeRestore .. | .laneRetire .. | .swap .. | .leaving .. | .leavingDoneSend => true
  | .ringSenderUnitSend .. | .planLoad .. | .berTestStart .. => true
  | .berTestEnd _ errors => errors.length == 13
  | .programQueueTailWrite .. | .programStart .. | .illegalInstruction .. | .add .. | .sub .. | .and .. => true
  | .or .. | .xor .. | .sll .. | .srl .. | .sra .. | .mul .. => true
  | .mulhu .. | .divu .. | .remu .. | .slt .. | .sltu .. => true
  | .addi _ _ _ x i | .andi _ _ _ x i | .ori _ _ _ x i | .xori _ _ _ x i | .slti _ _ _ x i | .sltiu _ _ _ x i => wfImm x i
  | .slli .. | .srli .. | .srai .. => true
  | .li _ _ x i => wfImm x i
  | .lih .. => true
  | .beq _ _ _ x i | .bne _ _ _ x i | .blt _ _ _ x i | .bge _ _ _ x i | .bltu _ _ _ x i | .bgeu _ _ _ x i => wfImm x i
  | .jal _ _ x i | .jalr _ _ _ x i | .ld _ _ _ x i | .lw _ _ _ x i | .lbu _ _ _ x i | .sd _ _ _ x i => wfImm x i
  | .sw _ _ _ x i | .sb _ _ _ x i => wfImm x i
  | .aadd .. | .cas .. => true
  | .rdreg _ _ _ x i | .wrreg _ _ _ x i => wfImm x i
  | .wait .. | .waitTimeout .. | .evpop .. | .signal .. | .settimer .. | .timerExpire .. => true
  | .rdtime .. | .halt .. | .fence .. | .creg .. | .cload .. | .cswap .. => true
  | .crel .. | .arm .. | .rearm .. | .resume .. | .flip .. | .wopen .. => true
  | .wclose .. | .wbind .. | .sbind .. | .mapPages .. | .unmap .. | .promote .. => true
  | .demote .. | .sbase .. | .admitRequest .. | .round .. | .cancel .. | .msend .. => true
  | .mrecv .. | .save .. | .restore .. | .saveComplete .. | .restoreComplete | .processorReplaced .. => true
  | .slotLinkUp _ width rate => [8, 16].contains width && decide (1 ≤ rate) && decide (rate ≤ 6)
  | .slotLinkDown .. | .ownClaim .. | .ownHeartbeat .. | .ownRelease .. | .ownHandover .. | .leaseExpire => true
  | .handoverLapse | .snapshotPublish | .rqTailWrite .. => true
  | .requestRingWrite _ _ offset data => decide (offset < 0x800) && decide (1 ≤ data.length) && decide (data.length ≤ 64)
  | .crHeadWrite .. => true
  | .bar4Read _ offset len => decide (1 ≤ len) && decide (offset + len ≤ 2 ^ 36)
  | .bar4Write _ offset data => decide (1 ≤ data.length) && decide (offset + data.length ≤ 2 ^ 36)
  | .controlMemoryApertureAccess _ _ offset width value => decide (offset < 0x80000) && wfAccess width value
  | .jobStart .. | .jobRunning | .jobEnd .. | .jobEndComplete | .jobFault .. | .refclkLost => true
  | .refclkRelock | .refclkLinkLost | .refclkHostLost .. | .pwrCapWrite .. | .capTimeout => true
  | .capLoopEvaluation r => r.wf
  | .fastCapStep r => r.wf
  | .fastcapRelease | .droop .. | .droopRecover | .thermalWarn .. | .thermalTrip .. | .thermalRecover => true
  | .thermalShutdown .. | .coolantOutOfRating .. | .inputLow .. | .inputHigh .. | .brownOut | .coldPowerUp .. => true
  | .modEnDeassert | .perst .. | .ready => true
  | .bringupFailed cause => cause != 0
  | .vatZeroComplete | .warmReset .. | .fwBegin .. | .fwData .. | .fwCommit .. | .fwAbort => true
  | .mgmtRegisterWrite offset _ _ => decide (offset < 65536)
  | .checkpoint | .unitFault .. => true
  | .frameRetired f => wfFrame f
  | .frameRetireComplete f _ => wfFrame f
  | .vatChannelReplace .. | .vatChannelReplaced .. | .vatChannelLost .. | .stackFailed .. | .regPhaseLost .. | .laneRestore .. => true
  | .laneRestoreEnd .. | .spareTest .. | .inject .. | .replace .. | .cellarUncorrectable .. | .ageingUpdate .. => true
  | .warnedRemoval .. | .attnShort | .attnLong | .latchReturn | .locate .. | .inputLoss => true
  | .creditReturn .. | .laneSwapped .. | .heartbeatReceive .. | .wreqRetry .. | .mapComplete .. | .spareTestComplete .. => true
  | .coolantInRating .. | .inputRestored .. | .refclkLinkRelock | .refclkHostRelock .. | .latchClosed .. | .setdasa .. => true

end Sys2Proof
end

