-- ==== Sys2Proof/Tests/Slice0.lean ====
section
/-! SUPPORT. Tests: for every statement with hypotheses, states and operands that meet those of each of its clauses; ill-formed commands that
well-formedness refuses; and small results worked out by hand from the spec. -/

open Sys2Proof Sys2Proof.Machine

namespace Sys2Proof.Tests

set_option Elab.async false

/-! ### States that the witnesses share: a module that is READY, one with a running job, one with a context at given words -/

def rdy : State := { State.reset with boot := { powered := true, stage := 4 }, now := 1000000
                                      hosts := (List.range 4).map fun n => { rqBase := 0x5F0000 + 0x1000 * n, present := true } }
def jobS : State := { rdy with jobc := { st := 1, id := 7, nearRes := 100, vatRes := 100, resNear := 100, resVat := 100 } }
/-- context c runs, with the words at its pc -/
def runS (s : State) (c : Nat) (words : List Nat) (regs : List (Nat × Nat)) : State :=
  let pc := if c % 2 = 1 then 0x600100 else 0x100
  let s := { s with cm := Mem.writeN s.cm pc (words.flatMap (leBytes 4)) }
  setCtx s c { (getCtx s c) with pc := pc, lastPc := pc - 4, st := 1, prog := 5, ticket := 9
                                 regs := regs.foldl (fun l p => l.set p.1 (BitVec.ofNat 64 p.2)) (List.replicate 32 0) }

namespace B20

def rr (w : List Nat) (r : List (Nat × Nat)) : State := runS jobS 2 w r
def fnS (op fn : Nat) : State := rr [wordR op fn 3 4 5] [(4, 2^63 + 7), (5, 3)]
def imS (op : Nat) : State := rr [op * 2^26 + 3 * 2^20 + 4 * 2^15 + 5] [(4, 2^63 + 7)]
def imX (op : Nat) : State := rr [op * 2^26 + 2^25 + 3 * 2^20 + 4 * 2^15 + 5, 2^31] [(4, 2^63 + 7)]
def brS (op : Nat) : State := rr [op * 2^26 + 3 * 2^20 + 4 * 2^15 + 2^15 - 5] [(3, 2^63 + 7), (4, 2^63 + 7)]
def brT (op : Nat) : State := rr [op * 2^26 + 3 * 2^20 + 4 * 2^15 + 2^15 - 5] [(3, 2^63 + 7), (4, 7)]
def ldS (op a : Nat) : State := rr [op * 2^26 + 3 * 2^20 + 4 * 2^15 + 8] [(4, a), (3, 0x1122334455667788)]
def sy (sub rd rs1 rs2 : Nat) (r : List (Nat × Nat)) (f : CtxSt → CtxSt) : State := let s := runS jobS 3 [wordD 0x28 sub rd rs1 rs2 0] r; setCtx s 3 (f (getCtx s 3))
def entryB (w : Nat) : List Byte := leBytes 32 w
def psS (w : Nat) : State := { jobS with cm := Mem.writeN [] (0x600000 + 0x8000) (entryB w), raler := { jobS.raler with pq := jobS.raler.pq.set 1 { base := 0x608000, size := 8, tail := 1 } } }
def w20_0 : State := (rr [0x0A * 2^26 + 3 * 2^20 + 5] [])
def w20_1 : State := (rr [0x0B * 2^26 + 2^25 + 3 * 2^20, 9] [(3, 2^33 + 1)])
def w20_2 : BitVec 47 := (BitVec.ofInt 47 (-5))
def w20_4 : BitVec 47 := (BitVec.ofInt 47 (-5))
def w20_6 : BitVec 47 := (BitVec.ofInt 47 (-5))
def w20_8 : BitVec 47 := (BitVec.ofInt 47 (-5))
def w20_10 : BitVec 47 := (BitVec.ofInt 47 (-5))
def w20_12 : BitVec 47 := (BitVec.ofInt 47 (-5))
def w20_14 : State := (rr [0x16 * 2^26 + 3 * 2^20 + 2^15 - 5] [])
def w20_15 : BitVec 47 := (BitVec.ofInt 47 (-5))
def w20_16 : State := (rr [0x17 * 2^26 + 3 * 2^20 + 4 * 2^15 + 2^15 - 5] [(4, 0x200)])
def w20_17 : BitVec 47 := (BitVec.ofInt 47 (-5))
def w20_18 : State := (rr [wordR 0x1E 0 3 4 5] [(4, 0x100), (5, 9)])
def w20_19 : State := (rr [wordD 0x1F 0 3 4 5 6] [(4, 0x200), (5, 0), (6, 7)])
def w20_20 : State := (sy 0 3 4 5 [(4, 6), (5, 100)] fun x => { x with ev := 2 })
def w20_21 : State := (sy 0 3 4 5 [(4, 6), (5, 100)] id)
def w20_22 : State := (sy 1 3 0 0 [] fun x => { x with evq := [7, 8] })
def w20_23 : State := (sy 2 0 4 5 [(4, 2), (5, 7)] id)
def w20_24 : State := (sy 3 0 4 0 [(4, 2), (5, 7)] id)
def w20_25 : State := (sy 5 0 4 0 [(4, 77)] id)
def w20_26 : State := (sy 0 0 0 0 [] fun x => { x with st := 2, ev := 6, waits := .event 3 2#32 (some 5), timer := some 5 })
def w20_27 : State := (rr [0x0C * 2^26] [])
def w20_28 : State := (psS (0x1000 + 2^32 * 7 + 2^64 * 8))
def w20_30 : State := (psS (0x1001 + 2^32 * 7 + 2^64 * 8))

theorem witness_Arithmetic_RegisterArithmetic :
    (Sized (fnS 0 0) ∧ At (fnS 0 0) 2 (wordR 0 0 3 4 5) Option.none) ∧
    (Sized (fnS 0 0) ∧ 4 ≠ 3) ∧
    (Sized (fnS 0 1) ∧ At (fnS 0 1) 2 (wordR 0 1 3 4 5) Option.none) ∧
    (Sized (fnS 0 2) ∧ At (fnS 0 2) 2 (wordR 0 2 3 4 5) Option.none) ∧
    (Sized (fnS 0 3) ∧ At (fnS 0 3) 2 (wordR 0 3 3 4 5) Option.none) ∧
    (Sized (fnS 0 4) ∧ At (fnS 0 4) 2 (wordR 0 4 3 4 5) Option.none) ∧
    (Sized (fnS 0 5) ∧ At (fnS 0 5) 2 (wordR 0 5 3 4 5) Option.none) ∧
    (Sized (fnS 0 6) ∧ At (fnS 0 6) 2 (wordR 0 6 3 4 5) Option.none) ∧
    (Sized (fnS 0 7) ∧ At (fnS 0 7) 2 (wordR 0 7 3 4 5) Option.none) ∧
    (Sized (fnS 0 8) ∧ At (fnS 0 8) 2 (wordR 0 8 3 4 5) Option.none) ∧
    (Sized (fnS 0 9) ∧ At (fnS 0 9) 2 (wordR 0 9 3 4 5) Option.none) ∧
    (Sized (fnS 0 10) ∧ At (fnS 0 10) 2 (wordR 0 10 3 4 5) Option.none) ∧
    (Sized (fnS 0 11) ∧ At (fnS 0 11) 2 (wordR 0 11 3 4 5) Option.none) ∧
    (Sized (fnS 0 12) ∧ At (fnS 0 12) 2 (wordR 0 12 3 4 5) Option.none) ∧
    (Sized (fnS 0 13) ∧ At (fnS 0 13) 2 (wordR 0 13 3 4 5) Option.none) :=
  ⟨by decide +kernel, by decide +kernel, by decide +kernel, by decide +kernel, by decide +kernel, by decide +kernel,
    by decide +kernel, by decide +kernel, by decide +kernel, by decide +kernel, by decide +kernel, by decide +kernel,
    by decide +kernel, by decide +kernel, by decide +kernel⟩

theorem witness_Arithmetic_ImmediateArithmetic :
    (Sized (imS 1) ∧ AtI (imS 1) 2 1 3 4 false 5#47) ∧
    (Sized (imS 2) ∧ AtI (imS 2) 2 2 3 4 false 5#47) ∧
    (Sized (imS 3) ∧ AtI (imS 3) 2 3 3 4 false 5#47) ∧
    (Sized (imS 4) ∧ AtI (imS 4) 2 4 3 4 false 5#47) ∧
    (Sized (imS 5) ∧ AtI (imS 5) 2 5 3 4 false 5#47) ∧
    (Sized (imS 6) ∧ AtI (imS 6) 2 6 3 4 false 5#47) ∧
    (Sized (imS 7) ∧ AtI (imS 7) 2 7 3 4 false (BitVec.setWidth 47 5#6)) ∧
    (Sized (imS 8) ∧ AtI (imS 8) 2 8 3 4 false (BitVec.setWidth 47 5#6)) ∧
    (Sized (imS 9) ∧ AtI (imS 9) 2 9 3 4 false (BitVec.setWidth 47 5#6)) ∧
    (Sized w20_0 ∧ AtI w20_0 2 10 3 0 false 5#47) ∧
    (Sized w20_1 ∧ At w20_1 2 (11 * 2 ^ 26 + 2 ^ 25 + 3 * 2 ^ 20) (Option.some (BitVec.toNat 9#32))) :=
  ⟨by decide +kernel, by decide +kernel, by decide +kernel, by decide +kernel, by decide +kernel, by decide +kernel,
    by decide +kernel, by decide +kernel, by decide +kernel, by decide +kernel, by decide +kernel⟩

theorem witness_BranchesAndJumps :
    (Sized (brS 16) ∧ AtI (brS 16) 2 16 3 4 false w20_2) ∧
    (Sized (brS 17) ∧ AtI (brS 17) 2 17 3 4 false w20_4) ∧
    (Sized (brS 18) ∧ AtI (brS 18) 2 18 3 4 false w20_6) ∧
    (Sized (brS 19) ∧ AtI (brS 19) 2 19 3 4 false w20_8) ∧
    (Sized (brS 20) ∧ AtI (brS 20) 2 20 3 4 false w20_10) ∧
    (Sized (brS 21) ∧ AtI (brS 21) 2 21 3 4 false w20_12) ∧
    (Sized w20_14 ∧ AtI w20_14 2 22 3 0 false w20_15) ∧
    (Sized w20_16 ∧ AtI w20_16 2 23 3 4 false w20_17) :=
  ⟨by decide +kernel, by decide +kernel, by decide +kernel, by decide +kernel, by decide +kernel, by decide +kernel,
    by decide +kernel, by decide +kernel⟩

theorem witness_MemoryAccesses_LoadsAndStores :
    (Sized (ldS 24 256) ∧ AtI (ldS 24 256) 2 24 3 4 false 8#47 ∧ BitVec.toNat (greg (ldS 24 256) 2 4 + BitVec.signExtend 64 8#47) % 8 = 0 ∧ BitVec.toNat (greg (ldS 24 256) 2 4 + BitVec.signExtend 64 8#47) + 8 ≤ if 2 % 2 = 1 then 8388608 else 6291456) ∧
    (Sized (ldS 24 259) ∧ AtI (ldS 24 259) 2 24 3 4 false 8#47 ∧ BitVec.toNat (greg (ldS 24 259) 2 4 + BitVec.signExtend 64 8#47) % 8 ≠ 0) ∧
    (Sized (ldS 24 6291448) ∧ AtI (ldS 24 6291448) 2 24 3 4 false 8#47 ∧ BitVec.toNat (greg (ldS 24 6291448) 2 4 + BitVec.signExtend 64 8#47) % 8 = 0 ∧ ¬BitVec.toNat (greg (ldS 24 6291448) 2 4 + BitVec.signExtend 64 8#47) + 8 ≤ if 2 % 2 = 1 then 8388608 else 6291456) ∧
    (Sized (ldS 25 256) ∧ AtI (ldS 25 256) 2 25 3 4 false 8#47 ∧ BitVec.toNat (greg (ldS 25 256) 2 4 + BitVec.signExtend 64 8#47) % 4 = 0 ∧ BitVec.toNat (greg (ldS 25 256) 2 4 + BitVec.signExtend 64 8#47) + 4 ≤ if 2 % 2 = 1 then 8388608 else 6291456) ∧
    (Sized (ldS 25 259) ∧ AtI (ldS 25 259) 2 25 3 4 false 8#47 ∧ BitVec.toNat (greg (ldS 25 259) 2 4 + BitVec.signExtend 64 8#47) % 4 ≠ 0) ∧
    (Sized (ldS 25 6291448) ∧ AtI (ldS 25 6291448) 2 25 3 4 false 8#47 ∧ BitVec.toNat (greg (ldS 25 6291448) 2 4 + BitVec.signExtend 64 8#47) % 4 = 0 ∧ ¬BitVec.toNat (greg (ldS 25 6291448) 2 4 + BitVec.signExtend 64 8#47) + 4 ≤ if 2 % 2 = 1 then 8388608 else 6291456) ∧
    (Sized (ldS 26 256) ∧ AtI (ldS 26 256) 2 26 3 4 false 8#47 ∧ BitVec.toNat (greg (ldS 26 256) 2 4 + BitVec.signExtend 64 8#47) + 1 ≤ if 2 % 2 = 1 then 8388608 else 6291456) ∧
    (Sized (ldS 26 6291448) ∧ AtI (ldS 26 6291448) 2 26 3 4 false 8#47 ∧ ¬BitVec.toNat (greg (ldS 26 6291448) 2 4 + BitVec.signExtend 64 8#47) + 1 ≤ if 2 % 2 = 1 then 8388608 else 6291456) ∧
    (Sized (ldS 27 256) ∧ AtI (ldS 27 256) 2 27 3 4 false 8#47 ∧ BitVec.toNat (greg (ldS 27 256) 2 4 + BitVec.signExtend 64 8#47) % 8 = 0 ∧ BitVec.toNat (greg (ldS 27 256) 2 4 + BitVec.signExtend 64 8#47) + 8 ≤ if 2 % 2 = 1 then 8388608 else 6291456) ∧
    (Sized (ldS 27 259) ∧ AtI (ldS 27 259) 2 27 3 4 false 8#47 ∧ BitVec.toNat (greg (ldS 27 259) 2 4 + BitVec.signExtend 64 8#47) % 8 ≠ 0) ∧
    (Sized (ldS 27 6291448) ∧ AtI (ldS 27 6291448) 2 27 3 4 false 8#47 ∧ BitVec.toNat (greg (ldS 27 6291448) 2 4 + BitVec.signExtend 64 8#47) % 8 = 0 ∧ ¬BitVec.toNat (greg (ldS 27 6291448) 2 4 + BitVec.signExtend 64 8#47) + 8 ≤ if 2 % 2 = 1 then 8388608 else 6291456) ∧
    (Sized (ldS 28 256) ∧ AtI (ldS 28 256) 2 28 3 4 false 8#47 ∧ BitVec.toNat (greg (ldS 28 256) 2 4 + BitVec.signExtend 64 8#47) % 4 = 0 ∧ BitVec.toNat (greg (ldS 28 256) 2 4 + BitVec.signExtend 64 8#47) + 4 ≤ if 2 % 2 = 1 then 8388608 else 6291456) ∧
    (Sized (ldS 28 259) ∧ AtI (ldS 28 259) 2 28 3 4 false 8#47 ∧ BitVec.toNat (greg (ldS 28 259) 2 4 + BitVec.signExtend 64 8#47) % 4 ≠ 0) ∧
    (Sized (ldS 28 6291448) ∧ AtI (ldS 28 6291448) 2 28 3 4 false 8#47 ∧ BitVec.toNat (greg (ldS 28 6291448) 2 4 + BitVec.signExtend 64 8#47) % 4 = 0 ∧ ¬BitVec.toNat (greg (ldS 28 6291448) 2 4 + BitVec.signExtend 64 8#47) + 4 ≤ if 2 % 2 = 1 then 8388608 else 6291456) ∧
    (Sized (ldS 29 256) ∧ AtI (ldS 29 256) 2 29 3 4 false 8#47 ∧ BitVec.toNat (greg (ldS 29 256) 2 4 + BitVec.signExtend 64 8#47) + 1 ≤ if 2 % 2 = 1 then 8388608 else 6291456) ∧
    (Sized (ldS 29 6291448) ∧ AtI (ldS 29 6291448) 2 29 3 4 false 8#47 ∧ ¬BitVec.toNat (greg (ldS 29 6291448) 2 4 + BitVec.signExtend 64 8#47) + 1 ≤ if 2 % 2 = 1 then 8388608 else 6291456) :=
  ⟨by decide +kernel, by decide +kernel, by decide +kernel, by decide +kernel, by decide +kernel, by decide +kernel,
    by decide +kernel, by decide +kernel, by decide +kernel, by decide +kernel, by decide +kernel, by decide +kernel,
    by decide +kernel, by decide +kernel, by decide +kernel, by decide +kernel⟩

theorem witness_MemoryAccesses_AtomicAccesses :
    (Sized w20_18 ∧ BitVec.toNat (greg w20_18 2 4) % 8 = 0 ∧ (BitVec.toNat (greg w20_18 2 4) + 8 ≤ if 2 % 2 = 1 then 8388608 else 6291456) ∧ At w20_18 2 (wordR 30 0 3 4 5) Option.none) ∧
    (Sized w20_19 ∧ BitVec.toNat (greg w20_19 2 4) % 8 = 0 ∧ (BitVec.toNat (greg w20_19 2 4) + 8 ≤ if 2 % 2 = 1 then 8388608 else 6291456) ∧ At w20_19 2 (wordD 31 0 3 4 5 6) Option.none) :=
  ⟨by decide +kernel, by decide +kernel⟩

theorem witness_MemoryAccesses_StoreWritesItsBytes :
    Mem.wf [(3, 5)] = true ∧ (9 < 3 ∨ 3 + List.length [1#8, 0#8] ≤ 9) :=
  by decide +kernel

theorem witness_SystemInstructions :
    (Sized w20_20 ∧ At w20_20 3 (wordD 40 0 3 4 5 0) Option.none ∧ (getCtx w20_20 3).ev &&& BitVec.setWidth 32 (greg w20_20 3 4) ≠ 0) ∧
    (Sized w20_21 ∧ At w20_21 3 (wordD 40 0 3 4 5 0) Option.none ∧ greg w20_21 3 4 ≠ 0 ∧ (getCtx w20_21 3).ev &&& BitVec.setWidth 32 (greg w20_21 3 4) = 0) ∧
    (Sized w20_22 ∧ At w20_22 3 (wordD 40 1 3 0 0 0) Option.none) ∧
    (Sized w20_23 ∧ At w20_23 3 (wordD 40 2 0 4 5 0) Option.none ∧ BitVec.toNat (greg w20_23 3 4) = 2 ∧ BitVec.toNat (greg w20_23 3 5) = 7 ∧ 7 < 8 ∧ (3 % 2 = 1 ∨ 2 % 2 = 0)) ∧
    (Sized w20_24 ∧ At w20_24 3 (wordD 40 3 0 4 0 0) Option.none) ∧
    (Sized (sy 4 3 0 0 [] id) ∧ At (sy 4 3 0 0 [] id) 3 (wordD 40 4 3 0 0 0) Option.none) ∧
    (Sized w20_25 ∧ At w20_25 3 (wordD 40 5 0 4 0 0) Option.none) ∧
    (Sized (sy 6 0 0 0 [] id) ∧ At (sy 6 0 0 0 [] id) 3 (wordD 40 6 0 0 0 0) Option.none) ∧
    (Sized w20_26 ∧ (getCtx w20_26 3).waits = CtxWait.event 3 (2#32) (Option.some 5) ∧ 5 ≤ w20_26.now) ∧
    (Sized w20_26 ∧ (getCtx w20_26 3).timer = Option.some 5 ∧ 5 ≤ w20_26.now) :=
  ⟨by decide +kernel, by decide +kernel, by decide +kernel, by decide +kernel, by decide +kernel, by decide +kernel,
    by decide +kernel, by decide +kernel, by decide +kernel, by decide +kernel⟩

theorem witness_ProgramsStartAndEnd_IllegalInstructions :
    (Sized w20_27 ∧ At w20_27 2 (12 * 2 ^ 26) Option.none ∧ 12 ∈ [12, 13, 14, 15, 34, 39, 41, 47, 56, 63] ∧ 12 * 2 ^ 26 = 12 * 2 ^ 26) ∧
    (Sized (rr [14] []) ∧ At (rr [14] []) 2 14 Option.none ∧ 14 ∈ [14, 15, 1023] ∧ 14 = 14) :=
  ⟨by decide +kernel, by decide +kernel⟩

theorem witness_ProgramsStartAndEnd_ProgramEnd :
    Sized (sy 0 0 0 0 [] id) ∧ (getCtx (sy 0 0 0 0 [] id) 3).st ≠ 0 ∧ 2 ≠ 3 :=
  by decide +kernel

theorem witness_ProgramsStartAndEnd_ProgramStarts :
    (Sized w20_28 ∧ isReady w20_28 = true ∧ 1 ∉ w20_28.raler.out ∧ (nth { } w20_28.raler.pq 1).head ≠ (nth { } w20_28.raler.pq 1).tail ∧ (nth { } w20_28.raler.pq 1).head ∉ (nth { } w20_28.raler.pq 1).begun ∧ (getCtx w20_28 (2 * 1 + if Nat.testBit (leNat (Mem.readN w20_28.cm ((nth { } w20_28.raler.pq 1).base + 32 * (BitVec.toNat (nth { } w20_28.raler.pq 1).head % 2 ^ (nth { } w20_28.raler.pq 1).size)) 32)) 23 = true then 1 else 0)).st = 0 ∧ leNat (Mem.readN w20_28.cm ((nth { } w20_28.raler.pq 1).base + 32 * (BitVec.toNat (nth { } w20_28.raler.pq 1).head % 2 ^ (nth { } w20_28.raler.pq 1).size)) 32) % 4 = 0 ∧ leNat (Mem.readN w20_28.cm ((nth { } w20_28.raler.pq 1).base + 32 * (BitVec.toNat (nth { } w20_28.raler.pq 1).head % 2 ^ (nth { } w20_28.raler.pq 1).size)) 32) / 2 ^ 25 % 2 ^ 7 = 0 ∧ leNat (Mem.readN w20_28.cm ((nth { } w20_28.raler.pq 1).base + 32 * (BitVec.toNat (nth { } w20_28.raler.pq 1).head % 2 ^ (nth { } w20_28.raler.pq 1).size)) 32) / 2 ^ 248 % 2 ^ 8 = 0 ∧ if Nat.testBit (leNat (Mem.readN w20_28.cm ((nth { } w20_28.raler.pq 1).base + 32 * (BitVec.toNat (nth { } w20_28.raler.pq 1).head % 2 ^ (nth { } w20_28.raler.pq 1).size)) 32)) 23 = true then 6291456 ≤ leNat (Mem.readN w20_28.cm ((nth { } w20_28.raler.pq 1).base + 32 * (BitVec.toNat (nth { } w20_28.raler.pq 1).head % 2 ^ (nth { } w20_28.raler.pq 1).size)) 32) % 2 ^ 23 else leNat (Mem.readN w20_28.cm ((nth { } w20_28.raler.pq 1).base + 32 * (BitVec.toNat (nth { } w20_28.raler.pq 1).head % 2 ^ (nth { } w20_28.raler.pq 1).size)) 32) % 2 ^ 23 < 6291456 ∧ w20_28.jobc.st = 1) ∧
    (Sized w20_30 ∧ isReady w20_30 = true ∧ 1 ∉ w20_30.raler.out ∧ (nth { } w20_30.raler.pq 1).head ≠ (nth { } w20_30.raler.pq 1).tail ∧ (nth { } w20_30.raler.pq 1).head ∉ (nth { } w20_30.raler.pq 1).begun ∧ (getCtx w20_30 (2 * 1 + if Nat.testBit (leNat (Mem.readN w20_30.cm ((nth { } w20_30.raler.pq 1).base + 32 * (BitVec.toNat (nth { } w20_30.raler.pq 1).head % 2 ^ (nth { } w20_30.raler.pq 1).size)) 32)) 23 = true then 1 else 0)).st = 0 ∧ leNat (Mem.readN w20_30.cm ((nth { } w20_30.raler.pq 1).base + 32 * (BitVec.toNat (nth { } w20_30.raler.pq 1).head % 2 ^ (nth { } w20_30.raler.pq 1).size)) 32) % 4 ≠ 0) ∧
    (Sized w20_30 ∧ isReady w20_30 = true ∧ 1 ∉ w20_30.raler.out ∧ (nth { } w20_30.raler.pq 1).head ≠ (nth { } w20_30.raler.pq 1).tail ∧ (nth { } w20_30.raler.pq 1).head ∉ (nth { } w20_30.raler.pq 1).begun ∧ (getCtx w20_30 (2 * 1 + if Nat.testBit (leNat (Mem.readN w20_30.cm ((nth { } w20_30.raler.pq 1).base + 32 * (BitVec.toNat (nth { } w20_30.raler.pq 1).head % 2 ^ (nth { } w20_30.raler.pq 1).size)) 32)) 23 = true then 1 else 0)).st = 0 ∧ leNat (Mem.readN w20_30.cm ((nth { } w20_30.raler.pq 1).base + 32 * (BitVec.toNat (nth { } w20_30.raler.pq 1).head % 2 ^ (nth { } w20_30.raler.pq 1).size)) 32) % 4 ≠ 0 ) :=
  ⟨by and_intros <;> decide +kernel, by decide +kernel, by decide +kernel⟩

end B20

namespace B21

def strB : List Byte := leBytes 64 (1 + 2 + 64)
def withStr (s : State) (x : Stream) : State := { s with job := { s.job with
   churn := { s.job.churn with tables := { s.job.churn.tables with streams := [(5, strB)] } }, streams := Tbl.set {} [] 5 x } }
def njS (w : Nat) : State := runS rdy 3 [w] []
def so (x : Stream) (w : List Nat) (r : List (Nat × Nat)) : State := runS (withStr jobS x) 2 w r
def pgS : State := { jobS with tiers := { jobS.tiers with pages := [(0, ⟨.near 5, 7, false⟩)] } }
def murec (v : Nat) : List Byte := leBytes 4 v ++ List.replicate 92 0
def muS (m : List Byte) (w : List Nat) (r : List (Nat × Nat)) : State := let s := runS jobS 2 w r; { s with job := { s.job with grid := { s.job.grid with recs := [(17, { mu := m })] } } }
def cfS (f : Churn → Churn) (w : Nat) (a : Nat) : State := let s := runS jobS 2 [w] [(4, a)]; { s with job := { s.job with churn := f s.job.churn } }
def pln : Plan := { valid := true, index := 0, lengths := 3, id := 9, pts := [{ cfg := BitVec.ofNat 64 (5 + 2^8 + 3 * 2^33), rate := BitVec.ofNat 64 (100 + 2^12) }] ++ List.replicate 31 {} }
def prt : PortSt := { st := 2, identAt := some 5, farIndex := 1, share := [10, 11], credit := [(10, 50), (11, 50)] }
def ringS : State := { jobS with now := 2000000000, jobc := { jobS.jobc with ptEntry := 0 }, ring := { plan := pln, inForce := pln, ports := List.replicate 8 prt, buckets := [(0, {tokens := 16384, at_ := 0}), (32, {tokens := 16384, at_ := 0})] } }
def lsec : List Byte := leBytes 64 (2^16 + 2^32 + 2^40) ++ leBytes 64 1 ++ leBytes 64 (17 + 2*2^36 + 2^47 + 20*2^103 + 2^118) ++ leBytes 32 (30 + 2*2^12 + 4*2^20 + 2^27 + 31*2^32 + 2^44)
def wnS (m : List Byte) (w : Nat) (r : List (Nat × Nat)) (v : Nat) : State := let s := runS ringS 2 [w] r; { s with cm := Mem.writeN s.cm 0x1000 (leBytes 16 v), job := { s.job with churn := { s.job.churn with tables := { ladle := lsec } }, grid := { s.job.grid with recs := [(17, { mu := m })] } } }
def pgs (st : Nat) (w : Nat) (r : List (Nat × Nat)) (p : List (Nat × PageEnt)) : State := let s := runS jobS 2 [w] r; { s with tiers := { s.tiers with pages := p } }
def mpS : MapOp := ⟨9, 1, 2, 7, { ctx := 2, prog := 5, ticket := 3 }⟩
def w21_0 : State := (njS (wordD 0x30 0 3 4 0 0))
def w21_1 : Nat × Instr := ((wordD 0x30 0 3 4 0 0, .creg 3 3 4) : Nat × Instr)
def w21_44 : State := (so {st := 0} [wordD 0x31 0 3 4 0 0] [(4, 5)])
def w21_45 : State := (so {st := 1} [wordD 0x31 0 3 4 0 0] [(4, 5)])
def w21_49 : State := (so {st := 0} [wordD 0x31 1 3 4 5 0] [(4, 5), (5, 640)])
def w21_50 : State := (so {st := 1} [wordD 0x31 1 3 4 5 0] [(4, 5), (5, 640)])
def w21_54 : State := (so {st := 0} [wordD 0x31 1 3 4 5 6 + 2^25, 1] [(4, 5), (5, 640), (6, 128)])
def w21_55 : State := (let s := so {st := 3, addr := 64} [wordD 0x31 2 3 4 0 0] [(4, 5)]; { s with tiers := pgS.tiers, job := { s.job with grid := { s.job.grid with recs := [(1, { mu := List.replicate 16 0 ++ leBytes 4 (2 * 32 + 2^15) ++ List.replicate 76 0 })] } } })
def w21_56 : State := (so {st := 2} [wordD 0x31 2 3 4 0 0] [(4, 5)])
def w21_57 : State := (so {} [wordD 0x33 4 3 4 5 0] [(4, 5), (5, 99)])
def w21_58 : State := (muS (murec (2 * 32 + 2^11 + 2^12 + 2^15 + 9 * 2^16)) [wordD 0x31 3 3 4 5 0] [(4, 17)])
def w21_59 : State := (muS (murec (2 * 32)) [wordD 0x31 3 3 4 5 0] [(4, 17)])
def w21_60 : State := (cfS id (wordD 0x30 0 3 4 0 0) 4096)
def w21_61 : State := (cfS (fun c => { c with images := c.images.set 5 { st := 2 } }) (wordD 0x30 1 3 4 0 0) 5)
def w21_62 : State := (cfS id (wordD 0x30 1 3 4 0 0) 5)
def w21_63 : State := (cfS (fun c => { c with shadow := { st := 2 } }) (wordD 0x30 2 3 0 0 0) 0)
def w21_64 : State := (cfS id (wordD 0x30 2 3 0 0 0) 0)
def w21_65 : State := (cfS (fun c => { c with images := c.images.set 5 { st := 3 } }) (wordD 0x30 3 3 4 0 0) 5)
def w21_66 : State := (cfS (fun c => { c with images := c.images.set 5 { st := 1 } }) (wordD 0x30 3 3 4 0 0) 5)
def w21_67 : State := (wnS (murec (2 * 32 + 2^14 + 2^15 + 9 * 2^16)) (wordD 0x32 0 3 4 0 0) [(4, 0x1000)] (17 + 2^24 * 8 + 5 * 2^36))
def w21_68 : State := ({ wnS [] (wordD 0x32 1 3 4 5 0) [(4, 3), (5, 4)] 0 with wins := ringS.wins.set 3 { opened := true, gen := 4, cell := 3, region := 1, units := 8, part := 5, free := 6, outstanding := 2, job := 7 } })
def w21_70 : State := (wnS [] (wordD 0x32 2 3 4 5 6) [(4, 0), (5, 4), (6, 7)] 0)
def w21_71 : State := (wnS [] (wordD 0x32 2 3 4 5 6) [(4, 1000), (5, 4), (6, 7)] 0)
def w21_72 : State := (wnS [] (wordD 0x32 3 3 4 5 0) [(4, 3), (5, 0x1000)] 0)
def w21_73 : State := (wnS [] (wordD 0x32 3 3 4 5 0) [(4, 3), (5, 0x1000)] (2^15 + 2 * 5))
def w21_74 : State := (pgs 0 (wordD 0x33 0 3 4 5 6) [(4, 9), (5, 3), (6, 2)] [])
def w21_75 : State := (pgs 0 (wordD 0x33 0 3 4 5 6) [(4, 9), (5, 3), (6, 2)] [(9, ⟨.near 5, 7, false⟩)])
def w21_76 : State := (pgs 0 (wordD 0x33 1 3 4 5 0) [(4, 9), (5, 1)] [(9, ⟨.near 5, 7, false⟩)])
def w21_77 : State := (pgs 0 (wordD 0x33 2 3 4 5 0) [(4, 9), (5, 1)] [(9, ⟨.vat 5, 7, false⟩)])
def w21_78 : State := (pgs 0 (wordD 0x33 3 3 4 5 0) [(4, 9), (5, 1)] [(9, ⟨.near 5, 7, false⟩)])
def w21_79 : State := ({ pgs 0 0 [] [] with tiers := { jobS.tiers with maps := [mpS] } })

theorem witness_RefusedWithoutJob_RefusedWithoutJob :
    Sized w21_0 ∧ (w21_0.jobc.st = 0 ∨ w21_0.jobc.st = 6) ∧ w21_1 ∈ [(wordD 48 0 3 4 0 0, Instr.creg 3 3 4), (wordD 48 1 3 4 0 0, Instr.cload 3 3 4), (wordD 48 2 3 0 0 0, Instr.cswap 3 3), (wordD 48 3 3 4 0 0, Instr.crel 3 3 4), (wordD 49 0 3 4 0 0, Instr.arm 3 3 4), (wordD 49 1 3 4 5 6, Instr.rearm 3 3 4 5 6 Option.none), (wordD 49 2 3 4 0 0, Instr.resume 3 3 4), (wordD 49 3 3 4 5 0, Instr.flip 3 3 4 5), (wordD 50 0 3 4 0 0, Instr.wopen 3 3 4), (wordD 50 1 3 4 5 0, Instr.wclose 3 3 4 5), (wordD 50 2 3 4 5 6, Instr.wbind 3 3 4 5 6), (wordD 50 3 3 4 5 0, Instr.sbind 3 3 4 5), (wordD 51 0 3 4 5 6, Instr.mapPages 3 3 4 5 6), (wordD 51 1 3 4 5 0, Instr.unmap 3 3 4 5), (wordD 51 2 3 4 5 0, Instr.promote 3 3 4 5), (wordD 51 3 3 4 5 0, Instr.demote 3 3 4 5), (wordD 51 4 3 4 5 0, Instr.sbase 3 3 4 5), (wordD 53 0 3 4 5 0, Instr.admitRequest 3 3 4 5), (wordD 53 1 3 4 5 6, Instr.round 3 3 4 5 6), (wordD 53 2 3 4 5 0, Instr.cancel 3 3 4 5), (wordD 54 0 3 4 5 6, Instr.msend 3 3 4 5 6), (wordD 54 1 3 4 0 0, Instr.mrecv 3 3 4)] ∧ At w21_0 3 w21_1.1 Option.none :=
  by decide +kernel

theorem witness_ConfigurationAndStreamOperations_StreamOperations :
    (Sized w21_44 ∧ w21_44.jobc.st = 1 ∧ At w21_44 2 (wordD 49 0 3 4 0 0) Option.none ∧ BitVec.toNat (greg w21_44 2 4) < 2048 ∧ (strDesc w21_44 (BitVec.toNat (greg w21_44 2 4))).enable = true ∧ ((getStr w21_44 (BitVec.toNat (greg w21_44 2 4))).st = 0 ∨ (getStr w21_44 (BitVec.toNat (greg w21_44 2 4))).st = 4)) ∧
    (Sized w21_45 ∧ w21_45.jobc.st = 1 ∧ At w21_45 2 (wordD 49 0 3 4 0 0) Option.none ∧ BitVec.toNat (greg w21_45 2 4) < 2048 ∧ (strDesc w21_45 (BitVec.toNat (greg w21_45 2 4))).enable = true ∧ (getStr w21_45 (BitVec.toNat (greg w21_45 2 4))).st ≠ 0 ∧ (getStr w21_45 (BitVec.toNat (greg w21_45 2 4))).st ≠ 4) ∧
    (Sized w21_49 ∧ w21_49.jobc.st = 1 ∧ At w21_49 2 (wordD 49 1 3 4 5 0) Option.none ∧ BitVec.toNat (greg w21_49 2 4) < 2048 ∧ (strDesc w21_49 (BitVec.toNat (greg w21_49 2 4))).enable = true ∧ (strDesc w21_49 (BitVec.toNat (greg w21_49 2 4))).persist = true ∧ BitVec.toNat (greg w21_49 2 5) % 64 = 0 ∧ BitVec.toNat (greg w21_49 2 5) < 2 ^ 48 ∧ (getStr w21_49 (BitVec.toNat (greg w21_49 2 4))).st = 0) ∧
    (Sized w21_50 ∧ w21_50.jobc.st = 1 ∧ At w21_50 2 (wordD 49 1 3 4 5 0) Option.none ∧ BitVec.toNat (greg w21_50 2 4) < 2048 ∧ (strDesc w21_50 (BitVec.toNat (greg w21_50 2 4))).enable = true ∧ (strDesc w21_50 (BitVec.toNat (greg w21_50 2 4))).persist = true ∧ BitVec.toNat (greg w21_50 2 5) % 64 = 0 ∧ BitVec.toNat (greg w21_50 2 5) < 2 ^ 48 ∧ (getStr w21_50 (BitVec.toNat (greg w21_50 2 4))).st ≠ 0 ∧ (getStr w21_50 (BitVec.toNat (greg w21_50 2 4))).shadow = Option.none) ∧
    (Sized w21_54 ∧ w21_54.jobc.st = 1 ∧ At w21_54 2 (wordD 49 1 3 4 5 6 + 2 ^ 25) (Option.some 1) ∧ BitVec.toNat (greg w21_54 2 4) < 2048 ∧ (strDesc w21_54 (BitVec.toNat (greg w21_54 2 4))).enable = true ∧ (strDesc w21_54 (BitVec.toNat (greg w21_54 2 4))).persist = true ∧ BitVec.toNat (greg w21_54 2 5) % 64 = 0 ∧ BitVec.toNat (greg w21_54 2 5) < 2 ^ 48 ∧ BitVec.toNat (greg w21_54 2 6) % 64 = 0 ∧ BitVec.toNat (greg w21_54 2 6) < 2 ^ 21 ∧ (getStr w21_54 (BitVec.toNat (greg w21_54 2 4))).st = 0) ∧
    (Sized w21_55 ∧ w21_55.jobc.st = 1 ∧ At w21_55 2 (wordD 49 2 3 4 0 0) Option.none ∧ BitVec.toNat (greg w21_55 2 4) < 2048 ∧ (getStr w21_55 (BitVec.toNat (greg w21_55 2 4))).st = 3 ∧ strMeet w21_55 (BitVec.toNat (greg w21_55 2 4)) (getStr w21_55 (BitVec.toNat (greg w21_55 2 4))).pos = Meet.word) ∧
    (Sized w21_56 ∧ w21_56.jobc.st = 1 ∧ At w21_56 2 (wordD 49 2 3 4 0 0) Option.none ∧ BitVec.toNat (greg w21_56 2 4) < 2048 ∧ (getStr w21_56 (BitVec.toNat (greg w21_56 2 4))).st ≠ 3) ∧
    (Sized w21_57 ∧ w21_57.jobc.st = 1 ∧ At w21_57 2 (wordD 51 4 3 4 5 0) Option.none ∧ BitVec.toNat (greg w21_57 2 4) < 16 ∧ BitVec.toNat (greg w21_57 2 5) < 2 ^ 27) ∧
    (Sized w21_58 ∧ w21_58.jobc.st = 1 ∧ At w21_58 2 (wordD 49 3 3 4 5 0) Option.none ∧ BitVec.toNat (greg w21_58 2 4) < 512 ∧ BitVec.toNat (greg w21_58 2 5) < 8 ∧ (region (getRec w21_58 (BitVec.toNat (greg w21_58 2 4))).mu (BitVec.toNat (greg w21_58 2 5))).valid = true ∧ (region (getRec w21_58 (BitVec.toNat (greg w21_58 2 4))).mu (BitVec.toNat (greg w21_58 2 5))).double = true) ∧
    (Sized w21_59 ∧ w21_59.jobc.st = 1 ∧ At w21_59 2 (wordD 49 3 3 4 5 0) Option.none ∧ BitVec.toNat (greg w21_59 2 4) < 512 ∧ BitVec.toNat (greg w21_59 2 5) < 8 ∧ ¬((region (getRec w21_59 (BitVec.toNat (greg w21_59 2 4))).mu (BitVec.toNat (greg w21_59 2 5))).valid = true ∧ (region (getRec w21_59 (BitVec.toNat (greg w21_59 2 4))).mu (BitVec.toNat (greg w21_59 2 5))).double = true)) :=
  ⟨by decide +kernel, by decide +kernel, by decide +kernel, by decide +kernel, by decide +kernel, by decide +kernel,
    by decide +kernel, by decide +kernel, by decide +kernel, by decide +kernel⟩

theorem witness_ConfigurationAndStreamOperations_ConfigurationOperations :
    (Sized w21_60 ∧ w21_60.jobc.st = 1 ∧ At w21_60 2 (wordD 48 0 3 4 0 0) Option.none ∧ BitVec.toNat (greg w21_60 2 4) < 2 ^ 48 ∧ BitVec.toNat (greg w21_60 2 4) % 4096 = 0 ∧ ∃ i < 64, (getImg w21_60 i).st = 0) ∧
    (Sized w21_61 ∧ w21_61.jobc.st = 1 ∧ At w21_61 2 (wordD 48 1 3 4 0 0) Option.none ∧ BitVec.toNat (greg w21_61 2 4) < 64 ∧ (getImg w21_61 (BitVec.toNat (greg w21_61 2 4))).st = 2 ∧ w21_61.job.churn.shadow.st = 0 ∧ w21_61.job.churn.shadow.recs = [] ∧ w21_61.job.churn.wave.active = false) ∧
    (Sized w21_62 ∧ w21_62.jobc.st = 1 ∧ At w21_62 2 (wordD 48 1 3 4 0 0) Option.none ∧ BitVec.toNat (greg w21_62 2 4) < 64 ∧ (getImg w21_62 (BitVec.toNat (greg w21_62 2 4))).st ≠ 2) ∧
    (Sized w21_63 ∧ w21_63.jobc.st = 1 ∧ At w21_63 2 (wordD 48 2 3 0 0 0) Option.none ∧ w21_63.job.churn.shadow.st = 2 ∧ w21_63.job.churn.shadow.waiting = Option.none ∧ w21_63.job.churn.wave.active = false ∧ footprintBad w21_63 w21_63.job.churn.shadow.recs = Option.none) ∧
    (Sized w21_64 ∧ w21_64.jobc.st = 1 ∧ At w21_64 2 (wordD 48 2 3 0 0 0) Option.none ∧ w21_64.job.churn.shadow.st = 0) ∧
    (Sized w21_65 ∧ w21_65.jobc.st = 1 ∧ At w21_65 2 (wordD 48 3 3 4 0 0) Option.none ∧ BitVec.toNat (greg w21_65 2 4) < 64 ∧ (getImg w21_65 (BitVec.toNat (greg w21_65 2 4))).st = 3) ∧
    (Sized w21_66 ∧ w21_66.jobc.st = 1 ∧ At w21_66 2 (wordD 48 3 3 4 0 0) Option.none ∧ BitVec.toNat (greg w21_66 2 4) < 64 ∧ (getImg w21_66 (BitVec.toNat (greg w21_66 2 4))).st = 1) :=
  ⟨by decide +kernel, by decide +kernel, by decide +kernel, by decide +kernel, by decide +kernel, by decide +kernel,
    by decide +kernel⟩

theorem witness_WindowOperations :
    (Sized w21_67 ∧ w21_67.jobc.st = 1 ∧ At w21_67 2 (wordD 50 0 3 4 0 0) Option.none ∧ (BitVec.toNat (greg w21_67 2 4) + 16 ≤ if 2 % 2 = 1 then 8388608 else 6291456) ∧ leNat (Mem.readN w21_67.cm (BitVec.toNat (greg w21_67 2 4)) 16) / 2 ^ 45 = 0 ∧ leNat (Mem.readN w21_67.cm (BitVec.toNat (greg w21_67 2 4)) 16) / 2 ^ 24 % 2 ^ 12 ≠ 0 ∧ jobPart w21_67 = Option.some (leNat (Mem.readN w21_67.cm (BitVec.toNat (greg w21_67 2 4)) 16) / 2 ^ 36 % 2 ^ 8) ∧ (region (getRec w21_67 (leNat (Mem.readN w21_67.cm (BitVec.toNat (greg w21_67 2 4)) 16) % 2 ^ 9)).mu (leNat (Mem.readN w21_67.cm (BitVec.toNat (greg w21_67 2 4)) 16) / 2 ^ 9 % 2 ^ 3)).valid = true ∧ (region (getRec w21_67 (leNat (Mem.readN w21_67.cm (BitVec.toNat (greg w21_67 2 4)) 16) % 2 ^ 9)).mu (leNat (Mem.readN w21_67.cm (BitVec.toNat (greg w21_67 2 4)) 16) / 2 ^ 9 % 2 ^ 3)).windowOk = true ∧ (region (getRec w21_67 (leNat (Mem.readN w21_67.cm (BitVec.toNat (greg w21_67 2 4)) 16) % 2 ^ 9)).mu (leNat (Mem.readN w21_67.cm (BitVec.toNat (greg w21_67 2 4)) 16) / 2 ^ 9 % 2 ^ 3)).kind = 0 ∧ Nat.testBit (leNat (Mem.readN w21_67.cm (BitVec.toNat (greg w21_67 2 4)) 16)) 44 = (region (getRec w21_67 (leNat (Mem.readN w21_67.cm (BitVec.toNat (greg w21_67 2 4)) 16) % 2 ^ 9)).mu (leNat (Mem.readN w21_67.cm (BitVec.toNat (greg w21_67 2 4)) 16) / 2 ^ 9 % 2 ^ 3)).double ∧ 512 * (leNat (Mem.readN w21_67.cm (BitVec.toNat (greg w21_67 2 4)) 16) / 2 ^ 12 % 2 ^ 12 + leNat (Mem.readN w21_67.cm (BitVec.toNat (greg w21_67 2 4)) 16) / 2 ^ 24 % 2 ^ 12) ≤ regionSize (region (getRec w21_67 (leNat (Mem.readN w21_67.cm (BitVec.toNat (greg w21_67 2 4)) 16) % 2 ^ 9)).mu (leNat (Mem.readN w21_67.cm (BitVec.toNat (greg w21_67 2 4)) 16) / 2 ^ 9 % 2 ^ 3)) ∧ (∀ (u : Win), (getWin w21_67 ↑u).opened = true → (getWin w21_67 ↑u).cell = leNat (Mem.readN w21_67.cm (BitVec.toNat (greg w21_67 2 4)) 16) % 2 ^ 9 → ∀ x ∈ [regionBase (region (getRec w21_67 (leNat (Mem.readN w21_67.cm (BitVec.toNat (greg w21_67 2 4)) 16) % 2 ^ 9)).mu (leNat (Mem.readN w21_67.cm (BitVec.toNat (greg w21_67 2 4)) 16) / 2 ^ 9 % 2 ^ 3)) false + 512 * (leNat (Mem.readN w21_67.cm (BitVec.toNat (greg w21_67 2 4)) 16) / 2 ^ 12 % 2 ^ 12), regionBase (region (getRec w21_67 (leNat (Mem.readN w21_67.cm (BitVec.toNat (greg w21_67 2 4)) 16) % 2 ^ 9)).mu (leNat (Mem.readN w21_67.cm (BitVec.toNat (greg w21_67 2 4)) 16) / 2 ^ 9 % 2 ^ 3)) true + 512 * (leNat (Mem.readN w21_67.cm (BitVec.toNat (greg w21_67 2 4)) 16) / 2 ^ 12 % 2 ^ 12)], ∀ y ∈ [(getWin w21_67 ↑u).at0, (getWin w21_67 ↑u).at1], x + 512 * (leNat (Mem.readN w21_67.cm (BitVec.toNat (greg w21_67 2 4)) 16) / 2 ^ 24 % 2 ^ 12) ≤ y ∨ y + 512 * (getWin w21_67 ↑u).units ≤ x) ∧ (getWin w21_67 0).opened = false ∧ ∀ u < 0, (getWin w21_67 ↑u).opened = true) ∧
    (Sized w21_68 ∧ w21_68.jobc.st = 1 ∧ At w21_68 2 (wordD 50 1 3 4 5 0) Option.none ∧ BitVec.toNat (greg w21_68 2 4) < 64 ∧ BitVec.toNat (greg w21_68 2 5) < 256 ∧ (getWin w21_68 (BitVec.toNat (greg w21_68 2 4))).opened = true ∧ (getWin w21_68 (BitVec.toNat (greg w21_68 2 4))).closing = false ∧ BitVec.toNat (getWin w21_68 (BitVec.toNat (greg w21_68 2 4))).gen = BitVec.toNat (greg w21_68 2 5) ∧ winHere w21_68 (getWin w21_68 (BitVec.toNat (greg w21_68 2 4))) = true) ∧
    (Sized w21_70 ∧ w21_70.jobc.st = 1 ∧ At w21_70 2 (wordD 50 2 3 4 5 6) Option.none ∧ BitVec.toNat (greg w21_70 2 4) < 1024 ∧ BitVec.toNat (greg w21_70 2 5) < 64 ∧ BitVec.toNat (greg w21_70 2 6) < 256 ∧ BitVec.toNat (greg w21_70 2 4) < ladQueues w21_70.job.churn.tables.ladle ∧ ladMember w21_70.job.churn.tables.ladle (BitVec.toNat (greg w21_70 2 4)) < Option.elim (jobPt w21_70) 0 boxSize) ∧
    (Sized w21_71 ∧ w21_71.jobc.st = 1 ∧ At w21_71 2 (wordD 50 2 3 4 5 6) Option.none ∧ BitVec.toNat (greg w21_71 2 4) < 1024 ∧ BitVec.toNat (greg w21_71 2 5) < 64 ∧ BitVec.toNat (greg w21_71 2 6) < 256 ∧ ladQueues w21_71.job.churn.tables.ladle ≤ BitVec.toNat (greg w21_71 2 4)) ∧
    (Sized w21_72 ∧ w21_72.jobc.st = 1 ∧ At w21_72 2 (wordD 50 3 3 4 5 0) Option.none ∧ BitVec.toNat (greg w21_72 2 4) < 64 ∧ (BitVec.toNat (greg w21_72 2 5) + 8 ≤ if 2 % 2 = 1 then 8388608 else 6291456) ∧ leNat (Mem.readN w21_72.cm (BitVec.toNat (greg w21_72 2 5)) 8) / 2 ^ 15 % 2 ^ 12 = 0) ∧
    (Sized w21_73 ∧ w21_73.jobc.st = 1 ∧ At w21_73 2 (wordD 50 3 3 4 5 0) Option.none ∧ BitVec.toNat (greg w21_73 2 4) < 64 ∧ (BitVec.toNat (greg w21_73 2 5) + 8 ≤ if 2 % 2 = 1 then 8388608 else 6291456) ∧ Nat.testBit (leNat (Mem.readN w21_73.cm (BitVec.toNat (greg w21_73 2 5)) 8)) 0 = false ∧ leNat (Mem.readN w21_73.cm (BitVec.toNat (greg w21_73 2 5)) 8) / 2 ^ 61 = 0 ∧ 1 ≤ leNat (Mem.readN w21_73.cm (BitVec.toNat (greg w21_73 2 5)) 8) / 2 ^ 15 % 2 ^ 12 ∧ leNat (Mem.readN w21_73.cm (BitVec.toNat (greg w21_73 2 5)) 8) / 2 ^ 15 % 2 ^ 12 ≤ 3072 ∧ (getSender w21_73 (BitVec.toNat (greg w21_73 2 4))).credit = 0 ∧ ∀ k ∈ w21_73.job.asks, k.who ≠ Asker.sender (BitVec.toNat (greg w21_73 2 4))) :=
  ⟨by and_intros <;> decide +kernel, by decide +kernel, by decide +kernel, by decide +kernel, by decide +kernel, by decide +kernel⟩

theorem witness_RefusedWithoutJob_PageOperations :
    (Sized w21_74 ∧ w21_74.jobc.st = 1 ∧ At w21_74 2 (wordD 51 0 3 4 5 6) Option.none ∧ BitVec.toNat (greg w21_74 2 4) + BitVec.toNat (greg w21_74 2 5) ≤ 2 ^ 27 ∧ BitVec.toNat (greg w21_74 2 4) < 2 ^ 27 ∧ BitVec.toNat (greg w21_74 2 6) = 2 ∧ (∀ i < BitVec.toNat (greg w21_74 2 5), (getPage w21_74 (BitVec.toNat (greg w21_74 2 4) + i)).st = PState.unmapped) ∧ w21_74.tiers.maps = [] ∧ List.length w21_74.tiers.pages + BitVec.toNat (greg w21_74 2 5) ≤ maxMapped) ∧
    (Sized w21_75 ∧ w21_75.jobc.st = 1 ∧ At w21_75 2 (wordD 51 0 3 4 5 6) Option.none ∧ BitVec.toNat (greg w21_75 2 4) + BitVec.toNat (greg w21_75 2 5) ≤ 2 ^ 27 ∧ BitVec.toNat (greg w21_75 2 4) < 2 ^ 27 ∧ BitVec.toNat (greg w21_75 2 6) ≤ 2 ∧ BitVec.toNat (greg w21_75 2 5) ≠ 0 ∧ (getPage w21_75 (BitVec.toNat (greg w21_75 2 4))).st ≠ PState.unmapped) ∧
    (Sized w21_76 ∧ w21_76.jobc.st = 1 ∧ At w21_76 2 (wordD 51 1 3 4 5 0) Option.none ∧ BitVec.toNat (greg w21_76 2 4) < 2 ^ 27 ∧ BitVec.toNat (greg w21_76 2 5) = 1 ∧ pageMine w21_76 (BitVec.toNat (greg w21_76 2 4)) = true ∧ isPinned w21_76 (BitVec.toNat (greg w21_76 2 4)) = false) ∧
    (Sized w21_77 ∧ w21_77.jobc.st = 1 ∧ At w21_77 2 (wordD 51 2 3 4 5 0) Option.none ∧ BitVec.toNat (greg w21_77 2 4) < 2 ^ 27 ∧ BitVec.toNat (greg w21_77 2 5) = 1 ∧ pageMine w21_77 (BitVec.toNat (greg w21_77 2 4)) = true ∧ (∀ m ∈ w21_77.tiers.moves, m.page ≠ BitVec.toNat (greg w21_77 2 4)) ∧ overReserved w21_77 false 1 = false ∧ (getPage w21_77 (BitVec.toNat (greg w21_77 2 4))).st = PState.vat 5) ∧
    (Sized w21_78 ∧ w21_78.jobc.st = 1 ∧ At w21_78 2 (wordD 51 3 3 4 5 0) Option.none ∧ BitVec.toNat (greg w21_78 2 4) < 2 ^ 27 ∧ BitVec.toNat (greg w21_78 2 5) = 1 ∧ pageMine w21_78 (BitVec.toNat (greg w21_78 2 4)) = true ∧ (∀ m ∈ w21_78.tiers.moves, m.page ≠ BitVec.toNat (greg w21_78 2 4)) ∧ overReserved w21_78 true 1 = false ∧ (getPage w21_78 (BitVec.toNat (greg w21_78 2 4))).st = PState.near 5) ∧
    (Sized w21_79 ∧ w21_79.jobc.st = 1 ∧ w21_79.tiers.maps = [mpS] ∧ mpS.op.ctx = 2 ∧ mpS.first = 9 ∧ mpS.tier = 2 ∧ mpS.count = 1 ) :=
  ⟨by decide +kernel, by decide +kernel, by decide +kernel, by decide +kernel, by decide +kernel, by decide +kernel⟩

end B21

namespace B30

def sPt : State := { rdy with now := 2000000000, power := { rdy.power with fabric := 2000, capFreq := 2000 } }
def rdg : PowerReading := ⟨1400, 1500, 500, (List.range 21).map fun k => 1300 + 30 * k⟩
def rdg2 : PowerReading := ⟨1000, 1500, 500, (List.range 21).map fun k => 1000 + 10 * k⟩
def rdg3 : PowerReading := ⟨1000, 1500, 500, (List.range 21).map fun k => 660 + 40 * k⟩
def w30_0 : Power := { sPt.power with trip := true}
def w30_1 : Power := { sPt.power with droopFreq := 1900}
def w30_2 : BitVec 64 := 0x0546000A05780600#64
def w30_3 : BitVec 64 := 0x0546000A05780500#64
def w30_4 : BitVec 64 := 0x0546000A05780800#64
def w30_5 : State := {sPt with cap := {sPt.cap with timeoutMs := 5, fastcap := true}}
def w30_8 : State := {sPt with power := {sPt.power with fabric := 1600, droopFreq := 1600, trip := true, warnFreq := 1600, maxC := [0,0,90,0,0,0]}}
def w30_9 : State := {sPt with power := {sPt.power with fabric := 1600, droopFreq := 1600, warnAt := 1999999999, warnFreq := 1600, maxC := [0,0,90,0,0,0]}}
def w30_10 : State := {sPt with power := {sPt.power with fabric := 1600, droopFreq := 1600, warnFreq := 1600, maxC := [0,0,90,0,0,0]}}

theorem witness_ClockInForce_ClockInForce :
    (w30_0.trip = true) ∧
    (w30_1.trip = false ∧ 1600 ≤ w30_1.capFreq ∧ 1600 ≤ w30_1.droopFreq ∧ 1600 ≤ w30_1.warnFreq) :=
  ⟨by decide +kernel, by decide +kernel⟩

theorem witness_ReferenceClocksAndSupply_ReferenceClocks :
    sPt.power.refMgmt = true ∧ sPt.boot.powered = true :=
  by decide +kernel

theorem witness_PowerCaps_PowerCap :
    (sPt.boot.powered = true ∧ 1350 ≤ 1400 ∧ 1400 ≤ 1900) ∧
    (sPt.boot.powered = true ∧ 1350 ≤ BitVec.toNat w30_2 % 2 ^ 12 ∧ 1350 ≤ BitVec.toNat w30_2 / 2 ^ 16 % 2 ^ 12 ∧ BitVec.toNat w30_2 % 2 ^ 12 ≤ 1900 ∧ BitVec.toNat w30_2 / 2 ^ 16 % 2 ^ 12 ≤ 1900) ∧
    (sPt.boot.powered = true ∧ BitVec.toNat w30_3 % 2 ^ 12 < 1350 ∧ BitVec.toNat w30_3 % 2 ^ 12 ≤ 1900 ∧ BitVec.toNat w30_3 / 2 ^ 16 % 2 ^ 12 ≤ 1900) ∧
    (sPt.boot.powered = true ∧ 1350 ≤ BitVec.toNat w30_4 % 2 ^ 12 ∧ 1350 ≤ BitVec.toNat w30_4 / 2 ^ 16 % 2 ^ 12 ∧ 1900 < BitVec.toNat w30_4 % 2 ^ 12) ∧
    (w30_5.boot.powered = true ∧ w30_5.cap.timeoutMs ≠ 0 ∧ w30_5.cap.fellBack = false ∧ w30_5.cap.lastWrite + w30_5.cap.timeoutMs * ms ≤ w30_5.now ∧ 1350 ≤ w30_5.cap.armed ∧ w30_5.cap.armed ≤ 1900 ∧ 1350 ≤ w30_5.cap.fallback ∧ w30_5.cap.fallback ≤ 1900) ∧
    (w30_5.boot.powered = true ∧ w30_5.cap.fastcap = true) :=
  ⟨by decide +kernel, by decide +kernel, by decide +kernel, by decide +kernel, by decide +kernel, by decide +kernel⟩

theorem witness_PowerCaps_PowerLoop :
    (sPt.boot.powered = true ∧ sPt.boot.shut = false ∧ List.length rdg.predicted = 21 ∧ (sPt.cap.evalAt = Option.none ∨ ∃ e, sPt.cap.evalAt = Option.some e ∧ e + 20 * us ≤ sPt.now) ∧ 0 < (sPt.power.fabric - 1600) / 25 ∧ (capInForce sPt.cap < rdg.mean ∨ capInForce sPt.cap < nth 0 rdg.predicted ((sPt.power.fabric - 1600) / 25)) ∧ nth 0 rdg.predicted 0 * 100 ≤ capInForce sPt.cap * 98 ∧ ∀ m < (sPt.power.fabric - 1600) / 25, 0 < m → ¬nth 0 rdg.predicted m * 100 ≤ capInForce sPt.cap * 98) ∧
    (sPt.boot.powered = true ∧ sPt.boot.shut = false ∧ List.length rdg.predicted = 21 ∧ (sPt.cap.evalAt = Option.none ∨ ∃ e, sPt.cap.evalAt = Option.some e ∧ e + 20 * us ≤ sPt.now) ∧ isReady sPt = true ∧ sPt.cap.fastcap = false ∧ 0 < 21 ∧ nth 0 rdg.predicted 0 * 100 ≤ Min.min (capTaken sPt.cap.cap) (capTaken sPt.cap.armed) * 98 ∧ ∀ m < 21, 0 < m → ¬nth 0 rdg.predicted m * 100 ≤ Min.min (capTaken sPt.cap.cap) (capTaken sPt.cap.armed) * 98) ∧
    (sPt.boot.powered = true ∧ sPt.boot.shut = false ∧ List.length rdg2.predicted = 21 ∧ (sPt.cap.evalAt = Option.none ∨ ∃ e, sPt.cap.evalAt = Option.some e ∧ e + 20 * us ≤ sPt.now) ∧ rdg2.mean ≤ capInForce sPt.cap ∧ nth 0 rdg2.predicted ((sPt.power.fabric - 1600) / 25) ≤ capInForce sPt.cap ∧ sPt.power.capFreq < 2100 ∧ nth 0 rdg2.predicted ((sPt.power.capFreq - 1600) / 25 + 1) * 100 ≤ capInForce sPt.cap * 98) ∧
    (sPt.boot.powered = true ∧ sPt.boot.shut = false ∧ List.length rdg3.predicted = 21 ∧ (sPt.cap.evalAt = Option.none ∨ ∃ e, sPt.cap.evalAt = Option.some e ∧ e + 20 * us ≤ sPt.now) ∧ rdg3.mean ≤ capInForce sPt.cap ∧ nth 0 rdg3.predicted ((sPt.power.fabric - 1600) / 25) ≤ capInForce sPt.cap ∧ ¬nth 0 rdg3.predicted ((sPt.power.capFreq - 1600) / 25 + 1) * 100 ≤ capInForce sPt.cap * 98) :=
  ⟨by decide +kernel, by decide +kernel, by decide +kernel, by decide +kernel⟩

theorem witness_ClockInForce_ClockLimiters :
    (sPt.boot.powered = true ∧ sPt.boot.shut = false ∧ 1600 < sPt.power.fabric) ∧
    (sPt.boot.powered = true ∧ sPt.boot.shut = false ∧ warnAbove (sensorNo Sensor.hbm) = Option.some 85 ∧ sPt.boot.stage ≠ 1 ∧ 85 < 90 ∧ nth 0 sPt.power.maxC (sensorNo Sensor.hbm) ≤ 85 ∧ sPt.power.warnFreq = 2100 ∧ 1600 ≤ sPt.power.fabric ∧ sPt.power.thermState = 0) ∧
    (sPt.boot.powered = true ∧ sPt.boot.shut = false ∧ 360 ≤ BitVec.toNat 380#12 ∧ BitVec.toNat 380#12 < 400 ∧ sPt.power.inputLow = false) ∧
    (w30_8.boot.powered = true ∧ w30_8.boot.shut = false ∧ w30_8.power.fabric ≤ 1600) ∧
    (w30_8.boot.powered = true ∧ w30_8.boot.shut = false ∧ w30_8.power.droopFreq < 2100 ∧ w30_8.power.droopAt + 10 * us ≤ w30_8.now) ∧
    (w30_8.boot.powered = true ∧ w30_8.boot.shut = false ∧ w30_8.power.trip = true ∧ w30_8.power.tripAt + 100 * ms ≤ w30_8.now) ∧
    (w30_8.boot.powered = true ∧ w30_8.boot.shut = false ∧ 400 ≤ BitVec.toNat 400#12) ∧
    (w30_9.boot.powered = true ∧ w30_9.boot.shut = false ∧ warnAbove (sensorNo Sensor.hbm) = Option.some 85 ∧ w30_9.boot.stage ≠ 1 ∧ 85 < 90 ∧ 85 < nth 0 w30_9.power.maxC (sensorNo Sensor.hbm) ∧ w30_9.power.warnFreq < 2100 ∧ w30_9.now < w30_9.power.warnAt + 100 * us) ∧
    (w30_10.boot.powered = true ∧ w30_10.boot.shut = false ∧ w30_10.boot.stage ≠ 1 ∧ tripAbove (sensorNo Sensor.hbm) < 99 ∧ w30_10.power.trip = false) ∧
    (w30_10.boot.powered = true ∧ w30_10.boot.shut = false ∧ w30_10.power.trip = false ∧ w30_10.power.warnFreq < 2100 ∧ w30_10.power.warnAt + ms ≤ w30_10.now) :=
  ⟨by decide +kernel, by decide +kernel, by decide +kernel, by decide +kernel, by decide +kernel, by decide +kernel,
    by decide +kernel, by decide +kernel, by decide +kernel, by decide +kernel⟩

theorem witness_ReferenceClocksAndSupply_CoolantAndInput :
    (sPt.boot.powered = true ∧ ¬(200 ≤ BitVec.toNat 500#12 ∧ BitVec.toNat 500#12 ≤ 400 ∧ 200 ≤ BitVec.toNat 100#12)) ∧
    (sPt.boot.powered = true ∧ 600 < BitVec.toNat 601#12) ∧
    (sPt.boot.powered = true ∧ 200 ≤ BitVec.toNat 300#12 ∧ BitVec.toNat 300#12 ≤ 400 ∧ 200 ≤ BitVec.toNat 300#12) :=
  ⟨by decide +kernel, by decide +kernel, by decide +kernel⟩

end B30

namespace B31

def sOff : State := State.reset
def fws (a b : Option (Nat × BitVec 32)) : State := { sOff with fw := { sOff.fw with copies := [a, b], fusedMin := 2 } }
def stp : Straps := ⟨true, false, 3, true⟩
def sOn : State := { jobS with now := 2000000000, boot := { jobS.boot with modEn := true, vatZeroed := false } }
def fw8 : State := { sOn with fw := { sOn.fw with active := true, size := 8, data := leBytes 8 0 } }
def sP : State := { sOn with own := { owned := true, slot := 2, leaseEnd := 2000000001 }, ras := { sOn.ras with rails := [3,3] }, ring := { sOn.ring with leaving := true } }
def w31_0 : State := (fws (some (2,1)) (some (3,2)))
def w31_1 : State := (fws none (some (3,2)))
def w31_2 : State := (fws (some (1,1)) none)
def w31_3 : State := { sOn with boot := { sOn.boot with stage := 3 } }
def w31_4 : State := { sOn with panel := { sOn.panel with removal := 2, byLever := true } }
def w31_6 : State := { sOn with boot := { sOn.boot with stage := 3 } }
def w31_8 : State := { sOn with boot := { sOn.boot with stage := 3 }, ras := { sOn.ras with failedStacks := 4 } }
def w31_10 : State := { fw8 with fw := {fw8.fw with size := 16 } }
def w31_11 : List Byte := (leBytes 8 0x0546000A05780600)
def w31_14 : State := { sP with boot := { sP.boot with shutHeat := true } }

theorem witness_PowerUpAndLoss_ColdPowerUp :
    (w31_0.boot.powered = false ∧ w31_0.boot.stage = 1 ∧ w31_0.fw.copies = [Option.some (2, 1), Option.some (3, 2)] ∧ w31_0.fw.fusedMin ≤ (2, 1).1 ∧ w31_0.fw.fusedMin ≤ (3, 2).1) ∧
    (w31_1.boot.powered = false ∧ w31_1.boot.stage = 1 ∧ w31_1.fw.copies = [Option.none, Option.some (3, 2)] ∧ w31_1.fw.fusedMin ≤ (3, 2).1) ∧
    (w31_2.boot.powered = false ∧ w31_2.boot.stage = 1 ∧ w31_2.fw.copies = [Option.some (1, 1), Option.none] ∧ (1, 1).1 < w31_2.fw.fusedMin) :=
  ⟨by decide +kernel, by decide +kernel, by decide +kernel⟩

theorem witness_PowerUpAndLoss_PowerLoss :
    (sOn.boot.modEn = true) ∧
    (sOn.boot.powered = true) :=
  ⟨by decide +kernel, by decide +kernel⟩

theorem witness_WarmReset :
    (isReady sOn = true ∧ sOn.panel.removal ≠ 1) ∧
    (w31_3.boot.stage ≠ 4 ∧ w31_3.panel.removal = 0) ∧
    (w31_4.boot.powered = true ∧ w31_4.boot.shut = false ∧ w31_4.panel.removal = 2 ∧ w31_4.panel.byLever = true ∧ w31_4.panel.latchClosed = true ∧ w31_4.panel.latchSince + 1000 * ms ≤ w31_4.now) :=
  ⟨by decide +kernel, by decide +kernel, by decide +kernel⟩

theorem witness_BringUp :
    (sOn.boot.powered = true ∧ sOn.boot.shut = false ∧ List.length sOn.hosts = 4) ∧
    (sOn.boot.powered = true ∧ sOn.boot.shut = false ∧ sOn.boot.stage = 4 ∧ sOn.boot.vatZeroed = false) ∧
    (w31_6.boot.powered = true ∧ w31_6.boot.shut = false ∧ w31_6.boot.stage = 3 ∧ w31_6.panel.removal = 0 ∧ w31_6.ras.failedStacks = 0) ∧
    (w31_6.boot.powered = true ∧ w31_6.boot.shut = false ∧ w31_6.boot.stage = 3 ∧ 2 ≤ 4 ∧ 4 ≠ 5) ∧
    (w31_8.boot.powered = true ∧ w31_8.boot.shut = false ∧ w31_8.boot.stage = 3 ∧ w31_8.ras.failedStacks ≠ 0) :=
  ⟨by decide +kernel, by decide +kernel, by decide +kernel, by decide +kernel, by decide +kernel⟩

theorem witness_FirmwareUpdate :
    (sOn.boot.powered = true ∧ sOn.boot.stage = 4 ∧ sOn.fw.active = false ∧ BitVec.toNat 16#25 % 8 = 0 ∧ BitVec.toNat 16#25 ≤ 2 ^ 24) ∧
    (w31_10.boot.powered = true ∧ w31_10.boot.stage = 4 ∧ w31_10.fw.active = true ∧ List.length w31_10.fw.data + 8 ≤ w31_10.fw.size) :=
  ⟨by decide +kernel, by decide +kernel⟩

theorem witness_ManagementAndPanel_ManagementPort :
    (sOn.boot.powered = true ∧ List.length w31_11 = 8 ∧ (sOn.mgmt.smbus = true → true = true)) ∧
    (sOn.boot.powered = true ∧ (List.length w31_11 = 8 ∧ (sOn.mgmt.smbus = true → true = true)) ∧ sOn.fw.active = false ∧ BitVec.toNat (BitVec.ofNat 64 (leNat w31_11)) % 4 = 0) ∧
    (sOn.boot.powered = true ∧ 0 ∈ [0, 8, 16, 24, 32, 64, 264, 272, 280, 296, 392, 520, 768]) ∧
    (sOn.boot.powered = true ∧ (1 % 8 ≠ 0 ∨ List.length w31_11 ≠ 8 ∨ sOn.mgmt.smbus = true ∧ true = false)) ∧
    (sOn.boot.powered = true ∧ sOn.mgmt.smbus = false) :=
  ⟨by decide +kernel, by decide +kernel, by decide +kernel, by decide +kernel, by decide +kernel⟩

theorem witness_ManagementAndPanel_ServicePanel :
    (sP.boot.powered = true ∧ sP.boot.shut = false ∧ sP.panel.removal = 0) ∧
    (sP.boot.powered = true ∧ sP.boot.shut = false ∧ sP.panel.leverMoved = false ∧ sP.panel.latchClosed = true) ∧
    (sP.boot.powered = true ∧ sP.boot.shut = false ∧ ∃ r ∈ sP.ras.rails, 2 ≤ List.count r sP.ras.rails) ∧
    (sP.boot.powered = true ∧ sP.boot.shut = false ∧ sP.panel.latchClosed ≠ false) ∧
    (sP.boot.powered = true ∧ sP.boot.shut = false ∧ OwnerAnswers sP 2) ∧
    (sP.boot.powered = true ∧ sP.boot.shut = false ∧ sP.ring.leaving = true ∧ sP.panel.removal = 0 ∧ sP.boot.stage = 4) ∧
    (sP.boot.powered = true ∧ sP.boot.shut = false ∧ sP.boot.stage ≠ 1 ∧ shutAbove (sensorNo Sensor.hbm) < 120 ∧ sP.boot.shutHeat = false ∧ sP.panel.removal ≠ 2) ∧
    (w31_14.boot.powered = true ∧ w31_14.boot.shut = false ∧ w31_14.boot.shutHeat = true) :=
  ⟨by decide +kernel, by decide +kernel, by decide +kernel, by decide +kernel, by decide +kernel, by decide +kernel,
    by decide +kernel, by decide +kernel⟩

end B31

namespace B32

def own : State := { jobS with now := 2000000000, own := { owned := true, slot := 2, nonce := 55, leaseEnd := 2000000001 }
                               power := { jobS.power with refHost := [true, true] }, boot := { jobS.boot with perst := [false, false] } }
def ooff := { own with boot := { own.boot with stage := 3 } }
def pg := { own with tiers := { own.tiers with pages := [(3, ⟨.near 5, 7, false⟩)] } }
def svj : SavedJob := { ctl := { id := 9 }, ctx := List.replicate 4 {} }
def w32_0 : State := {own with jobc := {}}
def w32_1 : State := {own with jobc := {st := 1}}
def w32_2 : State := { own with own := { own.own with handover := true, target := 1, handoverEnd := 3000000000 } }
def w32_3 : State := { own with own := {own.own with leaseEnd := 5 } }
def w32_4 : State := { own with own := {own.own with handover := true, target := 1 } }
def w32_5 : State := { own with own := { own.own with handover := true, target := 1, handoverEnd := 3000000000 } }
def w32_6 : State := { own with hosts := (List.range 4).map fun _ => {} }
def w32_7 : Option (Fin 4) := (none : Option (Fin 4))
def w32_9 : List Byte := (List.replicate 64 7)
def w32_10 : State := {own with jobc := {}}
def w32_11 : List Byte := (List.replicate 64 7)
def w32_13 : State := {own with jobc := {}}
def w32_14 : State := {own with jobc := {}}
def w32_15 : State := {own with jobc := {st := 6}}
def w32_16 : State := {own with jobc := {}}
def w32_17 : State := {own with jobc := {}, saved := [svj]}
def w32_18 : State := {own with jobc := {st := 5, id := 7}, cm := [(5, 1), (0x600001, 4)]}

theorem witness_HostWrites_HostWriteOrder :
    (Settled ooff ∧ (getHost ooff 1).present = true ∧ 4194328 + 8 ≤ 67108864 ∧ isReady ooff = false) ∧
    (Settled own ∧ (getHost own 1).present = true ∧ 4194328 + 4 ≤ 67108864 ∧ isReady own = true ∧ ¬(4 = 8 ∧ 4194328 % 8 = 0)) ∧
    (Settled own ∧ (getHost own 1).present = true ∧ 4194336 + 8 ≤ 67108864 ∧ (isReady own = true ∧ (8 = 8 ∧ 4194336 % 8 = 0) ∧ (4194336 < 2621440 ∨ 3145728 ≤ 4194336)) ∧ regAt own true 4194336 = Option.none) ∧
    (Settled own ∧ (getHost own 1).present = true ∧ 4194328 + 8 ≤ 67108864 ∧ (isReady own = true ∧ (8 = 8 ∧ 4194328 % 8 = 0) ∧ (4194328 < 2621440 ∨ 3145728 ≤ 4194328)) ∧ Option.isSome (regAt own true 4194328) = true ∧ regKind 4194328 = Option.some (true, 1023) ∧ ¬(own.own.owned = true ∧ own.own.slot = 1)) ∧
    (Settled own ∧ (getHost own 2).present = true ∧ 4194304 + 8 ≤ 67108864 ∧ (isReady own = true ∧ (8 = 8 ∧ 4194304 % 8 = 0) ∧ (4194304 < 2621440 ∨ 3145728 ≤ 4194304)) ∧ Option.isSome (regAt own true 4194304) = true ∧ regKind 4194304 = Option.none) ∧
    (Settled own ∧ (getHost own 2).present = true ∧ 4194328 + 8 ≤ 67108864 ∧ (isReady own = true ∧ (8 = 8 ∧ 4194328 % 8 = 0) ∧ (4194328 < 2621440 ∨ 3145728 ≤ 4194328)) ∧ Option.isSome (regAt own true 4194328) = true ∧ regKind 4194328 = Option.some (true, 1023) ∧ (true = true → own.own.owned = true ∧ own.own.slot = 2) ∧ (regDo own 2 4194328 (5 &&& 1023)).1 = Option.some 1#16) ∧
    (Settled own ∧ (getHost own 2).present = true ∧ 4194328 + 8 ≤ 67108864 ∧ (isReady own = true ∧ (8 = 8 ∧ 4194328 % 8 = 0) ∧ (4194328 < 2621440 ∨ 3145728 ≤ 4194328)) ∧ Option.isSome (regAt own true 4194328) = true ∧ regKind 4194328 = Option.some (true, 1023) ∧ (true = true → own.own.owned = true ∧ own.own.slot = 2) ∧ (regDo own 2 4194328 (50 &&& 1023)).1 = Option.none) ∧
    (Settled own ∧ (getHost own 2).present = true ∧ 67108864 < 67108860 + 8) :=
  ⟨by decide +kernel, by decide +kernel, by decide +kernel, by decide +kernel, by decide +kernel, by decide +kernel,
    by decide +kernel, by decide +kernel⟩

theorem witness_JobsStartAndEnd_JobStarts :
    (OwnerAnswers w32_0 2 ∧ startBad w32_0 (BitVec.toNat 9#16) 3 false = Option.some 2312#16 ∧ 2312#16 ≠ w32_0.jobc.lastStatus) ∧
    (OwnerAnswers w32_1 2 ∧ w32_1.ras.failedStacks = 0 ∧ w32_1.jobc.st ≠ 0) ∧
    (OwnerAnswers w32_1 2 ∧ w32_1.jobc.st = 1 ∧ BitVec.toNat 2049#16 / 256 ≤ 11 ∧ BitVec.toNat 2049#16 % 256 ≠ 0) ∧
    (OwnerAnswers w32_13 2 ∧ startBad w32_13 (BitVec.toNat 9#16) 3 true = Option.none ∧ w32_13.jobc.lastStatus = 0) ∧
    (OwnerAnswers w32_14 2 ∧ w32_14.ras.failedStacks = 0 ∧ w32_14.jobc.st = 0 ∧ 0#16 = 0) ∧
    (OwnerAnswers w32_15 2 ∧ w32_15.jobc.st = 6) :=
  ⟨by decide +kernel, by decide +kernel, by decide +kernel, by decide +kernel, by decide +kernel, by decide +kernel⟩

theorem witness_HostWrites_HostRegisters :
    (Answers own 2 ∧ (own.own.owned = true ∧ own.own.slot = 2) ∧ 20 ≤ 50 ∧ 50 ≤ 1000) ∧
    (Answers own 2 ∧ 50 < 2 ^ 42 ∧ 50 / 2 ^ 16 % 2 = 0) ∧
    (Answers own 2 ∧ (own.own.owned = true ∧ own.own.slot = 2) ∧ 50 < 2 ^ 12) ∧
    (Answers own 2 ∧ 50 < 2 ^ 8) ∧
    (Answers own 2 ∧ 5 + 5 ≤ 67108864 ∧ ¬(5 = 8 ∧ 5 % 8 = 0 ∨ 5 = 4 ∧ 5 % 4 = 0)) ∧
    (Answers own 2 ∧ (own.own.owned = true ∧ own.own.slot = 2) ∧ 1000 < 1010 ∧ 1010 < 1024) ∧
    (Answers own 2 ∧ (8 = 8 ∧ 8 % 8 = 0 ∨ 8 = 4 ∧ 8 % 4 = 0)) ∧
    (Answers own 2 ∧ 65536 % 2 ^ 17 = 2 ^ 16 ∧ 65536 < 2 ^ 42) ∧
    (Answers own 2 ∧ (own.own.owned = true ∧ own.own.slot = 2) ∧ 3 = 3) :=
  ⟨by decide +kernel, by decide +kernel, by decide +kernel, by decide +kernel, by decide +kernel, by decide +kernel,
    by decide +kernel, by decide +kernel, by decide +kernel⟩

theorem witness_OwnershipClaim :
    (Answers own 2 ∧ 55#64 ≠ 0 ∧ own.own.owned = true ∧ own.own.slot = 2 ∧ own.own.nonce = 55#64) ∧
    (Answers own 2 ∧ 0#64 = 0) ∧
    (Answers own 1 ∧ 3#64 ≠ 0 ∧ own.own.owned = true ∧ ¬(own.own.slot = 1 ∧ own.own.nonce = 3#64) ∧ ¬(own.own.handover = true ∧ own.own.target = 1)) ∧
    (Answers w32_2 1 ∧ 3#64 ≠ 0 ∧ w32_2.own.owned = true ∧ ¬(w32_2.own.slot = 1 ∧ w32_2.own.nonce = 3#64) ∧ w32_2.own.handover = true ∧ w32_2.own.target = 1) ∧
    (Answers ({ pending := own.pending, free := own.free, now := own.now, cm := own.cm, boot := own.boot, fw := own.fw, mgmt := own.mgmt, panel := own.panel, ras := own.ras, power := own.power, cap := own.cap, raler := own.raler, hosts := own.hosts, snap := own.snap, jobc := own.jobc, job := own.job, saved := own.saved, wins := own.wins, tiers := own.tiers, recs := own.recs, limits := own.limits, counts := own.counts, dies := own.dies, remapLog := own.remapLog, hours := own.hours, ring := own.ring, sep := own.sep, adm := own.adm } : State) 1 ∧ 3#64 ≠ 0 ∧ ({ pending := own.pending, free := own.free, now := own.now, cm := own.cm, boot := own.boot, fw := own.fw, mgmt := own.mgmt, panel := own.panel, ras := own.ras, power := own.power, cap := own.cap, raler := own.raler, hosts := own.hosts, snap := own.snap, jobc := own.jobc, job := own.job, saved := own.saved, wins := own.wins, tiers := own.tiers, recs := own.recs, limits := own.limits, counts := own.counts, dies := own.dies, remapLog := own.remapLog, hours := own.hours, ring := own.ring, sep := own.sep, adm := own.adm } : State).own.owned = false) :=
  ⟨by decide +kernel, by decide +kernel, by decide +kernel, by decide +kernel, by decide +kernel⟩

theorem witness_HeartbeatRenewsLease :
    (Answers own 2 ∧ own.own.owned = true ∧ own.own.slot = 2 ∧ own.own.nonce = 55#64) ∧
    (Answers own 1 ∧ ¬(own.own.owned = true ∧ own.own.slot = 1 ∧ own.own.nonce = 55#64)) :=
  ⟨by decide +kernel, by decide +kernel⟩

theorem witness_LeaseAndHandover_LeaseEnds :
    (own.own.owned = true ∧ own.now < own.own.leaseEnd) ∧
    (own.own.owned = true ∧ own.own.slot = 2 ∧ (getHost own 2).present = true) ∧
    (Answers own 2 ∧ own.own.owned = true ∧ own.own.slot = 2 ∧ own.own.nonce = 55#64) ∧
    (w32_3.own.owned = true ∧ w32_3.own.leaseEnd ≤ w32_3.now) ∧
    (Answers own 1 ∧ ¬(own.own.owned = true ∧ own.own.slot = 1 ∧ own.own.nonce = 55#64)) :=
  ⟨by decide +kernel, by decide +kernel, by decide +kernel, by decide +kernel, by decide +kernel⟩

theorem witness_LeaseAndHandover_Handover :
    (OwnerAnswers own 2 ∧ 1 ≠ 2 ∧ (getHost own 1).present = true) ∧
    (OwnerAnswers own 2 ∧ w32_4.own.handover = true ∧ w32_4.own.handoverEnd ≤ w32_4.now) ∧
    (OwnerAnswers w32_5 2 ∧ (2 = 2 ∨ (getHost w32_5 2).present = false)) ∧
    (OwnerAnswers w32_5 2 ∧ w32_5.own.handover = true) :=
  ⟨by decide +kernel, by decide +kernel, by decide +kernel, by decide +kernel⟩

theorem witness_SlotsSnapshotAperture_SlotsAndSnapshot :
    (w32_6.boot.powered = true ∧ w32_6.boot.shut = false ∧ slotExists w32_6 2 = true ∧ nth true w32_6.boot.perst (2 / 2) = false ∧ List.length w32_6.boot.perst = 2 ∧ nth false w32_6.power.refHost (2 / 2) = true ∧ 8 = 8 ∧ 1 ≤ 4 ∧ 4 ≤ 6 ∧ (getHost w32_6 2).present = false ∧ (getHost w32_6 2).buf = []) ∧
    (w32_6.boot.powered = true ∧ w32_6.boot.shut = false ∧ w32_6.boot.stage = 4 ∧ BitVec.toNat w32_6.snap.time + ms ≤ w32_6.now) :=
  ⟨by decide +kernel, by decide +kernel⟩

theorem witness_ProgramQueueDoorbell :
    (OwnerAnswers own 2 ∧ BitVec.toNat (5#32 - (nth { } own.raler.pq 1).head) ≤ 2 ^ (nth { } own.raler.pq 1).size ∧ w32_7 ∈ [Option.none, Option.some 2]) ∧
    (OwnerAnswers own 2 ∧ 2 ^ (nth { } own.raler.pq 1).size < BitVec.toNat (257#32 - (nth { } own.raler.pq 1).head)) :=
  ⟨by decide +kernel, by decide +kernel⟩

theorem witness_DoorbellPage :
    (OwnerAnswers own 2 ∧ own.jobc.st = 1 ∧ BitVec.toNat (3#32 - BitVec.ofNat 32 (leNat (Mem.readN own.cm (getHost own 2).rqBase 4))) ≤ 32) ∧
    (OwnerAnswers own 2 ∧ own.jobc.st = 1 ∧ 64 % 64 + List.length w32_9 ≤ 64 ∧ 64 % 4 = 0 ∧ List.length w32_9 % 4 = 0 ∧ w32_9 ≠ [] ∧ 64 < 2048) ∧
    (OwnerAnswers own 2 ∧ 64 % 8 = 0 ∧ 64 < 524288 ∧ 99 < 2 ^ 64) ∧
    (OwnerAnswers own 2 ∧ 1 ≠ 2 ∧ (getHost own 1).present = true ∧ 64 % 8 = 0 ∧ 64 < 524288) ∧
    (OwnerAnswers w32_10 2 ∧ w32_10.jobc.st ≠ 1 ∧ List.length w32_11 = 64 ∧ 64 % 64 = 0 ∧ 64 < 2048) ∧
    (OwnerAnswers own 2 ∧ own.jobc.st = 1 ∧ 32 < BitVec.toNat (33#32 - BitVec.ofNat 32 (leNat (Mem.readN own.cm (getHost own 2).rqBase 4)))) :=
  ⟨by decide +kernel, by decide +kernel, by decide +kernel, by decide +kernel, by decide +kernel, by decide +kernel⟩

theorem witness_SlotsSnapshotAperture_MemoryAperture :
    (OwnerAnswers pg 2 ∧ 3 * 2 ^ 21 + 64 + 8 ≤ 2 ^ 36 ∧ 3 * 2 ^ 21 + 64 + List.length [1, 2, 3] ≤ 2 ^ 36 ∧ ((pg.jobc.st = 1 ∨ pg.jobc.st = 2) ∧ ∀ p ∈ pagesOf (pg.tiers.aperture * 2 ^ 36 + (3 * 2 ^ 21 + 64)) 8, (getPage pg p).job = pg.jobc.id ∧ (match (getPage pg p).st with | PState.unmapped => false | PState.absent backing => false | x => true) = true) ∧ pagesPoisoned pg (pagesOf (pg.tiers.aperture * 2 ^ 36 + (3 * 2 ^ 21 + 64)) 8) = false) ∧
    (OwnerAnswers pg 2 ∧ 3 * 2 ^ 21 + 64 + 8 ≤ 2 ^ 36 ∧ 3 * 2 ^ 21 + 64 + List.length [1, 2, 3] ≤ 2 ^ 36 ∧ (pg.jobc.st = 1 ∨ pg.jobc.st = 2) ∧ ∀ p ∈ pagesOf (pg.tiers.aperture * 2 ^ 36 + (3 * 2 ^ 21 + 64)) (List.length [1, 2, 3]), (getPage pg p).job = pg.jobc.id ∧ (match (getPage pg p).st with | PState.unmapped => false | PState.absent backing => false | x => true) = true) ∧
    (OwnerAnswers pg 2 ∧ 3 * 2 ^ 21 + 64 + 8 ≤ 2 ^ 36 ∧ 3 * 2 ^ 21 + 64 + List.length [1, 2, 3] ≤ 2 ^ 36 ∧ 1 ≠ 2 ∧ (getHost pg 1).present = true) ∧
    (OwnerAnswers ({ pending := pg.pending, free := pg.free, now := pg.now, cm := pg.cm, boot := pg.boot, fw := pg.fw, mgmt := pg.mgmt, panel := pg.panel, ras := pg.ras, power := pg.power, cap := pg.cap, raler := pg.raler, hosts := pg.hosts, own := pg.own, snap := pg.snap, job := pg.job, saved := pg.saved, wins := pg.wins, tiers := pg.tiers, recs := pg.recs, limits := pg.limits, counts := pg.counts, dies := pg.dies, remapLog := pg.remapLog, hours := pg.hours, ring := pg.ring, sep := pg.sep, adm := pg.adm } : State) 2 ∧ 3 * 2 ^ 21 + 64 + 8 ≤ 2 ^ 36 ∧ 3 * 2 ^ 21 + 64 + List.length [1, 2, 3] ≤ 2 ^ 36 ∧ ({ pending := pg.pending, free := pg.free, now := pg.now, cm := pg.cm, boot := pg.boot, fw := pg.fw, mgmt := pg.mgmt, panel := pg.panel, ras := pg.ras, power := pg.power, cap := pg.cap, raler := pg.raler, hosts := pg.hosts, own := pg.own, snap := pg.snap, job := pg.job, saved := pg.saved, wins := pg.wins, tiers := pg.tiers, recs := pg.recs, limits := pg.limits, counts := pg.counts, dies := pg.dies, remapLog := pg.remapLog, hours := pg.hours, ring := pg.ring, sep := pg.sep, adm := pg.adm } : State).jobc.st = 0) :=
  ⟨by decide +kernel, by decide +kernel, by decide +kernel, by decide +kernel⟩

theorem witness_JobsStartAndEnd_JobEnds :
    (OwnerAnswers own 2 ∧ (own.jobc.st = 1 ∨ own.jobc.st = 2) ∧ own.jobc.id = BitVec.toNat 7#16) ∧
    (OwnerAnswers own 2 ∧ own.jobc.st = 1) ∧
    (OwnerAnswers w32_16 2 ∧ w32_16.jobc.st = 0 ∧ w32_16.saved = []) ∧
    (OwnerAnswers w32_17 2 ∧ w32_17.jobc.st = 0 ∧ w32_17.saved = [svj] ∧ svj.ctl.id = BitVec.toNat 9#16) ∧
    (OwnerAnswers w32_18 2 ∧ 3 ≤ w32_18.jobc.st) ∧
    (OwnerAnswers w32_18 2 ∧ w32_18.jobc.st = 5 ∧ ∀ w ∈ w32_18.wins, w.opened = true → w.job ≠ w32_18.jobc.id) :=
  ⟨by decide +kernel, by decide +kernel, by decide +kernel, by decide +kernel, by decide +kernel, by decide +kernel⟩

end B32

namespace B33

def rs : State := { jobS with now := 200000000000, own := { owned := true, slot := 2, nonce := 55, leaseEnd := 2000000000001 } }
def rn : State := { rs with jobc := {} }
def lr (b : Nat) : State := { rs with ring := {rs.ring with ports := rs.ring.ports.set 3 {st := 0, retired := 32}}, ras := {rs.ras with busy := b, ctrl := 1 + 8 * 3 + 64 * 5, testing := b == 2}}
def w33_0 : State := { rs with job := {rs.job with grid := {rs.job.grid with timers := [{running := true}]}}}
def w33_1 : State := { rn with dies := [{held := false}, {}]}
def w33_2 : State := { rn with ras := {rn.ras with testing := true} }
def w33_3 : State := {rs with ras := {rs.ras with pool := [0]}}
def w33_4 : State := {rs with ras := {rs.ras with retiring := [6,7]}}
def w33_5 : State := {rs with ras := {rs.ras with age := rs.ras.age.set 21 {spare := 3}}}
def w33_6 : State := {rs with ras := {rs.ras with chans := rs.ras.chans.set 46 ⟨2, 5, 5⟩}}
def w33_7 : State := {rs with adm := {rs.adm with reqs := [{svc := 0, slot := 0, host := 0, desc := [], job := 7}] } }
def w33_9 : State := {rs with raler := {rs.raler with spareUsed := true}}
def w33_10 : State := {rs with raler := {rs.raler with spareUsed := true, ctx := rs.raler.ctx.set 4 {st := 1}}}
def w33_11 : State := {lr 0 with ring := {rs.ring with ports := rs.ring.ports.set 3 {st := 2, retired := 32}}}
def w33_12 : State := {lr 0 with now := 3600*1000*1600000*25, own := {owned := true, slot := 2, leaseEnd := 3600*1000*1600000*26}}
def w33_15 : State := {rs with now := 3600*1000*1600000*2}
def w33_18 : State := {rs with now := 3600*1000*1600000*2}
def w33_19 : State := {rs with raler := {rs.raler with ctx := rs.raler.ctx.set 2 {st := 1}}}
def w33_20 : State := {rs with raler := {rs.raler with ctx := rs.raler.ctx.set 2 {st := 1}}}
def w33_21 : State := {rs with raler := {rs.raler with ctx := rs.raler.ctx.set 7 {st := 1}}}

theorem witness_UnitFaults :
    (isReady w33_0 = true ∧ jobRuns w33_0 = true ∧ (nth { } w33_0.job.grid.timers 0).running = true ∧ (nth { } w33_0.job.grid.timers 0).replay = false ∧ w33_0.job.ckpt = Option.none) ∧
    (isReady w33_0 = true ∧ w33_0.jobc.st = 1 ∧ w33_0.job.ckpt = Option.none ∧ w33_0.ras.testing = false) ∧
    (isReady w33_0 = true ∧ OwnerAnswers w33_0 2 ∧ w33_0.ras.busy = 0 ∧ w33_0.jobc.st = 1 ∧ w33_0.job.ckpt = Option.none ∧ w33_0.ras.testing = false) ∧
    (isReady rn = true ∧ rn.jobc.st = 0 ∧ List.length rn.dies = 2 ∧ rn.ras.testing = false ∧ (nth { } rn.dies (dieOf 17)).held = true) ∧
    (isReady rn = true ∧ OwnerAnswers rn 2 ∧ rn.ras.busy = 0 ∧ rn.jobc.st ≠ 1) ∧
    (isReady w33_1 = true ∧ w33_1.jobc.st = 0 ∧ List.length w33_1.dies = 2 ∧ w33_1.ras.testing = false ∧ (nth { } w33_1.dies (dieOf 17)).held = false) ∧
    (isReady w33_2 = true ∧ w33_2.ras.testing = true ∧ (nth { } w33_2.dies (dieOf 17)).held = true ∧ w33_2.jobc.st ≠ 4) :=
  ⟨by decide +kernel, by decide +kernel, by decide +kernel, by decide +kernel, by decide +kernel, by decide +kernel,
    by decide +kernel⟩

theorem witness_RetirementAndReplacement_NearFramesRetire :
    (rs.boot.powered = true ∧ rs.boot.shut = false ∧ rs.boot.stage = 4 ∧ 7 < nearFrames ∧ List.contains rs.ras.retiring 7 = false ∧ nth 0 rs.ras.pool (7 / stackFrames) ≠ 0) ∧
    (w33_3.boot.powered = true ∧ w33_3.boot.shut = false ∧ w33_3.boot.stage = 4 ∧ 7 < nearFrames ∧ List.contains w33_3.ras.retiring 7 = false ∧ nth 0 w33_3.ras.pool (7 / stackFrames) = 0) ∧
    (w33_4.boot.powered = true ∧ w33_4.boot.shut = false ∧ w33_4.boot.stage = 4 ∧ 7 < nearFrames ∧ List.contains w33_4.ras.retiring 7 = true) :=
  ⟨by decide +kernel, by decide +kernel, by decide +kernel⟩

theorem witness_RetirementAndReplacement_VatChannelsAndStacks :
    (w33_5.boot.powered = true ∧ w33_5.boot.shut = false ∧ w33_5.boot.stage = 4 ∧ List.length w33_5.ras.chans = 96 ∧ (getChan w33_5 5).st = 0 ∧ (∀ (j : Fin 96), (getChan w33_5 ↑j).st ≠ 2) ∧ (getChan w33_5 46).st = 1 ∧ ∀ j < 46, (getChan w33_5 ↑j).st ≠ 1) ∧
    (w33_5.boot.powered = true ∧ w33_5.boot.shut = false ∧ w33_5.boot.stage = 4 ∧ List.length w33_5.ras.chans = 96 ∧ BitVec.getLsbD w33_5.ras.failedStacks 3 = false) ∧
    (w33_5.boot.powered = true ∧ w33_5.boot.shut = false ∧ w33_5.boot.stage = 4 ∧ List.length w33_5.ras.chans = 96 ∧ 4 ∉ w33_5.ras.rails) ∧
    (w33_5.boot.powered = true ∧ w33_5.boot.shut = false ∧ w33_5.boot.stage = 4 ∧ List.length w33_5.ras.chans = 96 ∧ OwnerAnswers w33_5 2 ∧ w33_5.ras.busy = 0 ∧ (getChan w33_5 5).st = 0 ∧ (nth { } w33_5.ras.age (20 + 5 / 4)).spare = 3 ∧ (∀ (j : Fin 96), (getChan w33_5 ↑j).st ≠ 2) ∧ (getChan w33_5 46).st = 1 ∧ ∀ j < 46, (getChan w33_5 ↑j).st ≠ 1) ∧
    (w33_5.boot.powered = true ∧ w33_5.boot.shut = false ∧ w33_5.boot.stage = 4 ∧ List.length w33_5.ras.chans = 96 ∧ OwnerAnswers w33_5 2 ∧ w33_5.ras.busy = 0 ∧ 96 ≤ 100) ∧
    (w33_6.boot.powered = true ∧ w33_6.boot.shut = false ∧ w33_6.boot.stage = 4 ∧ List.length w33_6.ras.chans = 96 ∧ ((getChan w33_6 46).st = 2 ∧ ∀ j < 46, (getChan w33_6 ↑j).st ≠ 2) ∧ (getChan w33_6 46).src = 5 ∧ 5 ≠ 46) :=
  ⟨by decide +kernel, by decide +kernel, by decide +kernel, by decide +kernel, by decide +kernel, by decide +kernel⟩

theorem witness_ProcessorsTablesAgeing_ProcessorsReplaced :
    (isReady w33_7 = true ∧ Sized w33_7 ∧ 2 ∉ w33_7.raler.out ∧ w33_7.raler.spareUsed = false) ∧
    (isReady w33_9 = true ∧ Sized w33_9 ∧ 2 ∉ w33_9.raler.out ∧ w33_9.raler.spareUsed = true ∧ (getCtx w33_9 (2 * 2)).st = 0 ∧ (getCtx w33_9 (2 * 2 + 1)).st = 0) ∧
    (isReady w33_10 = true ∧ Sized w33_10 ∧ 2 ∉ w33_10.raler.out ∧ w33_10.raler.spareUsed = true ∧ (getCtx w33_10 (2 * 2)).st ≠ 0 ∧ w33_10.jobc.st = 1) :=
  ⟨by decide +kernel, by decide +kernel, by decide +kernel⟩

theorem witness_ErrorControl :
    (OwnerAnswers (lr 0) 2 ∧ List.length (lr 0).ring.ports = 8 ∧ List.length (lr 0).dies = 2 ∧ (lr 0).ras.busy = 0 ∧ (getPort (lr 0) 3).st = 0 ∧ BitVec.getLsbD (getPort (lr 0) 3).retired 5 = true) ∧
    (OwnerAnswers (lr 0) 2 ∧ List.length (lr 0).ring.ports = 8 ∧ List.length (lr 0).dies = 2 ∧ (lr 0).ras.busy = 0 ∧ (nth { } (lr 0).dies 0).held = true) ∧
    (OwnerAnswers w33_11 2 ∧ List.length w33_11.ring.ports = 8 ∧ List.length w33_11.dies = 2 ∧ w33_11.ras.busy = 0 ∧ (getPort w33_11 3).st = 2) ∧
    (OwnerAnswers (lr 1) 2 ∧ List.length (lr 1).ring.ports = 8 ∧ List.length (lr 1).dies = 2 ∧ (lr 1).ras.busy ≠ 0) ∧
    (OwnerAnswers (lr 1) 2 ∧ List.length (lr 1).ring.ports = 8 ∧ List.length (lr 1).dies = 2 ∧ (lr 1).ras.busy = 1 ∧ (lr 1).ras.ctrl = BitVec.ofNat 64 (1 + 2 ^ 3 * 3 + 2 ^ 6 * 5) ∧ (lr 1).ras.opAt + 60000 * ms ≤ (lr 1).now ∧ 4 ≤ 12) ∧
    (OwnerAnswers (lr 1) 2 ∧ List.length (lr 1).ring.ports = 8 ∧ List.length (lr 1).dies = 2 ∧ (lr 1).ras.busy = 1 ∧ (lr 1).ras.ctrl = BitVec.ofNat 64 (1 + 2 ^ 3 * 3 + 2 ^ 6 * 5) ∧ (lr 1).ras.opAt + 60000 * ms ≤ (lr 1).now ∧ 12 < 14) ∧
    (OwnerAnswers (lr 2) 2 ∧ List.length (lr 2).ring.ports = 8 ∧ List.length (lr 2).dies = 2 ∧ (lr 2).ras.testing = true ∧ (lr 2).ras.busy = 2 ∧ (lr 2).ras.heldFaults = [] ∧ (nth { } (lr 2).dies 0).held = true) ∧
    (OwnerAnswers w33_12 2 ∧ List.length w33_12.ring.ports = 8 ∧ List.length w33_12.dies = 2 ∧ w33_12.ras.testHour + 24 ≤ poweredHours w33_12 ∧ (nth { } w33_12.dies 0).held = true) :=
  ⟨by decide +kernel, by decide +kernel, by decide +kernel, by decide +kernel, by decide +kernel, by decide +kernel,
    by decide +kernel, by decide +kernel⟩

theorem witness_ProcessorsTablesAgeing_TablesAndAgeing :
    (isReady rs = true ∧ (getSeq rs 5).st = 0) ∧
    (isReady rs = true ∧ poweredHours rs ≤ (nth { } rs.ras.age 6).updated) ∧
    (isReady w33_15 = true ∧ (nth { } w33_15.ras.age 6).updated < poweredHours w33_15 ∧ List.length w33_15.ras.age = 64 ∧ 6 < 8) ∧
    (isReady w33_18 = true ∧ (nth { } w33_18.ras.age 9).updated < poweredHours w33_18 ∧ List.length w33_18.ras.age = 64 ∧ 8 ≤ 9) ∧
    (isReady w33_19 = true ∧ (getCtx w33_19 2).st ≠ 0 ∧ cmAllows 2 (BitVec.toNat 512#23) 1 = true ∧ Sized w33_19 ∧ BitVec.toNat 512#23 < jobAreaEnd ∧ w33_19.jobc.st = 1) ∧
    (isReady w33_20 = true ∧ ((getCtx w33_20 2).st = 0 ∨ cmAllows 2 (BitVec.toNat 8388600#23) 1 = false)) ∧
    (isReady w33_21 = true ∧ (getCtx w33_21 7).st ≠ 0 ∧ cmAllows 7 (BitVec.toNat 7340040#23) 1 = true ∧ Sized w33_21 ∧ jobAreaEnd ≤ BitVec.toNat 7340040#23) :=
  ⟨by decide +kernel, by decide +kernel, by decide +kernel, by decide +kernel, by decide +kernel, by decide +kernel,
    by decide +kernel⟩

end B33

namespace B34

def pln : Plan := { valid := true, index := 0, lengths := 3, id := 9, pts := [{ cfg := BitVec.ofNat 64 (5 + 2^8 + 3 * 2^33), rate := BitVec.ofNat 64 (100 + 2^12) }] ++ List.replicate 31 {} }
def prt : PortSt := { st := 2, identAt := some 5, farIndex := 1, share := [10, 11], credit := [(10, 50), (11, 50)] }
def ringS : State := { jobS with now := 2000000000, jobc := { jobS.jobc with ptEntry := 0 }, ring := { plan := pln, inForce := pln, ports := List.replicate 8 prt, buckets := [(0, {tokens := 16384, at_ := 0}), (32, {tokens := 16384, at_ := 0})] } }
def rxL : Rx := ⟨.loopback, 2, 5, false⟩
def rxP : Rx := ⟨.port 1 1, 2, 5, false⟩
def looped (b : Body) : State := { ringS with ring := { ringS.ring with loop := [⟨2, 0, 5, false, b⟩] } }
def rxX : Rx := ⟨.loopback, 2, 6, false⟩
def loopX (b : Body) : State := { ringS with ring := { ringS.ring with loop := [⟨2, 0, 6, false, b⟩] } }
def tg : RowTag := ⟨1, 2, 3, 4, 5, 6⟩
def wv : Window := { opened := true, gen := 4, cell := 3, region := 1, baseUnit := 0, units := 8, part := 5, free := 6, outstanding := 2, job := 7 }
def wS (v : Window) : State := { ringS with wins := ringS.wins.set 3 v }
def lW (v : Window) (b : Body) : State := { wS v with ring := { ringS.ring with loop := [⟨2, 0, 5, false, b⟩] } }
def ak (n : Nat) (r : Option Nat) : Ask := { who := .sender 2, dst := 2, part := 5, win := 3, gen := 4, n := n, retry := r }
def cf : Word := BitVec.ofNat 64 (1 + 3 * 2^3 + 1 * 2^12 + 8 * 2^15 + 2 * 2^27 + 3 * 2^35 + 4 * 2^41)
def sS (as : List Ask) (cr : Nat) : State := { wS wv with job := { ringS.job with asks := as, senders := ringS.job.senders.set 2 { cfg := cf, active := true, credit := cr } } }
def lS (as : List Ask) (b : Body) : State := { sS as 1 with ring := { ringS.ring with loop := [⟨2, 0, 5, false, b⟩] } }
def msgd (d : List Byte) : State := (rxTake ringS rxP (.msg d)).getD ringS
def full : State := { ringS with job := { ringS.job with inbox := List.replicate 64 (1, []) } }
def ctxw : State := setCtx ringS 2 { st := 2, waits := .msend 4 2 }

def cf2 : Word := BitVec.ofNat 64 (1 + 3 * 2^3 + 1 * 2^12 + 8 * 2^15 + 2 * 2^27 + 3 * 2^35 + 4 * 2^41)
def snS (x : Sender) (b : Body) : State := { lS [] b with job := { (sS [] 1).job with senders := (sS [] 1).job.senders.set 2 x } }
def sn0 (x : Sender) : State := { snS x (.close 3 4) with ring := ringS.ring }
def w34_0 : Frame := (⟨2, 0, 5, false, Body.msg [1]⟩ : Frame)
def w34_2 : State := (lW wv (.wreq 3 4 5 none))
def w34_3 : State := (lW {wv with closing := true} (.wreq 3 4 5 none))
def w34_4 : State := (wS {wv with closing := true})
def w34_5 : State := (lW {wv with gen := 9} (.wreq 3 4 5 none))
def w34_6 : State := (wS {wv with gen := 9})
def w34_7 : State := (lW wv (.wreturn 3 4 2))
def w34_8 : State := (lW wv (.wreturn 3 4 5))
def w34_9 : State := {lW wv (.close 3 4) with jobc := {}}
def w34_10 : State := {wS wv with jobc := {}}
def w34_11 : State := (lW wv (.write 3 4 512 [1,2,3]))
def w34_12 : State := (lW {wv with outstanding := 0} (.write 3 4 512 [1,2,3]))
def w34_13 : State := (wS {wv with outstanding := 0})
def w34_14 : State := (lW wv (.write 3 4 4096 [1,2,3]))
def w34_15 : State := (lW {wv with flip := true} (.add 3 4 512 (List.replicate 512 0)))
def w34_16 : State := (wS {wv with flip := true})
def w34_17 : List Byte := (List.replicate 512 0)
def w34_18 : State := (lW {wv with flip := true} (.add 3 4 64 (List.replicate 512 0)))
def w34_19 : State := (wS {wv with flip := true})
def w34_20 : List Byte := (List.replicate 512 0)
def w34_21 : State := (lS [ak 5 none] (.wgrant 3 4 5 0))
def w34_22 : State := (lS [ak 5 none] (.wgrant 3 4 0 0))
def w34_24 : State := (lS [] (.wgrant 3 4 5 0))
def w34_25 : State := (sS [ak 5 (some 8)] 0)
def w34_26 : State := (lS [] (.wnak 4 4 0 0x305))
def w34_27 : State := (lW wv (.marker 3 4 0 2 7 8 true))
def w34_28 : State := (lW {wv with closing := true} (.marker 3 4 0 2 7 8 true))
def w34_29 : State := (wS {wv with closing := true})
def w34_30 : State := {full with ring := (looped (.msg [1])).ring }
def w34_31 : State := {ctxw with ring := (looped (.msgnak 0x305)).ring }
def w34_32 : Instr × Body := ((.msg rxL [1,2], .msg [1,2]) : Instr × Body)
def w34_33 : State := (loopX (.msg [1, 2]))
def w34_34 : Instr × Body := ((.msg rxX [1,2], .msg [1,2]) : Instr × Body)
def w34_35 : State := { loopX (.msg []) with ring := ringS.ring }
def w34_36 : Rx := ⟨.port 1 5, 2, 5, false⟩
def w34_37 : State := (lS [] (.wnak 4 4 0 0x30C))
def w34_38 : State := (snS {cfg := cf2, active := true, credit := 1, pos := 3} (.wnak 3 4 512 0x30C))
def w34_39 : State := (sn0 {cfg := cf2, active := true, credit := 1, pos := 3})
def w34_42 : State := (sn0 {cfg := cf, active := true, credit := 1, pos := 3, redo := [2, 1]})
def w34_43 : State := {looped (.msg [1]) with jobc := {}}
def w34_44 : State := {ringS with jobc := {}}
def w34_45 : State := (looped (.lost Code.pathLost 7))

theorem witness_FrameReceipt :
    (List.length ringS.ring.ports = 8 ∧ rxP.via = Via.port 1 1#16 ∧ ((getPort ringS 1).st = 2 ∨ (getPort ringS 1).st = 4) ∧ 1#16 = (getPort ringS 1).rxSeq + 1) ∧
    (List.length (looped (Body.msg [1])).ring.ports = 8 ∧ rxL.via = Via.loopback ∧ (looped (Body.msg [1])).ring.loop = [w34_0] ∧ w34_0.src = rxL.src ∧ w34_0.part = rxL.part) ∧
    (List.length ringS.ring.ports = 8 ∧ w34_32 ∈ [(Instr.wreq rxL 3 (4#8) (5#8) Option.none, Body.wreq 3 (4#8) (5#8) Option.none), (Instr.wgrant rxL 3 4#8 5#8 10#16, Body.wgrant 3 4#8 5#8 10#16), (Instr.write rxL 3 4#8 512#21 [1, 2], Body.write 3 4#8 512#21 [1, 2]), (Instr.reduceFrame rxL 3 4#8 512#21 [1, 2], Body.add 3 4#8 512#21 [1, 2]), (Instr.ladleRow rxL 3 (4#8) (512#21) tg [1, 2], Body.row 3 (4#8) (512#21) tg [1, 2]), (Instr.ladleAnswer rxL 3 4#8 512#21 7#16 9#13 [1, 2], Body.answer 3 4#8 512#21 7#16 9#13 [1, 2]), (Instr.wnak rxL 3 4#8 512#21 10#16, Body.wnak 3 4#8 512#21 10#16), (Instr.wreturn rxL 3 4#8 5#8, Body.wreturn 3 4#8 5#8), (Instr.close rxL 3 4#8, Body.close 3 4#8), (Instr.marker rxL 3 (4#8) 0 (5#8) (7#16) (8#12) false, Body.marker 3 (4#8) 0 (5#8) (7#16) (8#12) false), (Instr.msg rxL [1, 2], Body.msg [1, 2]), (Instr.msgnak rxL 10#16, Body.msgnak 10#16), (Instr.lost rxL 10#16 7#16, Body.lost 10#16 7#16)] ∧ rxTake ringS rxL w34_32.2 = Option.none) ∧
    (List.length w34_33.ring.ports = 8 ∧ w34_34 ∈ [(Instr.wreq rxX 3 (4#8) (5#8) Option.none, Body.wreq 3 (4#8) (5#8) Option.none), (Instr.wgrant rxX 3 4#8 5#8 10#16, Body.wgrant 3 4#8 5#8 10#16), (Instr.write rxX 3 4#8 512#21 [1, 2], Body.write 3 4#8 512#21 [1, 2]), (Instr.reduceFrame rxX 3 4#8 512#21 [1, 2], Body.add 3 4#8 512#21 [1, 2]), (Instr.ladleRow rxX 3 (4#8) (512#21) tg [1, 2], Body.row 3 (4#8) (512#21) tg [1, 2]), (Instr.ladleAnswer rxX 3 4#8 512#21 7#16 9#13 [1, 2], Body.answer 3 4#8 512#21 7#16 9#13 [1, 2]), (Instr.wnak rxX 3 4#8 512#21 10#16, Body.wnak 3 4#8 512#21 10#16), (Instr.wreturn rxX 3 4#8 5#8, Body.wreturn 3 4#8 5#8), (Instr.close rxX 3 4#8, Body.close 3 4#8), (Instr.marker rxX 3 (4#8) 0 (5#8) (7#16) (8#12) false, Body.marker 3 (4#8) 0 (5#8) (7#16) (8#12) false), (Instr.msg rxX [1, 2], Body.msg [1, 2]), (Instr.msgnak rxX 10#16, Body.msgnak 10#16), (Instr.lost rxX 10#16 7#16, Body.lost 10#16 7#16)] ∧ rxX.via = Via.loopback ∧ rxTake w34_33 rxX w34_34.2 = Option.some w34_35 ∧ findPt w34_35 (BitVec.toNat rxX.part) = Option.none) ∧
    (List.length ringS.ring.ports = 8 ∧ w34_36.via = Via.port 1 5#16 ∧ ¬(((getPort ringS 1).st = 2 ∨ (getPort ringS 1).st = 4) ∧ 5#16 = (getPort ringS 1).rxSeq + 1)) :=
  ⟨by decide +kernel, by decide +kernel, by decide +kernel, by decide +kernel, by decide +kernel⟩

theorem witness_WindowCreditAndWrites_WindowCredit :
    (List.length (wS wv).wins = 64 ∧ Taken w34_2 rxL (Body.wreq 3 (4#8) (5#8) Option.none) (wS wv) ∧ WindowTakes (wS wv) rxL 3 4#8 ∧ reqHeldBy (wS wv) { src := rxL.src, part := rxL.part, win := 3, gen := 4#8, n := BitVec.toNat 5#8 } = Option.none ∧ (getWin (wS wv) 3).closing = false ∧ flipPending (wS wv) (getWin (wS wv) 3).cell (getWin (wS wv) 3).region = false) ∧
    (List.length w34_4.wins = 64 ∧ Taken w34_3 rxL (Body.wreq 3 (4#8) (5#8) Option.none) w34_4 ∧ WindowTakes w34_4 rxL 3 4#8 ∧ reqHeldBy w34_4 { src := rxL.src, part := rxL.part, win := 3, gen := 4#8, n := BitVec.toNat 5#8 } = Option.none ∧ ((getWin w34_4 3).closing = true ∨ winFlips w34_4 3 = true)) ∧
    (List.length w34_6.wins = 64 ∧ Taken w34_5 rxL (Body.wreq 3 (4#8) (5#8) Option.none) w34_6 ∧ (getWin w34_6 3).opened = true ∧ (getWin w34_6 3).gen ≠ 4#8) ∧
    (List.length (wS wv).wins = 64 ∧ Taken w34_7 rxL (Body.wreturn 3 4#8 2#8) (wS wv) ∧ WindowTakes (wS wv) rxL 3 4#8 ∧ BitVec.toNat 2#8 ≤ (getWin (wS wv) 3).outstanding ∧ collAt (wS wv) (getWin (wS wv) 3).cell (getWin (wS wv) 3).region = Option.none) ∧
    (List.length (wS wv).wins = 64 ∧ Taken w34_8 rxL (Body.wreturn 3 4#8 5#8) (wS wv) ∧ WindowTakes (wS wv) rxL 3 4#8 ∧ (getWin (wS wv) 3).outstanding < BitVec.toNat 5#8 ∧ (wS wv).jobc.st = 1 ∧ (getWin (wS wv) 3).job = (wS wv).jobc.id ∧ collAt (wS wv) (getWin (wS wv) 3).cell (getWin (wS wv) 3).region = Option.none) ∧
    (List.length w34_10.wins = 64 ∧ Taken w34_9 rxL (Body.close 3 4#8) w34_10 ∧ w34_10.saved = [] ∧ jobPart w34_10 ≠ Option.some (BitVec.toNat rxL.part)) ∧
    (List.length (wS wv).wins = 64 ∧ Taken (lW wv (Body.close 3 4)) rxL (Body.close 3 4#8) (wS wv) ∧ (wS wv).saved = [] ∧ jobPart (wS wv) = Option.some (BitVec.toNat rxL.part)) :=
  ⟨by decide +kernel, by decide +kernel, by decide +kernel, by decide +kernel, by decide +kernel, by decide +kernel,
    by decide +kernel⟩

theorem witness_WindowCreditAndWrites_WindowWrites :
    (List.length (wS wv).wins = 64 ∧ Taken w34_11 rxL (Body.write 3 4#8 512#21 [1, 2, 3]) (wS wv) ∧ WindowTakes (wS wv) rxL 3 4#8 ∧ (getWin (wS wv) 3).outstanding ≠ 0 ∧ [1, 2, 3] ≠ [] ∧ BitVec.toNat 512#21 % 512 + List.length [1, 2, 3] ≤ 512 ∧ BitVec.toNat 512#21 + List.length [1, 2, 3] ≤ 512 * (getWin (wS wv) 3).units ∧ (getWin (wS wv) 3).wd.enable = false) ∧
    (List.length w34_13.wins = 64 ∧ Taken w34_12 rxL (Body.write 3 4#8 512#21 [1, 2, 3]) w34_13 ∧ WindowTakes w34_13 rxL 3 4#8 ∧ (getWin w34_13 3).outstanding = 0) ∧
    (List.length (wS wv).wins = 64 ∧ Taken w34_14 rxL (Body.write 3 4#8 4096#21 [1, 2, 3]) (wS wv) ∧ WindowTakes (wS wv) rxL 3 4#8 ∧ (getWin (wS wv) 3).outstanding ≠ 0 ∧ 512 * (getWin (wS wv) 3).units < BitVec.toNat 4096#21 + List.length [1, 2, 3]) ∧
    (List.length w34_16.wins = 64 ∧ Taken w34_15 rxL (Body.add 3 (4#8) (512#21) w34_17) w34_16 ∧ WindowTakes w34_16 rxL 3 4#8 ∧ (getWin w34_16 3).outstanding ≠ 0 ∧ (getWin w34_16 3).flip = true ∧ List.length w34_17 = 512 ∧ BitVec.toNat 512#21 % 512 = 0 ∧ BitVec.toNat 512#21 + 512 ≤ 512 * (getWin w34_16 3).units ∧ (getWin w34_16 3).wd.enable = false ∧ BitVec.toNat 512#21 / 512 ∉ (getWin w34_16 3).spent) ∧
    (List.length w34_19.wins = 64 ∧ Taken w34_18 rxL (Body.add 3 (4#8) (64#21) w34_20) w34_19 ∧ WindowTakes w34_19 rxL 3 4#8 ∧ (getWin w34_19 3).outstanding ≠ 0 ∧ BitVec.toNat 64#21 % 512 ≠ 0 ∧ w34_19.jobc.st = 1) :=
  ⟨by decide +kernel, by decide +kernel, by decide +kernel, by decide +kernel, by decide +kernel⟩

theorem witness_RingSenders :
    (List.length (sS [ak 5 Option.none] 1).job.senders = 64 ∧ Taken w34_21 rxL (Body.wgrant 3 (4#8) (5#8) 0) (sS [ak 5 Option.none] 1) ∧ (sS [ak 5 Option.none] 1).job.asks = [ak 5 Option.none] ∧ (ak 5 Option.none).who = Asker.sender 2 ∧ (ak 5 Option.none).dst = rxL.src ∧ (ak 5 Option.none).part = rxL.part ∧ (ak 5 Option.none).win = 3 ∧ (ak 5 Option.none).gen = 4#8 ∧ (ak 5 Option.none).retry = Option.none ∧ BitVec.toNat 5#8 = (ak 5 Option.none).n ∧ 5#8 ≠ 0) ∧
    (List.length (sS [ak 5 Option.none] 1).job.senders = 64 ∧ jobRuns (sS [ak 5 Option.none] 1) = true ∧ (sendCfg (BitVec.toNat (getSender (sS [ak 5 Option.none] 1) 2).cfg)).valid = true ∧ (getSender (sS [ak 5 Option.none] 1) 2).active = true ∧ (getSender (sS [ak 5 Option.none] 1) 2).redo = [] ∧ (getSender (sS [ak 5 Option.none] 1) 2).credit ≠ 0) ∧
    (List.length (sS [ak 5 Option.none] 1).job.senders = 64 ∧ Taken w34_22 rxL (Body.wgrant 3 (4#8) 0 0) (sS [ak 5 Option.none] 1) ∧ (sS [ak 5 Option.none] 1).job.asks = [ak 5 Option.none] ∧ (ak 5 Option.none).who ≠ Asker.gone ∧ (ak 5 Option.none).dst = rxL.src ∧ (ak 5 Option.none).part = rxL.part ∧ (ak 5 Option.none).win = 3 ∧ (ak 5 Option.none).gen = 4#8 ∧ (ak 5 Option.none).retry = Option.none) ∧
    (List.length (sS [] 0).job.senders = 64 ∧ jobRuns (sS [] 0) = true ∧ (sendCfg (BitVec.toNat (getSender (sS [] 0) 2).cfg)).valid = true ∧ (getSender (sS [] 0) 2).active = true ∧ (getSender (sS [] 0) 2).redo = [] ∧ (getSender (sS [] 0) 2).credit = 0 ∧ asking (sS [] 0) (Asker.sender 2) = false) ∧
    (List.length (sS [] 1).job.senders = 64 ∧ Taken w34_24 rxL (Body.wgrant 3 4#8 5#8 0#16) (sS [] 1) ∧ (sS [] 1).job.asks = [] ∧ (sS [] 1).saved = []) ∧
    (List.length w34_25.job.senders = 64 ∧ jobRuns w34_25 = true ∧ w34_25.job.asks = [ak 5 (Option.some 8)] ∧ (ak 5 (Option.some 8)).retry = Option.some 8 ∧ 8 ≤ w34_25.now ∧ (ak 5 (Option.some 8)).who ≠ Asker.gone) ∧
    (List.length (sS [] 1).job.senders = 64 ∧ Taken w34_26 rxL (Body.wnak 4 4#8 0#21 773#16) (sS [] 1) ∧ nakOwner (sS [] 1) rxL 4 (4#8) (BitVec.toNat 0#21) = Option.none ∧ 773#16 ≠ 780 ∧ Code.valid 773#16 = true) ∧
    (List.length (sS [] 1).job.senders = 64 ∧ Taken w34_37 rxL (Body.wnak 4 4#8 0#21 780#16) (sS [] 1) ∧ nakOwner (sS [] 1) rxL 4 (4#8) (BitVec.toNat 0#21) = Option.none ∧ 780#16 = 780) ∧
    (List.length w34_39.job.senders = 64 ∧ Taken w34_38 rxL (Body.wnak 3 (4#8) (512#21) 780) w34_39 ∧ nakOwner w34_39 rxL 3 (4#8) (BitVec.toNat 512#21) = Option.some (Option.none, NakHit.sender 2)) ∧
    (List.length w34_42.job.senders = 64 ∧ jobRuns w34_42 = true ∧ (sendCfg (BitVec.toNat (getSender w34_42 2).cfg)).valid = true ∧ (getSender w34_42 2).redo = [2, 1] ∧ (getSender w34_42 2).credit ≠ 0) :=
  ⟨by decide +kernel, by decide +kernel, by decide +kernel, by decide +kernel, by decide +kernel, by decide +kernel,
    by decide +kernel, by decide +kernel, by decide +kernel, by decide +kernel⟩

theorem witness_MarkersMessagesLosses :
    (List.length (wS wv).wins = 64 ∧ Taken w34_27 rxL (Body.marker 3 (4#8) 0 (2#8) (7#16) (8#12) true) (wS wv) ∧ WindowTakes (wS wv) rxL 3 4#8 ∧ (getWin (wS wv) 3).closing = false ∧ (getWin (wS wv) 3).wd.enable = false ∧ ∀ m ∈ (getWin (wS wv) 3).wd.markers, m.1 ≠ BitVec.toNat 2#8) ∧
    (List.length w34_29.wins = 64 ∧ Taken w34_28 rxL (Body.marker 3 (4#8) 0 (2#8) (7#16) (8#12) true) w34_29 ∧ WindowTakes w34_29 rxL 3 4#8 ∧ (getWin w34_29 3).closing = true) ∧
    (List.length (msgd [1]).wins = 64 ∧ Taken ringS rxP (Body.msg [1]) (msgd [1]) ∧ (msgd [1]).jobc.st = 1 ∧ jobPart (msgd [1]) = Option.some (BitVec.toNat rxP.part) ∧ List.length (msgd [1]).job.inbox < 64 ∧ rxP.via ≠ Via.loopback) ∧
    (List.length full.wins = 64 ∧ Taken w34_30 rxL (Body.msg [1]) full ∧ full.jobc.st = 1 ∧ jobPart full = Option.some (BitVec.toNat rxL.part) ∧ 64 ≤ List.length full.job.inbox) ∧
    (List.length ctxw.wins = 64 ∧ Taken w34_31 rxL (Body.msgnak 773#16) ctxw ∧ Code.valid 773#16 = true ∧ List.length ctxw.raler.ctx = 8 ∧ (getCtx ctxw 2).st = 2 ∧ (getCtx ctxw 2).waits = CtxWait.msend 4 (BitVec.toNat rxL.src) ∧ (∀ j < 2, (getCtx ctxw ↑j).waits = CtxWait.none) ∧ List.length (getCtx ctxw 2).regs = 32) ∧
    (List.length ringS.wins = 64 ∧ Taken (looped (Body.lost 3 7)) rxL (Body.lost 3#16 7#16) ringS ∧ 3#16 ≠ Code.sliceLost ∧ 3#16 ≠ Code.pathLost) ∧
    (List.length w34_44.wins = 64 ∧ Taken w34_43 rxL (Body.msg [1]) w34_44 ∧ w34_44.jobc.st = 0) ∧
    (List.length ringS.wins = 64 ∧ Taken w34_45 rxL (Body.lost Code.pathLost 7#16) ringS ∧ jobPart ringS = Option.some (BitVec.toNat rxL.part) ∧ ringS.jobc.st = 1 ∧ (Code.pathLost = Code.sliceLost ∨ Code.pathLost = Code.pathLost)) :=
  ⟨by decide +kernel, by decide +kernel, by decide +kernel, by decide +kernel, by decide +kernel, by decide +kernel,
    by decide +kernel, by decide +kernel⟩

end B34

namespace B35

def pln : Plan := { valid := true, index := 0, lengths := 3, id := 9, pts := [{ cfg := BitVec.ofNat 64 (5 + 2^8 + 3 * 2^33), rate := BitVec.ofNat 64 (100 + 2^12) }] ++ List.replicate 31 {} }
def prt : PortSt := { st := 2, identAt := some 5, farIndex := 1, share := [10, 11], credit := [(512, 50), (513, 50), (10, 40), (11, 40)] }
def ringS : State := { jobS with now := 2000000000, jobc := { jobS.jobc with ptEntry := 0 }, ring := { plan := pln, inForce := pln, ports := List.replicate 8 prt, buckets := [(0, {tokens := 16384, at_ := 0}), (32, {tokens := 16384, at_ := 0})] } }
def rxL : Rx := ⟨.loopback, 2, 5, false⟩
def rxP : Rx := ⟨.port 1 1, 2, 5, false⟩
def looped (b : Body) : State := { ringS with ring := { ringS.ring with loop := [⟨2, 0, 5, false, b⟩] } }
def pS (x : PortSt) : State := { ringS with ring := { ringS.ring with ports := ringS.ring.ports.set 1 x } }
def qf : QFrame := { f := ⟨0, 2, 5, false, .wreturn 3 4 5⟩ }
def pe : PtEntry × Nat := (nth {} pln.pts 0, 0)
def pX (x : PortSt) : State := { pS x with jobc := { jobS.jobc with noRing := true } }
def tf : Frame := ⟨3, 2, 5, false, .wreturn 3 4 5⟩
def oS (s : State) : State := { s with own := { owned := true, slot := 2, nonce := 55, leaseEnd := 3000000000 } }
def w35_0 : State := (pS {st := 1, identAt := some 5})
def w35_1 : State := (pS {st := 1, identAt := some 5})
def w35_2 : State := (pS {st := 2, identAt := some 5})
def w35_3 : State := (pX {prt with queue := [qf], relSent := 5})
def w35_4 : State := (pX {prt with queue := [qf], credit := []})
def w35_5 : State := {pX {prt with queue := [qf]} with ring := { (pX {prt with queue := [qf]}).ring with buckets := [(32, {tokens := -5, at_ := 2000000000})]}}
def w35_6 : State := (portAccept ringS 0 1 tf false).getD ringS
def w35_7 : State := {ringS with ring := { ringS.ring with breaks := [[2],[],[],[]], restored := [[2],[],[],[]] } }
def w35_8 : State := {ringS with ring := { ringS.ring with breaks := [[2],[],[],[]], ports := (List.replicate 8 {}).set 1 {prt with farLeaving := true, lastRx := 2000000000} } }
def w35_9 : State := {ringS with ring := { ringS.ring with ports := (List.replicate 8 {}).set 1 prt } }
def w35_10 : State := (pS {prt with st := 3})
def w35_12 : State := (oS (pS { prt with spareUsed := true, swapping := some 4 }))
def w35_13 : State := (oS (pS { prt with st := 0 }))
def w35_14 : BitVec 64 := (BitVec.ofNat 64 (3 + 4 * 5 + 2^15 * 7))
def w35_15 : State := (oS (pS { prt with test := some 5 }))
def w35_16 : BitVec 64 := (BitVec.ofNat 64 (3 + 4 * 5 + 2^15 * 7))
def w35_17 : BitVec 64 := (BitVec.ofNat 64 (2^32 + 3 * 2^16))
def w35_18 : BitVec 64 := (BitVec.ofNat 64 (2^32 + 3 * 2^16 + 4))
def w35_19 : BitVec 64 := (BitVec.ofNat 64 (3 * 2^16 + 4))
def w35_20 : State := (pX {prt with queue := [{qf with f := {qf.f with part := 7}}], relSent := 5})
def w35_21 : QFrame := {qf with f := {qf.f with part := 7}}
def w35_22 : State := (pX {prt with st := 1})
def w35_23 : State := (pX {prt with st := 5})
def w35_24 : State := (oS (pS { prt with spareUsed := true, swapping := some 4 }))

theorem witness_PortTraining :
    (List.length (pS { }).ring.ports = 8 ∧ (pS { }).boot.powered = true ∧ (pS { }).power.refLink = true ∧ (pS { }).ring.leaving = false ∧ portUsed (pS { }) 1 = true ∧ (getPort (pS { }) 1).st = 0 ∧ List.length (laneMapOf (8191#13 &&& ~~~(getPort (pS { }) 1).retired) (getPort (pS { }) 1).spare) = 12) ∧
    (List.length (pS { }).ring.ports = 8 ∧ ((getPort (pS { }) 1).st = 0 ∨ (getPort (pS { }) 1).st = 1 ∨ (getPort (pS { }) 1).st = 3)) ∧
    (List.length (pS { }).ring.ports = 8 ∧ (pS { }).boot.powered = true ∧ (pS { }).power.refLink = true ∧ (pS { }).ring.leaving = false ∧ portUsed (pS { }) 1 = true ∧ (getPort (pS { }) 1).st = 0 ∧ List.length (laneMapOf (127#13 &&& ~~~(getPort (pS { }) 1).retired) (getPort (pS { }) 1).spare) < 8) ∧
    (List.length w35_0.ring.ports = 8 ∧ (getPort w35_0 1).identAt = Option.some 5 ∧ (getPort w35_0 1).st ≠ 0 ∧ (getPort w35_0 1).st ≠ 5 ∧ 5 + ms ≤ w35_0.now) ∧
    (List.length w35_0.ring.ports = 8 ∧ (getPort w35_0 1).identAt = Option.some 5 ∧ (getPort w35_0 1).st = 1 ∧ w35_0.ring.inForce.valid = true ∧ identOk w35_0 1 { st := (getPort w35_0 1).st, map := (getPort w35_0 1).map, spare := (getPort w35_0 1).spare, spareUsed := (getPort w35_0 1).spareUsed, laneOk := (getPort w35_0 1).laneOk, retired := (getPort w35_0 1).retired, swapping := (getPort w35_0 1).swapping, farLeaving := (getPort w35_0 1).farLeaving, farSerial := 5#64, farPort := 0, farIndex := 1#16, farPlan := 9#32, fecCorr := (getPort w35_0 1).fecCorr, fecUncorr := (getPort w35_0 1).fecUncorr, l12Errors := (getPort w35_0 1).l12Errors, replays := (getPort w35_0 1).replays, swaps := (getPort w35_0 1).swaps, downs := (getPort w35_0 1).downs, txBytes := (getPort w35_0 1).txBytes, transitBytes := (getPort w35_0 1).transitBytes, berMode := (getPort w35_0 1).berMode, berLanes := (getPort w35_0 1).berLanes, berMs := (getPort w35_0 1).berMs, test := (getPort w35_0 1).test, berDone := (getPort w35_0 1).berDone, berFailed := (getPort w35_0 1).berFailed, berWorst := (getPort w35_0 1).berWorst, berErrors := (getPort w35_0 1).berErrors, queue := (getPort w35_0 1).queue, txSeq := (getPort w35_0 1).txSeq, replay := (getPort w35_0 1).replay, credit := (getPort w35_0 1).credit, share := (getPort w35_0 1).share, rxSeq := (getPort w35_0 1).rxSeq, open_ := (getPort w35_0 1).open_, ackAt := (getPort w35_0 1).ackAt, released := (getPort w35_0 1).released, relSent := (getPort w35_0 1).relSent, used := (getPort w35_0 1).used, owed := (getPort w35_0 1).owed, repeats := (getPort w35_0 1).repeats, lastRx := w35_0.now, identAt := (getPort w35_0 1).identAt, hbAt := (getPort w35_0 1).hbAt, wire := (getPort w35_0 1).wire } = true ∧ List.contains (nth [] w35_0.ring.breaks (1 / 2)) (portBreak w35_0 1) = false) ∧
    (List.length w35_1.ring.ports = 8 ∧ (getPort w35_1 1).identAt = Option.some 5 ∧ (getPort w35_1 1).st = 1 ∧ w35_1.ring.inForce.valid = true ∧ identOk w35_1 1 { st := (getPort w35_1 1).st, map := (getPort w35_1 1).map, spare := (getPort w35_1 1).spare, spareUsed := (getPort w35_1 1).spareUsed, laneOk := (getPort w35_1 1).laneOk, retired := (getPort w35_1 1).retired, swapping := (getPort w35_1 1).swapping, farLeaving := (getPort w35_1 1).farLeaving, farSerial := 5#64, farPort := 0, farIndex := 2#16, farPlan := 9#32, fecCorr := (getPort w35_1 1).fecCorr, fecUncorr := (getPort w35_1 1).fecUncorr, l12Errors := (getPort w35_1 1).l12Errors, replays := (getPort w35_1 1).replays, swaps := (getPort w35_1 1).swaps, downs := (getPort w35_1 1).downs, txBytes := (getPort w35_1 1).txBytes, transitBytes := (getPort w35_1 1).transitBytes, berMode := (getPort w35_1 1).berMode, berLanes := (getPort w35_1 1).berLanes, berMs := (getPort w35_1 1).berMs, test := (getPort w35_1 1).test, berDone := (getPort w35_1 1).berDone, berFailed := (getPort w35_1 1).berFailed, berWorst := (getPort w35_1 1).berWorst, berErrors := (getPort w35_1 1).berErrors, queue := (getPort w35_1 1).queue, txSeq := (getPort w35_1 1).txSeq, replay := (getPort w35_1 1).replay, credit := (getPort w35_1 1).credit, share := (getPort w35_1 1).share, rxSeq := (getPort w35_1 1).rxSeq, open_ := (getPort w35_1 1).open_, ackAt := (getPort w35_1 1).ackAt, released := (getPort w35_1 1).released, relSent := (getPort w35_1 1).relSent, used := (getPort w35_1 1).used, owed := (getPort w35_1 1).owed, repeats := (getPort w35_1 1).repeats, lastRx := w35_1.now, identAt := (getPort w35_1 1).identAt, hbAt := (getPort w35_1 1).hbAt, wire := (getPort w35_1 1).wire } = false) ∧
    (List.length w35_2.ring.ports = 8 ∧ ((getPort w35_2 1).st = 2 ∨ (getPort w35_2 1).st = 4)) :=
  ⟨by decide +kernel, by decide +kernel, by decide +kernel, by decide +kernel, by and_intros <;> decide +kernel, by and_intros <;> decide +kernel,
    by decide +kernel⟩

theorem witness_LinkLayerAndTransit_LinkLayer :
    (List.length w35_3.ring.ports = 8 ∧ (((getPort w35_3 1).st = 2 ∨ (getPort w35_3 1).st = 4) ∧ (getPort w35_3 1).queue = [qf] ∧ w35_3.ring.leaving = false ∧ (getPort w35_3 1).farLeaving = false ∧ (getPort w35_3 1).swapping = Option.none ∧ findPt w35_3 (BitVec.toNat qf.f.part) = Option.some pe ∧ shareKey (BitVec.toNat qf.f.part) qf.f.dl ∈ (getPort w35_3 1).share ∧ qf.origin = Option.none) ∧ flits qf.f.body ≤ Tbl.get 0 (getPort w35_3 1).credit (frameKey qf.f qf.f.dl) ∧ replayFlits (getPort w35_3 1) + flits qf.f.body ≤ 16384 ∧ 0 < bucketLevel w35_3.now pe.1 (getBucket w35_3 1 pe.2) ∧ jobPart w35_3 ≠ Option.some (BitVec.toNat qf.f.part)) ∧
    (List.length w35_3.ring.ports = 8 ∧ ((getPort w35_3 1).st = 2 ∨ (getPort w35_3 1).st = 4) ∧ ∀ c ∈ (getPort w35_3 1).replay, c.q.origin = Option.none ∧ bodyData c.q.f.body = false) ∧
    (List.length w35_3.ring.ports = 8 ∧ ((getPort w35_3 1).st = 2 ∨ (getPort w35_3 1).st = 4) ∧ (getPort w35_3 1).owed = [] ∧ (getPort w35_3 1).relSent ≠ (getPort w35_3 1).released) ∧
    (List.length w35_4.ring.ports = 8 ∧ (((getPort w35_4 1).st = 2 ∨ (getPort w35_4 1).st = 4) ∧ (getPort w35_4 1).queue = [qf] ∧ w35_4.ring.leaving = false ∧ (getPort w35_4 1).farLeaving = false ∧ (getPort w35_4 1).swapping = Option.none ∧ findPt w35_4 (BitVec.toNat qf.f.part) = Option.some pe ∧ shareKey (BitVec.toNat qf.f.part) qf.f.dl ∈ (getPort w35_4 1).share ∧ qf.origin = Option.none) ∧ (Tbl.get 0 (getPort w35_4 1).credit (frameKey qf.f qf.f.dl) < flits qf.f.body ∨ 16384 < replayFlits (getPort w35_4 1) + flits qf.f.body)) ∧
    (List.length w35_5.ring.ports = 8 ∧ (((getPort w35_5 1).st = 2 ∨ (getPort w35_5 1).st = 4) ∧ (getPort w35_5 1).queue = [qf] ∧ w35_5.ring.leaving = false ∧ (getPort w35_5 1).farLeaving = false ∧ (getPort w35_5 1).swapping = Option.none ∧ findPt w35_5 (BitVec.toNat qf.f.part) = Option.some pe ∧ shareKey (BitVec.toNat qf.f.part) qf.f.dl ∈ (getPort w35_5 1).share ∧ qf.origin = Option.none) ∧ flits qf.f.body ≤ Tbl.get 0 (getPort w35_5 1).credit (frameKey qf.f qf.f.dl) ∧ replayFlits (getPort w35_5 1) + flits qf.f.body ≤ 16384 ∧ bucketLevel w35_5.now pe.1 (getBucket w35_5 1 pe.2) ≤ 0) ∧
    (List.length w35_20.ring.ports = 8 ∧ ((getPort w35_20 1).st = 2 ∨ (getPort w35_20 1).st = 4) ∧ (getPort w35_20 1).queue = [w35_21] ∧ w35_20.ring.leaving = false ∧ (getPort w35_20 1).farLeaving = false ∧ (getPort w35_20 1).swapping = Option.none ∧ w35_21.origin = Option.none ∧ findPt w35_20 (BitVec.toNat w35_21.f.part) = Option.none) ∧
    (List.length w35_22.ring.ports = 8 ∧ ((getPort w35_22 1).st = 1 ∨ (getPort w35_22 1).st = 3)) ∧
    (List.length w35_23.ring.ports = 8 ∧ ((getPort w35_23 1).st = 0 ∨ (getPort w35_23 1).st = 5)) :=
  ⟨by decide +kernel, by decide +kernel, by decide +kernel, by decide +kernel, by decide +kernel, by decide +kernel,
    by decide +kernel, by decide +kernel⟩

theorem witness_LinkLayerAndTransit_Transit :
    (List.length ringS.ring.ports = 8 ∧ BitVec.toNat tf.dst ≠ myIndex ringS ∧ (getPort ringS 0).st = 2 ∧ findPt ringS (BitVec.toNat tf.part) = Option.some pe ∧ portAccept ringS 0 ((getPort ringS 0).rxSeq + 1) tf false = Option.some w35_6 ∧ route w35_6 pe.1 (BitVec.toNat tf.dst) (Option.some (0 / 2, !0 % 2 == 1, tf.dl)) = Option.some (1, false)) ∧
    (List.length ringS.ring.ports = 8 ∧ BitVec.toNat tf.dst ≠ myIndex ringS ∧ (getPort ringS 0).st = 2 ∧ 9#16 ≠ (getPort ringS 0).rxSeq + 1) ∧
    (List.length ringS.ring.ports = 8 ∧ BitVec.toNat ({ src := tf.src, dst := tf.dst, part := 7, dl := tf.dl, body := tf.body } : Frame).dst ≠ myIndex ringS ∧ (getPort ringS 0).st = 2 ∧ findPt ringS (BitVec.toNat ({ src := tf.src, dst := tf.dst, part := 7, dl := tf.dl, body := tf.body } : Frame).part) = Option.none) :=
  ⟨by decide +kernel, by decide +kernel, by decide +kernel⟩

theorem witness_LinksAndBreaks :
    (List.length w35_7.ring.ports = 8 ∧ List.length w35_7.ring.breaks = 4 ∧ List.length w35_7.ring.restored = 4 ∧ ((getPort w35_7 1).st = 2 ∨ (getPort w35_7 1).st = 4) ∧ DownCause.signalLoss ≠ DownCause.silence) ∧
    (List.length w35_7.ring.ports = 8 ∧ List.length w35_7.ring.breaks = 4 ∧ List.length w35_7.ring.restored = 4 ∧ (getPort w35_7 1).st = 2 ∧ 1 / 2 = 0 ∧ List.contains (nth [] w35_7.ring.breaks 0) (BitVec.toNat 2#4) = true ∧ List.contains (nth [] w35_7.ring.restored 0) (BitVec.toNat 2#4) = true) ∧
    (List.length w35_7.ring.ports = 8 ∧ List.length w35_7.ring.breaks = 4 ∧ List.length w35_7.ring.restored = 4 ∧ nth [] w35_7.ring.restored 0 ≠ [] ∧ nth 0 w35_7.ring.quietSince 0 + us ≤ w35_7.now) ∧
    (List.length w35_8.ring.ports = 8 ∧ List.length w35_8.ring.breaks = 4 ∧ List.length w35_8.ring.restored = 4 ∧ ((getPort w35_8 1).st = 2 ∨ (getPort w35_8 1).st = 4) ∧ w35_8.now < (getPort w35_8 1).lastRx + 24 * us) ∧
    (List.length w35_8.ring.ports = 8 ∧ List.length w35_8.ring.breaks = 4 ∧ List.length w35_8.ring.restored = 4 ∧ (getPort w35_8 1).st = 2 ∧ 1 / 2 = 0 ∧ List.contains (nth [] w35_8.ring.breaks 0) (BitVec.toNat 2#4) = true ∧ List.contains (nth [] w35_8.ring.restored 0) (BitVec.toNat 2#4) = false ∧ (getPort w35_8 (otherPort 1)).st = 0) ∧
    (List.length w35_8.ring.ports = 8 ∧ List.length w35_8.ring.breaks = 4 ∧ List.length w35_8.ring.restored = 4 ∧ (getPort w35_8 1).st = 2 ∧ (getPort w35_8 1).farLeaving = true) ∧
    (List.length w35_9.ring.ports = 8 ∧ List.length w35_9.ring.breaks = 4 ∧ List.length w35_9.ring.restored = 4 ∧ (getPort w35_9 1).st = 2 ∧ 1 / 2 = 0 ∧ List.contains (nth [] w35_9.ring.breaks 0) (BitVec.toNat 2#4) = false ∧ (∀ (q : Port), (getPort w35_9 ↑q).queue = []) ∧ (getPort w35_9 (otherPort 1)).st = 0) ∧
    (List.length w35_10.ring.ports = 8 ∧ List.length w35_10.ring.breaks = 4 ∧ List.length w35_10.ring.restored = 4 ∧ ((getPort w35_10 1).st = 1 ∨ (getPort w35_10 1).st = 3)) :=
  ⟨by decide +kernel, by decide +kernel, by decide +kernel, by decide +kernel, by decide +kernel, by decide +kernel,
    by decide +kernel, by decide +kernel⟩

theorem witness_LanesAndPlans_LanesAndTests :
    (List.length (oS ringS).ring.ports = 8 ∧ (getPort (oS ringS) 1).st = 2 ∧ 4 ∈ (getPort (oS ringS) 1).map ∧ (getPort (oS ringS) 1).spareUsed = false ∧ BitVec.getLsbD (getPort (oS ringS) 1).laneOk (getPort (oS ringS) 1).spare = true ∧ List.length (getPort (oS ringS) 1).map = 12) ∧
    (List.length w35_12.ring.ports = 8 ∧ (getPort w35_12 1).st = 2 ∧ 4 ∈ (getPort w35_12 1).map ∧ (getPort w35_12 1).spareUsed = true ∧ 9 ≤ List.length (getPort w35_12 1).map ∧ List.Nodup (getPort w35_12 1).map) ∧
    (List.length w35_12.ring.ports = 8 ∧ (getPort w35_12 1).swapping = Option.some 4 ∧ (getPort w35_12 1).replay = [] ∧ List.length (getPort w35_12 1).map = 12) ∧
    (List.length w35_12.ring.ports = 8 ∧ OwnerAnswers w35_12 2 ∧ BitVec.toNat 3#64 / 2 ^ 15 % 2 ^ 16 = 0 ∧ BitVec.toNat 3#64 < 2 ^ 31) ∧
    (List.length w35_13.ring.ports = 8 ∧ OwnerAnswers w35_13 2 ∧ BitVec.toNat w35_14 % 2 = 1 ∧ BitVec.toNat w35_14 / 2 ^ 15 % 2 ^ 16 ≠ 0 ∧ BitVec.toNat w35_14 < 2 ^ 31 ∧ BitVec.toNat w35_14 / 2 % 2 = 1 ∧ (getPort w35_13 1).test = Option.none ∧ (getPort w35_13 1).st = 0) ∧
    (List.length w35_15.ring.ports = 8 ∧ OwnerAnswers w35_15 2 ∧ BitVec.toNat w35_16 % 2 = 1 ∧ BitVec.toNat w35_16 / 2 ^ 15 % 2 ^ 16 ≠ 0 ∧ BitVec.toNat w35_16 < 2 ^ 31 ∧ Option.isSome (getPort w35_15 1).test = true) ∧
    (List.length w35_15.ring.ports = 8 ∧ (getPort w35_15 1).test = Option.some 5 ∧ 5 + (getPort w35_15 1).berMs * ms ≤ w35_15.now ∧ (getPort w35_15 1).berMode = false ∧ nth 0 [] 12 * 100000 ≤ 212500000 * (getPort w35_15 1).berMs) ∧
    (List.length w35_24.ring.ports = 8 ∧ 12 ∉ (getPort w35_24 1).map) :=
  ⟨by decide +kernel, by decide +kernel, by decide +kernel, by decide +kernel, by decide +kernel, by decide +kernel,
    by decide +kernel, by decide +kernel⟩

theorem witness_LanesAndPlans_PlanLoads :
    (OwnerAnswers (oS ringS) 2 ∧ BitVec.toNat w35_17 < 2 ^ 33 ∧ BitVec.getLsbD w35_17 32 = true ∧ planOk (oS ringS) ({ valid := BitVec.getLsbD w35_17 32, index := BitVec.setWidth 16 w35_17, lengths := BitVec.extractLsb' 16 16 w35_17, id := ((oS ringS).ring.plan).id, pts := ((oS ringS).ring.plan).pts, expSerial := ((oS ringS).ring.plan).expSerial, expCheck := ((oS ringS).ring.plan).expCheck } : Plan) = true) ∧
    (OwnerAnswers (oS ringS) 2 ∧ BitVec.toNat w35_17 < 2 ^ 33 ∧ planOk (oS ringS) ({ valid := BitVec.getLsbD w35_17 32, index := BitVec.setWidth 16 w35_17, lengths := BitVec.extractLsb' 16 16 w35_17, id := ((oS ringS).ring.plan).id, pts := ((oS ringS).ring.plan).pts, expSerial := ((oS ringS).ring.plan).expSerial, expCheck := ((oS ringS).ring.plan).expCheck } : Plan) = true) ∧
    (OwnerAnswers (oS ringS) 2 ∧ BitVec.toNat w35_18 < 2 ^ 33 ∧ BitVec.getLsbD w35_18 32 = true ∧ planOk (oS ringS) ({ valid := BitVec.getLsbD w35_18 32, index := BitVec.setWidth 16 w35_18, lengths := BitVec.extractLsb' 16 16 w35_18, id := ((oS ringS).ring.plan).id, pts := ((oS ringS).ring.plan).pts, expSerial := ((oS ringS).ring.plan).expSerial, expCheck := ((oS ringS).ring.plan).expCheck } : Plan) = false) ∧
    (OwnerAnswers (oS ringS) 2 ∧ BitVec.toNat w35_19 < 2 ^ 33 ∧ BitVec.getLsbD w35_19 32 = false) :=
  ⟨by decide +kernel, by decide +kernel, by decide +kernel, by decide +kernel⟩

end B35

namespace B40

def gs : State := { jobS with now := 200000000, own := { owned := true, slot := 2, leaseEnd := 900000000 } }
def swRec (n o src : Nat) : List Byte :=
  let base := 2^76 - 1
  let pos := (if n = 0 then 0 else if n = 1 then 28 else 52) + 4 * o
  leBytes 16 (base - 15 * 2^pos + src * 2^pos)
def cel (c : Nat) (r : CellRec) (x : CellSt) : State :=
  { gs with job := { gs.job with grid := { gs.job.grid with recs := [(c, r)], cells := if x = {} then [] else [(c, x)] } } }
def ent : Entry := ⟨5, true⟩
def mrec (op fa fb bh om kb tc : Nat) : List Byte := leBytes 16 (1 + op*2 + fa*8 + fb*2^7 + bh*2^11 + om*2^12 + 1*2^14 + kb*2^19 + tc*2^32)
def tmr (t : Timer) : State := { gs with job := { gs.job with grid := { gs.job.grid with timers := gs.job.grid.timers.set 2 t, cells := [(4, { since := [(2, 7)], q := [(2, [ent])] })] } } }
def bcf : Word := BitVec.ofNat 64 (1 + 2^32 * 1000)
def mx (r : List Byte) (x : CellSt) : State := cel 17 { mat := r } x
def e64 : List (BitVec 512) := List.replicate 64 5
def satE : List (BitVec 512) := List.replicate 1024 (1#512 <<< 124)
def vrec (mode1 src inf load cuo tok lanes rows vt : Nat) : List Byte :=
  leBytes 16 (1 + 2*mode1 + 4*src + 16*inf + 128*load + 2^11*cuo + 2^22*tok + 2^23*lanes + 2^30*rows + 2^37*vt) ++ List.replicate 48 0
def vx (r : List Byte) (x : CellSt) : State := cel 17 { vec := r } x
def ftq1 : List (List F32) := [List.replicate 4096 0x3F800000]
def reg0 (d : Nat) : List Byte := leBytes 4 (0 + 2 * 32 + d * 2^11 + 2^15 + 9 * 2^16)
def gen (en net mode width base c1 : Nat) : List Byte := leBytes 32 (en + 2*net + 4*mode + 2^7*width + base*2^12 + c1 * 2^32 + 2^48 + 2^64 + 2^80 + 2^96 + 1*2^176 * 5)
def murec (d : Nat) (rd wr : List Byte) : List Byte := reg0 d ++ List.replicate 28 0 ++ rd ++ wr
def mm (r : List Byte) (m : MuSt) (q : List (Nat × List Entry)) : State := cel 17 { mu := r } { mu := m, q := q }
def wn (v : Window) (m : MuSt) (sel : Nat) : State := { mm (murec 0 (gen 0 0 0 0 0 0) (gen 0 0 0 0 3 8)) m [] with wins := gs.wins.set 3 v, hosts := gs.hosts.map fun h => { h with muSel := sel } }
def surec (op grain kl d0 d1 dc dst cm inv fv glen : Nat) : List Byte :=
  List.replicate 16 0 ++ leBytes 16 (op + grain * 64 + kl * 256 + d0 * 2^9 + d1 * 2^13 + dc * 2^21 + dst * 2^23 + cm * 2^39 + inv * 2^45 + fv * 2^48 + glen * 2^80) ++ List.replicate 32 0
def st (r : List Byte) (tok : Nat) (e : Entry) : State := cel 17 { su := r } { su := [{}, { t := [BitVec.ofNat 8 tok], d0 := [e] }, {}, {}] }
def w40_0 : State := (cel 17 { sw := swRec 0 0 2 } { wire := [(2, [ent])] })
def w40_1 : State := (cel 17 { } { wire := [(2, [ent])] })
def w40_2 : State := (cel 17 { } { wire := [(2, [ent])], q := [(2, List.replicate 4 ent)] })
def w40_3 : State := (cel 17 { sw := swRec 0 0 2 } { q := [(2, [ent])] })
def w40_4 : State := (cel 17 { sw := swRec 0 4 2 } { q := [(2, [ent]), (36, List.replicate 4 ent)] })
def w40_5 : State := (cel 17 { mat := mrec 0 9 9 0 0 1 0 } { q := [(36, [ent]), (37, [ent])] })
def w40_6 : State := (tmr { cfg := bcf, armed := true, srcSent := true })
def w40_7 : State := (tmr { cfg := bcf, armed := true })
def w40_8 : State := (tmr { cfg := bcf, armed := true, running := true, sinkLast := true, start := 199999500 })
def w40_9 : State := (tmr { cfg := bcf, armed := true, running := true, start := 199999500 })
def w40_10 : State := (tmr { cfg := bcf, armed := true, running := true, start := 199000000 })
def w40_11 : State := (mx (mrec 0 9 9 0 0 1 0) { takenA := e64, takenB := e64 })
def w40_12 : State := (mx (mrec 0 9 9 0 0 1 0) { takenA := e64, takenB := e64 })
def w40_13 : State := (mx (mrec 0 9 9 0 0 1 0) { takenA := [5] })
def w40_14 : State := (mx (mrec 1 0 0 0 1 1 0) { takenA := satE, takenB := satE })
def w40_15 : State := (mx (mrec 0 9 9 0 0 1 0) { done := [.fp (List.replicate 4096 0)] })
def w40_16 : MTile := MTile.fp (List.replicate 4096 0)
def w40_17 : State := (mx (mrec 0 9 9 0 2 1 0) { done := [.fp (List.replicate 4096 0)] })
def w40_18 : MTile := MTile.fp (List.replicate 4096 0)
def w40_19 : State := (mx (mrec 0 9 9 1 2 1 0) { takenB := e64 })
def w40_21 : State := (vx (vrec 0 0 0 15 1 0 64 64 0) { vec := { ftq := ftq1, taken := true, row := 3 } })
def w40_22 : State := (vx (vrec 0 0 0 3 1 0 64 64 0) { vec := { ftq := ftq1, taken := true, row := 3 } })
def w40_23 : State := (vx (vrec 0 0 0 15 1 0 64 64 0) { vec := { ftq := [], taken := true, row := 3 } })
def w40_24 : State := (vx (vrec 0 0 0 15 1 1 64 64 0) { vec := { ftq := [], taken := true, row := 64, sent := 64 } })
def w40_27 : State := (mm (murec 0 (gen 0 0 0 0 0 0) (gen 1 0 0 0 3 8)) { powered := 3 } [(38, [ent])])
def w40_28 : State := (mm (murec 0 (gen 0 0 0 0 0 0) (gen 1 0 0 0 3000 8)) { powered := 3 } [(38, [ent])])
def w40_29 : State := (mm (murec 0 (gen 1 0 0 0 4 8) (gen 0 0 0 0 3000 8)) { powered := 3, mem := [(256, 7)] } [(38, [ent])])
def w40_30 : State := (mm (murec 0 (gen 1 0 0 0 4000 8) (gen 0 0 0 0 3000 8)) { powered := 3, mem := [(256, 7)] } [(38, [ent])])
def w40_31 : State := (mm (murec 1 (gen 0 0 0 0 4000 8) (gen 0 0 0 0 3000 8)) { powered := 3, flipQ := [⟨4, 2, true⟩] } [(38, [ent])])
def w40_32 : FlipAsk := (⟨4, 2, true⟩ : FlipAsk)
def w40_33 : State := (mm (murec 1 (gen 0 0 0 0 4000 8) (gen 0 0 0 0 3000 8)) { powered := 3 } [(53, [⟨9, false⟩])])
def w40_34 : State := (mm (murec 1 (gen 0 0 0 0 4000 8) (gen 0 0 0 0 3000 8)) { powered := 3 } [(53, [⟨8, false⟩])])
def w40_35 : State := (mm (murec 1 (gen 0 0 0 0 4000 8) (gen 1 0 0 0 3000 8)) { powered := 3, flip := 1, wr := { waits := true } } [])
def w40_36 : State := (mm (murec 1 (gen 0 0 0 0 4000 8) (gen 1 0 0 0 3000 8)) { powered := 3, flip := 1, wr := { waits := false } } [])
def w40_37 : State := (wn { opened := true, gen := 4, closing := true, job := 3, closeAt := 0 } { zeroing := 2, powered := 2, mem := [(256, 7)] } (17 + 256 * 2^12))
def w40_38 : State := (wn { opened := true, gen := 4, closing := true, job := 3, closeAt := 0, outstanding := 2 } { waking := 2 } 0)
def w40_39 : State := { wn { opened := true, gen := 4, closing := true, job := 3, closeAt := 199999999, outstanding := 2 } { waking := 2 } 0 with own := {} }
def w40_40 : Fin 4 := (2 : Fin 4) -- steering: unit 1 record
def w40_41 : State := (st (surec 1 0 0 2 0 1 0x10 0 0 7 1) 1 ent)
def w40_42 : State := (st (surec 1 0 0 2 0 1 0x10 0 0 7 1) 2 ent)
def w40_43 : State := (st (surec 2 0 0 2 14 1 0x10 0 0 7 2) 0 ent)
def w40_44 : State := (st (surec 3 0 0 2 14 1 0x10 0 0 7 2) 0 ent)
def w40_45 : State := (st (surec 4 0 0 2 14 1 0x10 0 0 7 2) 3 ent)
def w40_46 : State := (st (surec 4 0 0 2 14 1 0x10 0 0 7 2) 0 ent)
def w40_47 : State := (st (surec 5 0 0 2 14 1 0x10 0 0 7 2) 3 ent)
def w40_48 : State := (st (surec 7 0 0 2 14 1 0x10 0 0 7 2) 3 ent)
def w40_49 : State := (st (surec 6 0 0 2 14 1 0x10 0 0 7 2) 3 ent)
def w40_50 : State := (st (surec 6 0 0 2 14 1 0x10 0 0 7 2) 3 ⟨5,false⟩)
def w40_51 : State := (st (surec 0 0 0 2 14 1 0x10 0 0 7 2) 3 ⟨5,false⟩)
def w40_52 : State := (cel 17 { mat := mrec 1 9 9 0 0 1 0 } { q := [(36, [ent]), (37, [ent])] })
def w40_53 : State := (cel 17 { mat := mrec 0 9 9 1 0 1 0 } { q := [(36, [ent]), (37, [ent])], panel := some [5] })
def w40_54 : State := (cel 17 { mat := mrec 0 9 9 1 0 1 0 } { q := [(36, [ent]), (37, [ent])], panel := some [5], side := true })
def w40_55 : State := (cel 17 { mat := mrec 0 9 9 1 0 1 0 } { q := [(36, [ent]), (37, [ent])] })
def w40_56 : State := (cel 17 { mat := mrec 1 9 9 1 0 1 0 } { q := [(36, [ent])] })
def w40_58 : State := (tmr { cfg := bcf, armed := true, running := true, sinkLast := true, disarm := true, start := 199999500 })
def w40_59 : State := (tmr { cfg := bcf, armed := true, old := [⟨bcf, 199999500, false, false, true⟩] })
def w40_60 : OldBeat := (⟨bcf, 199999500, false, false, true⟩ : OldBeat)
def w40_61 : State := (mx (mrec 0 9 9 0 0 1 3) { takenA := e64, takenB := e64, mtile := 2 })
def w40_62 : State := (mx (mrec 0 9 9 0 2 1 3) { done := [.fp (List.replicate 4096 0)], drained := 2 })
def w40_63 : MTile := MTile.fp (List.replicate 4096 0)
def w40_64 : State := (vx (vrec 1 0 0 15 0 0 64 64 0) { vec := { ftq := ftq1, taken := true, row := 2 } })

theorem witness_Switches :
    (jobRuns w40_0 = true ∧ w40_0.job.churn.wave.active = false ∧ getWire (getCell w40_0 17) (inKey (netNo Net.vector) 2) = [ent] ∧ List.length (getQ (getCell w40_0 17) (inKey (netNo Net.vector) 2)) < qDepth 17 (netNo Net.vector) 2 ∧ feeds (getRec w40_0 17) (netNo Net.vector) 2 ≠ []) ∧
    (jobRuns w40_0 = true ∧ w40_0.job.churn.wave.active = false ∧ getWire (getCell w40_0 17) (inKey (netNo Net.vector) 2) = [ent] ∧ List.length (getQ (getCell w40_0 17) (inKey (netNo Net.vector) 2)) < qDepth 17 (netNo Net.vector) 2 ∧ w40_0.job.ckpt = Option.none ∧ w40_0.ras.testing = false) ∧
    (jobRuns w40_1 = true ∧ w40_1.job.churn.wave.active = false ∧ getWire (getCell w40_1 17) (inKey (netNo Net.vector) 2) = [ent] ∧ List.length (getQ (getCell w40_1 17) (inKey (netNo Net.vector) 2)) < qDepth 17 (netNo Net.vector) 2 ∧ feeds (getRec w40_1 17) (netNo Net.vector) 2 = [] ∧ w40_1.jobc.st = 1) ∧
    (jobRuns w40_2 = true ∧ w40_2.job.churn.wave.active = false ∧ getWire (getCell w40_2 17) (inKey (netNo Net.vector) 2) = [ent] ∧ qDepth 17 (netNo Net.vector) 2 ≤ List.length (getQ (getCell w40_2 17) (inKey (netNo Net.vector) 2))) ∧
    (jobRuns w40_3 = true ∧ w40_3.job.churn.wave.active = false ∧ getQ (getCell w40_3 17) (inKey (netNo Net.vector) 2) = [ent] ∧ feeds (getRec w40_3 17) (netNo Net.vector) 2 = [Feed.out 0] ∧ neighbour 17 0 = Option.some (16, 2) ∧ 0 < outCredit w40_3 17 (netNo Net.vector) 0) ∧
    (jobRuns w40_4 = true ∧ w40_4.job.churn.wave.active = false ∧ getQ (getCell w40_4 17) (inKey (netNo Net.vector) 2) = [ent] ∧ ∃ f ∈ feeds (getRec w40_4 17) (netNo Net.vector) 2, feedRoom w40_4 17 (netNo Net.vector) f = false) ∧
    (jobRuns w40_5 = true ∧ w40_5.job.churn.wave.active = false ∧ getQ (getCell w40_5 17) (locKey 0 4) = [ent] ∧ (matRec (getRec w40_5 17).mat).enable = true ∧ (matRec (getRec w40_5 17).mat).op ≠ 1 ∧ List.length (getCell w40_5 17).takenA < matNeedA (matRec (getRec w40_5 17).mat) ∧ List.length (getCell w40_5 17).done < 2 ∧ (matRec (getRec w40_5 17).mat).bHold = false) ∧
    (jobRuns w40_5 = true ∧ w40_5.job.churn.wave.active = false ∧ getQ (getCell w40_5 17) (locKey 0 5) = [ent] ∧ (matRec (getRec w40_5 17).mat).enable = true ∧ (matRec (getRec w40_5 17).mat).op ≠ 1 ∧ List.length (getCell w40_5 17).done < 2 ∧ ((matRec (getRec w40_5 17).mat).bHold = false ∨ (getCell w40_5 17).panel = Option.none) ∧ List.length (getCell w40_5 17).takenB < matNeedB (matRec (getRec w40_5 17).mat)) ∧
    (jobRuns w40_52 = true ∧ w40_52.job.churn.wave.active = false ∧ getQ (getCell w40_52 17) (locKey 0 4) = [ent] ∧ getQ (getCell w40_52 17) (locKey 0 5) = [ent] ∧ (matRec (getRec w40_52 17).mat).enable = true ∧ (matRec (getRec w40_52 17).mat).op = 1 ∧ List.length (getCell w40_52 17).takenA < matNeedA (matRec (getRec w40_52 17).mat) ∧ List.length (getCell w40_52 17).done < 2) ∧
    (jobRuns w40_53 = true ∧ w40_53.job.churn.wave.active = false ∧ getQ (getCell w40_53 17) (locKey 0 4) = [ent] ∧ (matRec (getRec w40_53 17).mat).enable = true ∧ (matRec (getRec w40_53 17).mat).op ≠ 1 ∧ List.length (getCell w40_53 17).takenA < matNeedA (matRec (getRec w40_53 17).mat) ∧ List.length (getCell w40_53 17).done < 2 ∧ (matRec (getRec w40_53 17).mat).bHold = true ∧ Option.isSome (getCell w40_53 17).panel = true ∧ (getCell w40_53 17).side = false) ∧
    (jobRuns w40_54 = true ∧ w40_54.job.churn.wave.active = false ∧ getQ (getCell w40_54 17) (locKey 0 5) = [ent] ∧ (matRec (getRec w40_54 17).mat).enable = true ∧ (matRec (getRec w40_54 17).mat).op ≠ 1 ∧ List.length (getCell w40_54 17).done < 2 ∧ (matRec (getRec w40_54 17).mat).bHold = true ∧ Option.isSome (getCell w40_54 17).panel = true ∧ (getCell w40_54 17).side = true ∧ List.length (getCell w40_54 17).takenA < matNeedA (matRec (getRec w40_54 17).mat)) ∧
    (jobRuns w40_55 = true ∧ w40_55.job.churn.wave.active = false ∧ getQ (getCell w40_55 17) (locKey 0 4) = [ent] ∧ (matRec (getRec w40_55 17).mat).enable = true ∧ (matRec (getRec w40_55 17).mat).op ≠ 1 ∧ List.length (getCell w40_55 17).takenA < matNeedA (matRec (getRec w40_55 17).mat) ∧ List.length (getCell w40_55 17).done < 2 ∧ (matRec (getRec w40_55 17).mat).bHold = true ∧ (getCell w40_55 17).panel = Option.none) ∧
    (jobRuns w40_56 = true ∧ w40_56.job.churn.wave.active = false ∧ (matRec (getRec w40_56 17).mat).op = 1 ∧ (getQ (getCell w40_56 17) (locKey 0 4) = [] ∨ getQ (getCell w40_56 17) (locKey 0 5) = [])) :=
  ⟨by decide +kernel, by decide +kernel, by decide +kernel, by decide +kernel, by decide +kernel, by decide +kernel,
    by decide +kernel, by decide +kernel, by decide +kernel, by decide +kernel, by decide +kernel, by decide +kernel,
    by decide +kernel⟩

theorem witness_Beats :
    (jobRuns w40_6 = true ∧ List.length w40_6.job.grid.timers = 8 ∧ (nth { } w40_6.job.grid.timers 2).armed = true ∧ (nth { } w40_6.job.grid.timers 2).running = false ∧ (nth { } w40_6.job.grid.timers 2).srcSent = true ∧ w40_6.job.sched.running = false) ∧
    (jobRuns w40_7 = true ∧ List.length w40_7.job.grid.timers = 8 ∧ (nth { } w40_7.job.grid.timers 2).running = false ∧ (nth { } w40_7.job.grid.timers 2).srcSent = false) ∧
    (jobRuns w40_8 = true ∧ List.length w40_8.job.grid.timers = 8 ∧ (nth { } w40_8.job.grid.timers 2).running = true ∧ (nth { } w40_8.job.grid.timers 2).sinkLast = true ∧ w40_8.now - (nth { } w40_8.job.grid.timers 2).start ≤ BitVec.toNat (nth { } w40_8.job.grid.timers 2).cfg / 2 ^ 32 % 2 ^ 15 ∧ (nth { } w40_8.job.grid.timers 2).old = [] ∧ (nth { } w40_8.job.grid.timers 2).disarm = false) ∧
    (jobRuns w40_8 = true ∧ List.length w40_8.job.grid.timers = 8 ∧ w40_8.now - (nth { } w40_8.job.grid.timers 2).start ≤ BitVec.toNat (nth { } w40_8.job.grid.timers 2).cfg / 2 ^ 32 % 2 ^ 15 ∧ (nth { } w40_8.job.grid.timers 2).old = []) ∧
    (jobRuns w40_9 = true ∧ List.length w40_9.job.grid.timers = 8 ∧ (nth { } w40_9.job.grid.timers 2).running = true ∧ (nth { } w40_9.job.grid.timers 2).sinkLast = false ∧ ∀ b ∈ (nth { } w40_9.job.grid.timers 2).old, b.sinkLast = false) ∧
    (jobRuns w40_10 = true ∧ List.length w40_10.job.grid.timers = 8 ∧ (nth { } w40_10.job.grid.timers 2).running = true ∧ (nth { } w40_10.job.grid.timers 2).overrun = false ∧ BitVec.toNat (nth { } w40_10.job.grid.timers 2).cfg / 2 ^ 32 % 2 ^ 15 < w40_10.now - (nth { } w40_10.job.grid.timers 2).start ∧ (nth { } w40_10.job.grid.timers 2).old = []) ∧
    (jobRuns w40_10 = true ∧ List.length w40_10.job.grid.timers = 8 ∧ (nth { } w40_10.job.grid.timers 2).running = true ∧ (nth { } w40_10.job.grid.timers 2).sinkLast = false ∧ w40_10.limits.hangUs * 1600 ≤ w40_10.now - (nth { } w40_10.job.grid.timers 2).start ∧ stallRoot w40_10 = Option.some (4, 2, 7) ∧ Rec.valid w40_10.recs.grid = false ∧ w40_10.job.ckpt = Option.none ∧ w40_10.ras.testing = false) ∧
    (jobRuns w40_58 = true ∧ List.length w40_58.job.grid.timers = 8 ∧ (nth { } w40_58.job.grid.timers 2).running = true ∧ (nth { } w40_58.job.grid.timers 2).sinkLast = true ∧ w40_58.now - (nth { } w40_58.job.grid.timers 2).start ≤ BitVec.toNat (nth { } w40_58.job.grid.timers 2).cfg / 2 ^ 32 % 2 ^ 15 ∧ (nth { } w40_58.job.grid.timers 2).old = [] ∧ (nth { } w40_58.job.grid.timers 2).disarm = true) ∧
    (jobRuns w40_59 = true ∧ List.length w40_59.job.grid.timers = 8 ∧ (nth { } w40_59.job.grid.timers 2).old = [w40_60] ∧ w40_60.sinkLast = true ∧ (nth { } w40_59.job.grid.timers 2).running = false ∧ w40_59.now - w40_60.start ≤ BitVec.toNat w40_60.cfg / 2 ^ 32 % 2 ^ 15) :=
  ⟨by decide +kernel, by decide +kernel, by decide +kernel, by decide +kernel, by decide +kernel, by decide +kernel,
    by decide +kernel, by decide +kernel, by decide +kernel⟩

theorem witness_Engines_MatrixEngine :
    (jobRuns w40_11 = true ∧ (matRec (getRec w40_11 17).mat).enable = true ∧ (matRec (getRec w40_11 17).mat).tileCount = 0 ∧ List.length (getCell w40_11 17).takenA = matNeedA (matRec (getRec w40_11 17).mat) ∧ (if (matRec (getRec w40_11 17).mat).bHold = true then (getCell w40_11 17).panel ≠ Option.none else List.length (if (matRec (getRec w40_11 17).mat).bHold = true then Option.getD (getCell w40_11 17).panel [] else (getCell w40_11 17).takenB) = matNeedB (matRec (getRec w40_11 17).mat)) ∧ List.length (getCell w40_11 17).done < 2 ∧ matResidueBad (matUpset (matTile (matRec (getRec w40_11 17).mat) (List.map BitVec.toNat (getCell w40_11 17).takenA) (List.map BitVec.toNat (if (matRec (getRec w40_11 17).mat).bHold = true then Option.getD (getCell w40_11 17).panel [] else (getCell w40_11 17).takenB))) 7 0) 0 = false ∧ matSat (matUpset (matTile (matRec (getRec w40_11 17).mat) (List.map BitVec.toNat (getCell w40_11 17).takenA) (List.map BitVec.toNat (if (matRec (getRec w40_11 17).mat).bHold = true then Option.getD (getCell w40_11 17).panel [] else (getCell w40_11 17).takenB))) 7 0) = false) ∧
    (jobRuns w40_12 = true ∧ tileReady (getCell w40_12 17) (matRec (getRec w40_12 17).mat) = true ∧ matResidueBad (matUpset (matTile (matRec (getRec w40_12 17).mat) (List.map BitVec.toNat (getCell w40_12 17).takenA) (List.map BitVec.toNat (if (matRec (getRec w40_12 17).mat).bHold = true then Option.getD (getCell w40_12 17).panel [] else (getCell w40_12 17).takenB))) 7 3) 3 = true ∧ w40_12.job.ckpt = Option.none ∧ w40_12.ras.testing = false ∧ Rec.valid w40_12.recs.unit = false) ∧
    (jobRuns w40_13 = true ∧ List.length (getCell w40_13 17).takenA < matNeedA (matRec (getRec w40_13 17).mat)) ∧
    (jobRuns w40_14 = true ∧ tileReady (getCell w40_14 17) (matRec (getRec w40_14 17).mat) = true ∧ matResidueBad (matUpset (matTile (matRec (getRec w40_14 17).mat) (List.map BitVec.toNat (getCell w40_14 17).takenA) (List.map BitVec.toNat (if (matRec (getRec w40_14 17).mat).bHold = true then Option.getD (getCell w40_14 17).panel [] else (getCell w40_14 17).takenB))) 7 0) 0 = false ∧ matSat (matUpset (matTile (matRec (getRec w40_14 17).mat) (List.map BitVec.toNat (getCell w40_14 17).takenA) (List.map BitVec.toNat (if (matRec (getRec w40_14 17).mat).bHold = true then Option.getD (getCell w40_14 17).panel [] else (getCell w40_14 17).takenB))) 7 0) = true ∧ Rec.valid w40_14.recs.grid = false) ∧
    (jobRuns w40_19 = true ∧ (matRec (getRec w40_19 17).mat).enable = true ∧ (matRec (getRec w40_19 17).mat).bHold = true ∧ (getCell w40_19 17).panel = Option.none ∧ List.length (getCell w40_19 17).takenB = matNeedB (matRec (getRec w40_19 17).mat)) ∧
    (jobRuns w40_61 = true ∧ tileReady (getCell w40_61 17) (matRec (getRec w40_61 17).mat) = true ∧ (matRec (getRec w40_61 17).mat).tileCount = (getCell w40_61 17).mtile + 1 ∧ matResidueBad (matUpset (matTile (matRec (getRec w40_61 17).mat) (List.map BitVec.toNat (getCell w40_61 17).takenA) (List.map BitVec.toNat (if (matRec (getRec w40_61 17).mat).bHold = true then Option.getD (getCell w40_61 17).panel [] else (getCell w40_61 17).takenB))) 7 0) 0 = false ∧ matSat (matUpset (matTile (matRec (getRec w40_61 17).mat) (List.map BitVec.toNat (getCell w40_61 17).takenA) (List.map BitVec.toNat (if (matRec (getRec w40_61 17).mat).bHold = true then Option.getD (getCell w40_61 17).panel [] else (getCell w40_61 17).takenB))) 7 0) = false) :=
  ⟨by decide +kernel, by decide +kernel, by decide +kernel, by decide +kernel, by decide +kernel, by decide +kernel⟩

theorem witness_Engines_VectorPipeline :
    (jobRuns w40_21 = true ∧ w40_21.job.churn.wave.active = false ∧ rowReady (getCell w40_21 17) (vecRec (getRec w40_21 17).vec) = true ∧ (vecRec (getRec w40_21 17).vec).mode1 = false ∧ (vecRec (getRec w40_21 17).vec).src = 0 ∧ (getCell w40_21 17).vec.row ≠ 63 ∧ vecLoading (vecRec (getRec w40_21 17).vec) (getCell w40_21 17).vec = false ∧ (getCell w40_21 17).vec.taken = true ∧ vecUsesSide (vecRec (getRec w40_21 17).vec) = false) ∧
    (jobRuns w40_21 = true ∧ w40_21.job.churn.wave.active = false ∧ rowReady (getCell w40_21 17) (vecRec (getRec w40_21 17).vec) = true ∧ w40_21.job.ckpt = Option.none ∧ w40_21.ras.testing = false ∧ Rec.valid w40_21.recs.unit = false) ∧
    (jobRuns w40_21 = true ∧ w40_21.job.churn.wave.active = false ∧ ((getCell w40_21 17).vec.row < vecRows (vecRec (getRec w40_21 17).vec) ∨ (vecRec (getRec w40_21 17).vec).tokenOut = true ∧ unitRoom (getCell w40_21 17) 17 2 4 1 = false)) ∧
    (jobRuns w40_22 = true ∧ w40_22.job.churn.wave.active = false ∧ rowReady (getCell w40_22 17) (vecRec (getRec w40_22 17).vec) = true ∧ (vecRec (getRec w40_22 17).vec).mode1 = false ∧ (vecRec (getRec w40_22 17).vec).src = 0 ∧ (getCell w40_22 17).vec.row ≠ 63 ∧ vecLoading (vecRec (getRec w40_22 17).vec) (getCell w40_22 17).vec = true) ∧
    (jobRuns w40_23 = true ∧ w40_23.job.churn.wave.active = false ∧ rowReady (getCell w40_23 17) (vecRec (getRec w40_23 17).vec) = false) ∧
    (jobRuns w40_24 = true ∧ w40_24.job.churn.wave.active = false ∧ (vecRec (getRec w40_24 17).vec).enable = true ∧ vecLoading (vecRec (getRec w40_24 17).vec) (getCell w40_24 17).vec = false ∧ (getCell w40_24 17).vec.row = vecRows (vecRec (getRec w40_24 17).vec) ∧ (vecRec (getRec w40_24 17).vec).vtiles = 0 ∧ ((vecRec (getRec w40_24 17).vec).tokenOut = true → unitRoom (getCell w40_24 17) 17 2 4 1 = true)) ∧
    (jobRuns w40_64 = true ∧ w40_64.job.churn.wave.active = false ∧ rowReady (getCell w40_64 17) (vecRec (getRec w40_64 17).vec) = true ∧ rowsAtOnce (vecRec (getRec w40_64 17).vec) (getCell w40_64 17).vec = 2) :=
  ⟨by decide +kernel, by decide +kernel, by decide +kernel, by decide +kernel, by decide +kernel, by decide +kernel,
    by decide +kernel⟩

theorem witness_MemoryUnits :
    (jobRuns w40_27 = true ∧ w40_27.job.churn.wave.active = false ∧ w40_27.job.ckpt = Option.none ∧ getQ (getCell w40_27 17) (if (wrGen (getRec w40_27 17).mu).net = 0 then locKey 0 6 else locKey 1 5) = [ent] ∧ (wrGen (getRec w40_27 17).mu).enable = true ∧ (wrGen (getRec w40_27 17).mu).mode ≠ 1 ∧ (getCell w40_27 17).mu.wr.waits = false ∧ genDone (wrGen (getRec w40_27 17).mu) (getCell w40_27 17).mu.wr = false ∧ genDone (wrGen (getRec w40_27 17).mu) (genStep (wrGen (getRec w40_27 17).mu) (region (getRec w40_27 17).mu (wrGen (getRec w40_27 17).mu).region).double (getCell w40_27 17).mu.wr) = false ∧ 0 ≤ genElem (wrGen (getRec w40_27 17).mu) (getCell w40_27 17).mu.wr.elem ∧ (Int.toNat (genElem (wrGen (getRec w40_27 17).mu) (getCell w40_27 17).mu.wr.elem) + 1) * genWidth (wrGen (getRec w40_27 17).mu) ≤ regionSize (region (getRec w40_27 17).mu (wrGen (getRec w40_27 17).mu).region) ∧ bankReady (getCell w40_27 17).mu (regionBase (region (getRec w40_27 17).mu (wrGen (getRec w40_27 17).mu).region) (beatHalf (getCell w40_27 17).mu (wrGen (getRec w40_27 17).mu).region) + Int.toNat (genElem (wrGen (getRec w40_27 17).mu) (getCell w40_27 17).mu.wr.elem) * genWidth (wrGen (getRec w40_27 17).mu)) = true) ∧
    (jobRuns w40_28 = true ∧ w40_28.job.churn.wave.active = false ∧ w40_28.job.ckpt = Option.none ∧ getQ (getCell w40_28 17) (if (wrGen (getRec w40_28 17).mu).net = 0 then locKey 0 6 else locKey 1 5) = [ent] ∧ (wrGen (getRec w40_28 17).mu).enable = true ∧ (wrGen (getRec w40_28 17).mu).mode ≠ 1 ∧ (getCell w40_28 17).mu.wr.waits = false ∧ genDone (wrGen (getRec w40_28 17).mu) (getCell w40_28 17).mu.wr = false ∧ genDone (wrGen (getRec w40_28 17).mu) (genStep (wrGen (getRec w40_28 17).mu) (region (getRec w40_28 17).mu (wrGen (getRec w40_28 17).mu).region).double (getCell w40_28 17).mu.wr) = false ∧ 0 ≤ genElem (wrGen (getRec w40_28 17).mu) (getCell w40_28 17).mu.wr.elem ∧ regionSize (region (getRec w40_28 17).mu (wrGen (getRec w40_28 17).mu).region) < (Int.toNat (genElem (wrGen (getRec w40_28 17).mu) (getCell w40_28 17).mu.wr.elem) + 1) * genWidth (wrGen (getRec w40_28 17).mu)) ∧
    (jobRuns w40_29 = true ∧ w40_29.job.churn.wave.active = false ∧ w40_29.job.ckpt = Option.none ∧ (rdGen (getRec w40_29 17).mu).enable = true ∧ (rdGen (getRec w40_29 17).mu).mode = 0 ∧ (getCell w40_29 17).mu.rd.waits = false ∧ genDone (rdGen (getRec w40_29 17).mu) (getCell w40_29 17).mu.rd = false ∧ 0 ≤ genElem (rdGen (getRec w40_29 17).mu) (getCell w40_29 17).mu.rd.elem ∧ List.length (getWire (getCell w40_29 17) (inKey (rdGen (getRec w40_29 17).mu).net 5)) + List.length (getQ (getCell w40_29 17) (inKey (rdGen (getRec w40_29 17).mu).net 5)) < qDepth 17 (rdGen (getRec w40_29 17).mu).net 5 ∧ ((Int.toNat (genElem (rdGen (getRec w40_29 17).mu) (getCell w40_29 17).mu.rd.elem) + 1) * if (rdGen (getRec w40_29 17).mu).net = 0 then 64 else 4) ≤ regionSize (region (getRec w40_29 17).mu (rdGen (getRec w40_29 17).mu).region) ∧ bankReady (getCell w40_29 17).mu (regionBase (region (getRec w40_29 17).mu (rdGen (getRec w40_29 17).mu).region) (if (region (getRec w40_29 17).mu (rdGen (getRec w40_29 17).mu).region).double = true then !beatHalf (getCell w40_29 17).mu (rdGen (getRec w40_29 17).mu).region else false) + Int.toNat (genElem (rdGen (getRec w40_29 17).mu) (getCell w40_29 17).mu.rd.elem) * if (rdGen (getRec w40_29 17).mu).net = 0 then 64 else 4) = true ∧ (regionBase (region (getRec w40_29 17).mu (rdGen (getRec w40_29 17).mu).region) (if (region (getRec w40_29 17).mu (rdGen (getRec w40_29 17).mu).region).double = true then !beatHalf (getCell w40_29 17).mu (rdGen (getRec w40_29 17).mu).region else false) + Int.toNat (genElem (rdGen (getRec w40_29 17).mu) (getCell w40_29 17).mu.rd.elem) * if (rdGen (getRec w40_29 17).mu).net = 0 then 64 else 4) / 64 ∉ (getCell w40_29 17).mu.poison ∧ w40_29.ras.testing = false) ∧
    (jobRuns w40_30 = true ∧ w40_30.job.churn.wave.active = false ∧ w40_30.job.ckpt = Option.none ∧ (rdGen (getRec w40_30 17).mu).enable = true ∧ (rdGen (getRec w40_30 17).mu).mode = 0 ∧ (getCell w40_30 17).mu.rd.waits = false ∧ genDone (rdGen (getRec w40_30 17).mu) (getCell w40_30 17).mu.rd = false ∧ 0 ≤ genElem (rdGen (getRec w40_30 17).mu) (getCell w40_30 17).mu.rd.elem ∧ List.length (getWire (getCell w40_30 17) (inKey (rdGen (getRec w40_30 17).mu).net 5)) + List.length (getQ (getCell w40_30 17) (inKey (rdGen (getRec w40_30 17).mu).net 5)) < qDepth 17 (rdGen (getRec w40_30 17).mu).net 5 ∧ regionSize (region (getRec w40_30 17).mu (rdGen (getRec w40_30 17).mu).region) < (Int.toNat (genElem (rdGen (getRec w40_30 17).mu) (getCell w40_30 17).mu.rd.elem) + 1) * if (rdGen (getRec w40_30 17).mu).net = 0 then 64 else 4) ∧
    (jobRuns w40_31 = true ∧ w40_31.job.churn.wave.active = false ∧ w40_31.job.ckpt = Option.none ∧ (getCell w40_31 17).mu.flip = 0 ∧ (getCell w40_31 17).mu.flipQ = [w40_32] ∧ (getQ (getCell w40_31 17) (locKey 2 5) = [] ∨ w40_32.behind = 0)) ∧
    (jobRuns w40_33 = true ∧ w40_33.job.churn.wave.active = false ∧ w40_33.job.ckpt = Option.none ∧ (getCell w40_33 17).mu.flip = 0 ∧ (∀ p ∈ (getCell w40_33 17).mu.flipQ, p.behind ≠ 0) ∧ getQ (getCell w40_33 17) (locKey 2 5) = [({ data := 9 } : Entry)] ∧ flipMask (getRec w40_33 17).mu (BitVec.toNat ({ data := 9 } : Entry).data % 256) ≠ 0) ∧
    (jobRuns w40_34 = true ∧ w40_34.job.churn.wave.active = false ∧ w40_34.job.ckpt = Option.none ∧ (getCell w40_34 17).mu.flip = 0 ∧ (∀ p ∈ (getCell w40_34 17).mu.flipQ, p.behind ≠ 0) ∧ getQ (getCell w40_34 17) (locKey 2 5) = [({ data := 8 } : Entry)] ∧ flipMask (getRec w40_34 17).mu (BitVec.toNat ({ data := 8 } : Entry).data % 256) = 0) ∧
    (jobRuns w40_35 = true ∧ w40_35.job.churn.wave.active = false ∧ w40_35.job.ckpt = Option.none ∧ (getCell w40_35 17).mu.flip ≠ 0) ∧
    (jobRuns w40_35 = true ∧ w40_35.job.churn.wave.active = false ∧ w40_35.job.ckpt = Option.none ∧ (getCell w40_35 17).mu.flip = 1#8 <<< 0 ∧ (region (getRec w40_35 17).mu 0).ack = false ∧ winsOn w40_35 17 0 = [] ∧ w40_35.job.churn.tables.ladle = [] ∧ sendersOn w40_35 17 0 = [] ∧ (∀ (k : Fin 4), (strDesc w40_35 (4 * 17 + ↑k)).enable = false) ∧ ((wrGen (getRec w40_35 17).mu).enable = true → (wrGen (getRec w40_35 17).mu).region = 0 → (getCell w40_35 17).mu.wr.waits = true) ∧ ((rdGen (getRec w40_35 17).mu).enable = true → (rdGen (getRec w40_35 17).mu).region = 0 → (getCell w40_35 17).mu.rd.waits = true) ∧ flipsOwed (getCell w40_35 17).mu 0 = 0 ∧ (getCell w40_35 17).mu.poison = []) ∧
    (jobRuns w40_36 = true ∧ w40_36.job.churn.wave.active = false ∧ w40_36.job.ckpt = Option.none ∧ (getCell w40_36 17).mu.flip = 1#8 <<< 0 ∧ (wrGen (getRec w40_36 17).mu).enable = true ∧ (wrGen (getRec w40_36 17).mu).region = 0 ∧ (getCell w40_36 17).mu.wr.waits = false ∧ genDone (wrGen (getRec w40_36 17).mu) (getCell w40_36 17).mu.wr = false) :=
  ⟨by decide +kernel, by decide +kernel, by and_intros <;> decide +kernel, by decide +kernel, by decide +kernel, by decide +kernel,
    by decide +kernel, by decide +kernel, by decide +kernel, by decide +kernel⟩

theorem witness_WindowsAndBanks :
    (List.length w40_37.wins = 64 ∧ List.length w40_37.hosts = 4 ∧ (getWin w40_37 3).opened = true ∧ (getWin w40_37 3).closing = true ∧ (getWin w40_37 3).outstanding = 0 ∧ winHere w40_37 (getWin w40_37 3) = false ∧ (getWin w40_37 3).closeFor = [] ∧ w40_37.job.churn.wave.active = false ∧ w40_37.job.churn.wave.heldSince = Option.none) ∧
    (List.length w40_37.wins = 64 ∧ List.length w40_37.hosts = 4 ∧ BitVec.getLsbD (getCell w40_37 17).mu.zeroing 1 = true) ∧
    (List.length w40_38.wins = 64 ∧ List.length w40_38.hosts = 4 ∧ (getWin w40_38 3).closing = true ∧ (getWin w40_38 3).outstanding ≠ 0) ∧
    (List.length w40_38.wins = 64 ∧ List.length w40_38.hosts = 4 ∧ (getWin w40_38 3).opened = true ∧ (getWin w40_38 3).closing = true ∧ (getWin w40_38 3).outstanding ≠ 0 ∧ (getWin w40_38 3).closeAt + w40_38.limits.closeUs * 1600 ≤ w40_38.now ∧ winHere w40_38 (getWin w40_38 3) = false ∧ (getWin w40_38 3).closeFor = [] ∧ w40_38.job.churn.wave.active = false ∧ w40_38.job.churn.wave.heldSince = Option.none) ∧
    (List.length w40_38.wins = 64 ∧ List.length w40_38.hosts = 4 ∧ BitVec.getLsbD (getCell w40_38 17).mu.waking 1 = true) ∧
    (List.length w40_38.wins = 64 ∧ List.length w40_38.hosts = 4 ∧ OwnerAnswers w40_38 2 ∧ (getCell w40_38 (bits (getHost w40_38 2).muSel 0 9)).mu.coal = [] ∧ (getCell w40_38 (bits (getHost w40_38 2).muSel 0 9)).mu.zeroing = 0 ∧ (getCell w40_38 (bits (getHost w40_38 2).muSel 0 9)).mu.poison = []) ∧
    (List.length w40_39.wins = 64 ∧ List.length w40_39.hosts = 4 ∧ w40_39.now < (getWin w40_39 3).closeAt + w40_39.limits.closeUs * 1600) ∧
    (List.length w40_39.wins = 64 ∧ List.length w40_39.hosts = 4 ∧ (getHost w40_39 ↑w40_40).present = true ∧ w40_39.own.owned = false) :=
  ⟨by decide +kernel, by decide +kernel, by decide +kernel, by decide +kernel, by decide +kernel, by decide +kernel,
    by decide +kernel, by decide +kernel⟩

theorem witness_Steering :
    (jobRuns w40_41 = true ∧ (nth { } (getCell w40_41 17).su 1).busy = SuBusy.idle ∧ (nth { } (getCell w40_41 17).su 1).t = [1#8] ∧ (nth { } (getCell w40_41 17).su 1).d0 = [ent] ∧ (suRec (getRec w40_41 17).su 1).op = 1 ∧ BitVec.toNat 1#8 ≤ (suRec (getRec w40_41 17).su 1).dcount ∧ (suRec (getRec w40_41 17).su 1).grain = 0 ∧ List.all (suFeeds (getRec w40_41 17) (suRec (getRec w40_41 17).su 1) 1 (BitVec.toNat 1#8)) (feedRoom w40_41 17 (suRec (getRec w40_41 17).su 1).dnet) = true) ∧
    (jobRuns w40_42 = true ∧ (nth { } (getCell w40_42 17).su 1).busy = SuBusy.idle ∧ (nth { } (getCell w40_42 17).su 1).t = [2#8] ∧ (nth { } (getCell w40_42 17).su 1).d0 = [ent] ∧ (suRec (getRec w40_42 17).su 1).op = 1 ∧ (suRec (getRec w40_42 17).su 1).dcount < BitVec.toNat 2#8 ∧ Rec.valid w40_42.recs.grid = false) ∧
    (jobRuns w40_43 = true ∧ (nth { } (getCell w40_43 17).su 1).busy = SuBusy.idle ∧ (nth { } (getCell w40_43 17).su 1).t = [0#8] ∧ (nth { } (getCell w40_43 17).su 1).d0 = [ent] ∧ (suRec (getRec w40_43 17).su 1).op = 2 ∧ (suRec (getRec w40_43 17).su 1).d1 = 14 ∧ (suRec (getRec w40_43 17).su 1).grain = 0 ∧ 0#8 = 0 ∧ List.all (feeds (getRec w40_43 17) (suRec (getRec w40_43 17).su 1).dnet (8 + 1)) (feedRoom w40_43 17 (suRec (getRec w40_43 17).su 1).dnet) = true) ∧
    (jobRuns w40_44 = true ∧ (nth { } (getCell w40_44 17).su 1).busy = SuBusy.idle ∧ (nth { } (getCell w40_44 17).su 1).t = [0#8] ∧ (nth { } (getCell w40_44 17).su 1).d0 = [ent] ∧ (suRec (getRec w40_44 17).su 1).op = 3 ∧ (suRec (getRec w40_44 17).su 1).grain = 0 ∧ 0#8 = 0 ∧ List.all (feeds (getRec w40_44 17) (suRec (getRec w40_44 17).su 1).dnet (8 + 1)) (feedRoom w40_44 17 (suRec (getRec w40_44 17).su 1).dnet) = true) ∧
    (jobRuns w40_45 = true ∧ (nth { } (getCell w40_45 17).su 1).busy = SuBusy.idle ∧ (nth { } (getCell w40_45 17).su 1).t = [3#8] ∧ (nth { } (getCell w40_45 17).su 1).d0 = [ent] ∧ (suRec (getRec w40_45 17).su 1).op = 4 ∧ (suRec (getRec w40_45 17).su 1).grain = 0 ∧ (suRec (getRec w40_45 17).su 1).invert = false ∧ 3#8 ≠ 0 ∧ List.all (feeds (getRec w40_45 17) (suRec (getRec w40_45 17).su 1).dnet (8 + 1)) (feedRoom w40_45 17 (suRec (getRec w40_45 17).su 1).dnet) = true) ∧
    (jobRuns w40_46 = true ∧ (nth { } (getCell w40_46 17).su 1).busy = SuBusy.idle ∧ (nth { } (getCell w40_46 17).su 1).t = [0#8] ∧ (nth { } (getCell w40_46 17).su 1).d0 = [ent] ∧ (suRec (getRec w40_46 17).su 1).op = 4 ∧ (suRec (getRec w40_46 17).su 1).grain = 0 ∧ (suRec (getRec w40_46 17).su 1).invert = false ∧ 0#8 = 0 ∧ (suRec (getRec w40_46 17).su 1).keepLast = false) ∧
    (jobRuns w40_47 = true ∧ (nth { } (getCell w40_47 17).su 1).busy = SuBusy.idle ∧ (nth { } (getCell w40_47 17).su 1).t = [3#8] ∧ (nth { } (getCell w40_47 17).su 1).d0 = [ent] ∧ (suRec (getRec w40_47 17).su 1).op = 5 ∧ 2 ≤ BitVec.toNat 3#8 ∧ List.all (feeds (getRec w40_47 17) (suRec (getRec w40_47 17).su 1).dnet (8 + 1)) (feedRoom w40_47 17 (suRec (getRec w40_47 17).su 1).dnet) = true) ∧
    (jobRuns w40_48 = true ∧ (nth { } (getCell w40_48 17).su 1).busy = SuBusy.idle ∧ (nth { } (getCell w40_48 17).su 1).t = [3#8] ∧ (nth { } (getCell w40_48 17).su 1).d0 = [ent] ∧ (suRec (getRec w40_48 17).su 1).op = 7 ∧ 2 ≤ BitVec.toNat 3#8 ∧ List.all (feeds (getRec w40_48 17) 2 (8 + 1)) (feedRoom w40_48 17 2) = true) ∧
    (jobRuns w40_49 = true ∧ (nth { } (getCell w40_49 17).su 1).busy = SuBusy.idle ∧ (nth { } (getCell w40_49 17).su 1).t = [3#8] ∧ (nth { } (getCell w40_49 17).su 1).d0 = [ent] ∧ (suRec (getRec w40_49 17).su 1).op = 6 ∧ (suRec (getRec w40_49 17).su 1).cmode = 0 ∧ ent.last = true ∧ ((nth { } (getCell w40_49 17).su 1).tally + 1 + 2 ^ (suRec (getRec w40_49 17).su 1).shift - 1) / 2 ^ (suRec (getRec w40_49 17).su 1).shift ≤ 255 ∧ List.all (feeds (getRec w40_49 17) 2 (8 + 1)) (feedRoom w40_49 17 2) = true) ∧
    (jobRuns w40_50 = true ∧ (nth { } (getCell w40_50 17).su 1).busy = SuBusy.idle ∧ (nth { } (getCell w40_50 17).su 1).t = [3#8] ∧ (nth { } (getCell w40_50 17).su 1).d0 = [({ data := 5 } : Entry)] ∧ (suRec (getRec w40_50 17).su 1).op = 6 ∧ (suRec (getRec w40_50 17).su 1).cmode = 0 ∧ ({ data := 5 } : Entry).last = false) ∧
    (jobRuns w40_51 = true ∧ (nth { } (getCell w40_51 17).su 1).busy = SuBusy.idle ∧ (nth { } (getCell w40_51 17).su 1).t = [3#8] ∧ (nth { } (getCell w40_51 17).su 1).d0 = [({ data := 5 } : Entry)] ∧ (suRec (getRec w40_51 17).su 1).op = 0) :=
  ⟨by decide +kernel, by decide +kernel, by decide +kernel, by decide +kernel, by decide +kernel, by decide +kernel,
    by decide +kernel, by decide +kernel, by decide +kernel, by decide +kernel, by decide +kernel⟩

end B40

namespace B41

def pln : Plan := { valid := true, index := 0, lengths := 3, id := 9, pts := [{ cfg := BitVec.ofNat 64 (5 + 2^8 + 3 * 2^33), rate := BitVec.ofNat 64 (100 + 2^12) }] ++ List.replicate 31 {} }
def prt : PortSt := { st := 2, identAt := some 5, farIndex := 1, share := [10, 11], credit := [(10, 50), (11, 50)] }
def ringS : State := { jobS with now := 2000000000, jobc := { jobS.jobc with ptEntry := 0 }, ring := { plan := pln, inForce := pln, ports := List.replicate 8 prt, buckets := [(0, {tokens := 16384, at_ := 0}), (32, {tokens := 16384, at_ := 0})] } }
def rxL : Rx := ⟨.loopback, 2, 5, false⟩
def rxP : Rx := ⟨.port 1 1, 2, 5, false⟩
def looped (b : Body) : State := { ringS with ring := { ringS.ring with loop := [⟨2, 0, 5, false, b⟩] } }
def lsec : List Byte := leBytes 64 (2^32 + 2^40) ++ leBytes 64 (17 + 2*2^36 + 2^47 + 20*2^103 + 2^118) ++ leBytes 32 (30 + 2*2^12 + 4*2^20 + 2^27 + 31*2^32 + 2^44)
def murec0 : List Byte := leBytes 4 (0 + 2 * 32 + 2^11 + 2^15 + 9 * 2^16) ++ List.replicate 92 0
def ls (l : Ladle) : State := { ringS with job := { ringS.job with lad := l, churn := { ringS.job.churn with tables := { ladle := lsec } }, grid := { ringS.job.grid with recs := [(17, { mu := murec0 }), (20, { mu := murec0 }), (30, { mu := murec0 }), (31, { mu := murec0 })] } } }
def row1 : LadRow := { p := 0, t := 0, queue := 0, slot := 0 }
def hf (c : Nat) : DispHalf := { epoch := 5, rows := [row1, { row1 with p := 1, slot := 1 }], qs := [{ queue := 0, credit := c }] }
def rwT (s : State) : Option (List Byte) × State := let x := ladDisp (ladSec s) 0; muTry s x.src (routeAddr s x false 0) (4 * x.rows)
def rw1 (s : State) : List Byte := (rwT s).1.getD []
def rw2 (s : State) : State := (rwT s).2
def rr (s u : State) : Option (List Byte) × State := let x := ladDisp (ladSec s) 0; muTry u x.src (regionBase (region (getRec u x.src).mu x.srcReg) false + 0 * x.rowUnits * 512) (x.rowUnits * 512)
def rr1 (s : State) : List Byte := (rr s (rw2 s)).1.getD []
def rr2 (s : State) : State := (rr s (rw2 s)).2
def an (s : State) : Option (List Byte) × State := let k := ladColl (ladSec s) 0; muTry s k.ans (regionBase (region (getRec s k.ans).mu k.ansReg) (!beatHalf (getCell s k.ans).mu k.ansReg) + 1 * k.ansUnits * 512) (k.ansUnits * 512)
def an1 (s : State) : List Byte := (an s).1.getD []
def an2 (s : State) : State := (an s).2
def ld (c : Nat) : Ladle := { ({} : Ladle) with disps := ({} : Ladle).disps.set 0 { epoch := 5, flight := [hf c] } }
def lsAsk (c : Nat) : State := { ls (ld c) with job := { (ls (ld c)).job with asks := [{ who := .disp 0 0 5, dst := 2, part := 5, win := 3, gen := 4, n := 3 }] } }
def tgg : RowTag := ⟨2, 0, 5, 3, 4, 6⟩
def aq (c : Nat) : AnsQ := { home := 2, win := 3, gen := 4, epoch := 5, credit := c }
def lc (c : Nat) : State := ls { ({} : Ladle) with colls := ({} : Ladle).colls.set 0 { answers := [(1, tgg)], ansQs := [aq c] } }
def wv : Window := { opened := true, gen := 4, cell := 30, region := 0, baseUnit := 0, units := 8, part := 5, free := 6, outstanding := 2, job := 7, flip := true }
def wS (l : Ladle) (v : Window) : State := { ls l with wins := ringS.wins.set 3 v }
def lW (l : Ladle) (v : Window) (b : Body) : State := { wS l v with ring := { ringS.ring with loop := [⟨2, 0, 5, false, b⟩] } }
def rowB : Body := .row 3 4 512 tgg [1,2,3]
def ansB : Body := .answer 3 4 512 5 1 [1,2,3]
def wva : Window := { wv with cell := 20 }
def ldA : Ladle := { ({} : Ladle) with disps := ({} : Ladle).disps.set 0 { epoch := 5, flight := [{ hf 0 with rows := [{ row1 with slot := 1, st := 1 }] }] } }
def lst (t : Nat) : Ladle := { ({} : Ladle) with colls := ({} : Ladle).colls.set 0 { since := some t, markers := (List.range 64).map fun i => (i, 3, 0) } }
def chS (c : Churn) : State := { jobS with now := 200000000, job := { jobS.job with churn := c } }
def im1 : ImgSlot := { st := 1, addr := 4096, bytes := 64 }
def c0 : Churn := {}
def ldS : State := chS { c0 with images := c0.images.set 5 { im1 with st := 2 }, baseValid := true, shadow := { st := 1, slot := 5 } }
def wvS (w : Wave) (rc : List (Nat × CellRec)) : State := { chS { c0 with wave := w } with job := { jobS.job with churn := { c0 with wave := w }, grid := { jobS.job.grid with recs := rc } } }
def w0 : Wave := { active := true, start := 5 }
def wpS : State := let s := wvS { w0 with injected := true, met := [17] } [(17, { mat := leBytes 16 (1 + 9*8 + 9*128 + 2^19), wait := 3 })]; setCell s 17 { takenA := [5] }
def mvS (vat : Bool) : State := { jobS with now := 200000000, tiers := { jobS.tiers with pages := [(9, { st := .moving vat 100 (!vat) 200, job := 7 })], moves := [{ page := 9, toVat := !vat, job := 7, started := true }], near := [(100 * 2^21 + 7, 3)], vat := [(100 * 2^21 + 7, 3)], nearF := [(100, .used), (200, .used)], vatF := [(100, .used), (200, .used)] } }
def due3 : Due := { entry := 3, page := 9, vat := true, before := 5 }
def pfS : State := { mvS false with tiers := { (mvS false).tiers with moves := [] }, job := { jobS.job with sched := { count := 10, due := [due3] } } }
def sdesc (persist : Nat) : List Byte := leBytes 64 (1 + 2*persist + 5 * 2^21 * 2^64 + 2 * 2^128 + 2^160 + 2^176)
def strS (persist : Nat) (x : Stream) (pg : PState) : State := { jobS with
  job := { jobS.job with streams := [(68, x)], churn := { c0 with tables := { streams := [(68, sdesc persist)] } }, grid := { jobS.job.grid with recs := [(17, { mu := murec0 })] } }
  tiers := { jobS.tiers with pages := [(5, { st := pg, job := 7 })], near := [(100 * 2^21 + 7, 3)] } }

def hfr : DispHalf := { hf 3 with rows := [{ row1 with st := 1, redo := [0] }] }
def w41_0 : List LadRow := [{ row1 with p := 1, slot := 1 }]
def w41_1 : LadQ := ({ queue := 0, credit := 3 } : LadQ)
def w41_2 : List LadRow := [{ row1 with p := 1, slot := 1 }]
def w41_3 : LadQ := ({ queue := 0, credit := 0 } : LadQ)
def w41_5 : State := { lc 0 with job := { (lc 0).job with asks := [{ who := .coll 0 0, dst := 2, part := 5, win := 3, gen := 4, n := 3 }] } }
def w41_6 : State := (lW {} { wv with cell := 9 } rowB)
def w41_7 : State := (wS {} { wv with cell := 9 })
def w41_8 : DispHalf := { hf 0 with rows := [{ row1 with slot := 1, st := 1 }] }
def w41_10 : State := (ls { ({} : Ladle) with disps := ({} : Ladle).disps.set 0 { flight := [{ phase := 2 }] } })
def w41_11 : DispHalf := ({ phase := 2 } : DispHalf) -- Churn
def w41_12 : State := (chS { c0 with images := c0.images.set 5 im1 })
def w41_15 : State := (wvS { w0 with injected := true, travel := [(17, 4)] } [(17, { wait := 3 })])
def w41_16 : State := (wvS { w0 with injected := true, met := [17], start := 199999999 } [(17, { wait := 3 })])
def w41_17 : State := (wvS { w0 with injected := true, committed := List.range 512 } [])
def w41_18 : Move := ({ page := 9, toVat := false, job := 7, started := true } : Move)
def w41_19 : Move := ({ page := 9, toVat := true, job := 7, started := true } : Move)
def w41_20 : State := { mvS false with tiers := { (mvS false).tiers with moves := [], nearF := [(100, .zeroing)], vatF := [(100, .zeroing)] }, boot := { jobS.boot with vatZeroed := true } }
def w41_23 : State := (strS 0 { st := 1, addr := 5 * 2^21 } (.near 100))
def w41_24 : State := (strS 0 { st := 1, addr := 6 * 2^21 } (.near 100))
def w41_25 : State := (strS 0 { st := 2, addr := 5 * 2^21 } (.near 100))
def w41_27 : State := (strS 1 { st := 2, addr := 5 * 2^21, pos := 1, shadow := some (6 * 2^21, 64) } (.absent none))
def w41_28 : State := (ls { (ld 3) with disps := (ld 3).disps.set 0 { epoch := 5, flight := [hfr] } })
def w41_29 : LadRow := { row1 with st := 1, redo := [0] }

theorem witness_LadleSends :
    (jobRuns (ls (ld 3)) = true ∧ 0 < ladDisps (ladSec (ls (ld 3))) ∧ (getDisp (ls (ld 3)) 0).flight = [hf 3] ∧ (hf 3).phase = 1 ∧ (hf 3).rows = row1 :: w41_0 ∧ row1.st = 0 ∧ (∀ y ∈ (hf 3).rows, y.redo = []) ∧ List.find? (fun q => q.queue == row1.queue) (hf 3).qs = Option.some w41_1 ∧ muTry (ls (ld 3)) (ladDisp (ladSec (ls (ld 3))) 0).src (routeAddr (ls (ld 3)) (ladDisp (ladSec (ls (ld 3))) 0) (hf 3).letter 0) (4 * (ladDisp (ladSec (ls (ld 3))) 0).rows) = (Option.some (rw1 (ls (ld 3))), rw2 (ls (ld 3))) ∧ wordVoid (rw2 (ls (ld 3))) (nth 0 (unpack 32 (ladDisp (ladSec (ls (ld 3))) 0).rows (leNat (rw1 (ls (ld 3))))) row1.p) = false ∧ (ladDisp (ladSec (ls (ld 3))) 0).rowUnits ≤ w41_1.credit ∧ muTry (rw2 (ls (ld 3))) (ladDisp (ladSec (ls (ld 3))) 0).src (regionBase (region (getRec (rw2 (ls (ld 3))) (ladDisp (ladSec (ls (ld 3))) 0).src).mu (ladDisp (ladSec (ls (ld 3))) 0).srcReg) (hf 3).side + row1.p * (ladDisp (ladSec (ls (ld 3))) 0).rowUnits * 512) ((ladDisp (ladSec (ls (ld 3))) 0).rowUnits * 512) = (Option.some (rr1 (ls (ld 3))), rw2 (ls (ld 3)))) ∧
    (jobRuns (ls (ld 3)) = true ∧ (getColl (ls (ld 3)) 0).answers = []) ∧
    (jobRuns (lsAsk 0) = true ∧ 0 < ladDisps (ladSec (lsAsk 0)) ∧ (getDisp (lsAsk 0) 0).flight = [hf 0] ∧ (hf 0).phase = 1 ∧ (hf 0).rows = row1 :: w41_2 ∧ row1.st = 0 ∧ (∀ y ∈ (hf 0).rows, y.redo = []) ∧ List.find? (fun q => q.queue == row1.queue) (hf 0).qs = Option.some w41_3 ∧ muTry (lsAsk 0) (ladDisp (ladSec (lsAsk 0)) 0).src (routeAddr (lsAsk 0) (ladDisp (ladSec (lsAsk 0)) 0) (hf 0).letter 0) (4 * (ladDisp (ladSec (lsAsk 0)) 0).rows) = (Option.some (rw1 (lsAsk 0)), rw2 (lsAsk 0)) ∧ wordVoid (rw2 (lsAsk 0)) (nth 0 (unpack 32 (ladDisp (ladSec (lsAsk 0)) 0).rows (leNat (rw1 (lsAsk 0)))) row1.p) = false ∧ w41_3.credit < (ladDisp (ladSec (lsAsk 0)) 0).rowUnits ∧ asking (rw2 (lsAsk 0)) (Asker.disp 0 row1.queue (hf 0).epoch) = true) ∧
    (jobRuns (lc 3) = true ∧ (getDisp (lc 3) 1).flight = []) ∧
    (jobRuns (lc 3) = true ∧ 0 < ladColls (ladSec (lc 3)) ∧ (getColl (lc 3) 0).answers = [(1, tgg)] ∧ (getColl (lc 3) 0).ansQs = [aq 3] ∧ (aq 3).home = BitVec.toNat tgg.home ∧ (aq 3).win = ↑tgg.awin ∧ (aq 3).gen = tgg.agen ∧ (aq 3).epoch = tgg.epoch ∧ (ladColl (ladSec (lc 3)) 0).ansUnits ≤ (aq 3).credit ∧ muTry (lc 3) (ladColl (ladSec (lc 3)) 0).ans ((regionBase (region (getRec (lc 3) (ladColl (ladSec (lc 3)) 0).ans).mu (ladColl (ladSec (lc 3)) 0).ansReg) !beatHalf (getCell (lc 3) (ladColl (ladSec (lc 3)) 0).ans).mu (ladColl (ladSec (lc 3)) 0).ansReg) + 1 * (ladColl (ladSec (lc 3)) 0).ansUnits * 512) ((ladColl (ladSec (lc 3)) 0).ansUnits * 512) = (Option.some (an1 (lc 3)), an2 (lc 3))) ∧
    (jobRuns w41_5 = true ∧ 0 < ladColls (ladSec w41_5) ∧ (getColl w41_5 0).answers = [(1, tgg)] ∧ (getColl w41_5 0).ansQs = [aq 0] ∧ (aq 0).home = BitVec.toNat tgg.home ∧ (aq 0).win = ↑tgg.awin ∧ (aq 0).gen = tgg.agen ∧ (aq 0).epoch = tgg.epoch ∧ (aq 0).credit < (ladColl (ladSec w41_5) 0).ansUnits ∧ asking w41_5 (Asker.coll 0 0) = true) ∧
    (jobRuns w41_28 = true ∧ 0 < ladDisps (ladSec w41_28) ∧ redoRow (getDisp w41_28 0).flight = Option.some (hfr, w41_29)) :=
  ⟨by decide +kernel, by decide +kernel, by decide +kernel, by decide +kernel, by decide +kernel, by decide +kernel,
    by decide +kernel⟩

theorem witness_LadleReceives :
    (List.length w41_7.wins = 64 ∧ List.length w41_7.job.lad.colls = 64 ∧ List.length w41_7.job.lad.disps = 16 ∧ Taken w41_6 rxL (Body.row 3 (4#8) (512#21) tgg [1, 2, 3]) w41_7 ∧ WindowTakes w41_7 rxL 3 4#8 ∧ (getWin w41_7 3).outstanding ≠ 0 ∧ [1, 2, 3] ≠ [] ∧ BitVec.toNat 512#21 % 512 + List.length [1, 2, 3] ≤ 512 ∧ BitVec.toNat 512#21 + List.length [1, 2, 3] ≤ 512 * (getWin w41_7 3).units ∧ collAt w41_7 (getWin w41_7 3).cell (getWin w41_7 3).region = Option.none) ∧
    (List.length (wS { } wv).wins = 64 ∧ List.length (wS { } wv).job.lad.colls = 64 ∧ List.length (wS { } wv).job.lad.disps = 16 ∧ Taken (lW { } wv rowB) rxL (Body.row 3 (4#8) (512#21) tgg [1, 2, 3]) (wS { } wv) ∧ WindowTakes (wS { } wv) rxL 3 4#8 ∧ (getWin (wS { } wv) 3).outstanding ≠ 0 ∧ [1, 2, 3] ≠ [] ∧ BitVec.toNat 512#21 % 512 + List.length [1, 2, 3] ≤ 512 ∧ BitVec.toNat 512#21 + List.length [1, 2, 3] ≤ 512 * (getWin (wS { } wv) 3).units ∧ collAt (wS { } wv) (getWin (wS { } wv) 3).cell (getWin (wS { } wv) 3).region = Option.some (0, ladColl lsec 0) ∧ 0 < (ladColl lsec 0).senders ∧ (getColl (wS { } wv) 0).markers = [] ∧ (∀ y ∈ (getColl (wS { } wv) 0).rows, y.1.home ≠ tgg.home) ∧ (List.length (getColl (wS { } wv) 0).rows + 1) * (ladColl lsec 0).rowUnits * 512 ≤ regionSize (region (getRec (wS { } wv) (ladColl lsec 0).cell).mu (ladColl lsec 0).reg)) ∧
    (List.length (wS ldA wva).wins = 64 ∧ List.length (wS ldA wva).job.lad.colls = 64 ∧ List.length (wS ldA wva).job.lad.disps = 16 ∧ Taken (lW ldA wva ansB) rxL (Body.answer 3 4#8 512#21 5#16 1#13 [1, 2, 3]) (wS ldA wva) ∧ WindowTakes (wS ldA wva) rxL 3 4#8 ∧ (getWin (wS ldA wva) 3).outstanding ≠ 0 ∧ [1, 2, 3] ≠ [] ∧ BitVec.toNat 512#21 % 512 + List.length [1, 2, 3] ≤ 512 ∧ BitVec.toNat 512#21 + List.length [1, 2, 3] ≤ 512 * (getWin (wS ldA wva) 3).units ∧ 0 < ladDisps (ladSec (wS ldA wva)) ∧ (∀ e ≤ 0, (ladDisp (ladSec (wS ldA wva)) ↑e).ans = (getWin (wS ldA wva) 3).cell ∧ (ladDisp (ladSec (wS ldA wva)) ↑e).ansReg = (getWin (wS ldA wva) 3).region ↔ e = 0) ∧ (getDisp (wS ldA wva) 0).flight = [w41_8] ∧ w41_8.epoch = 5#16 ∧ w41_8.phase = 1 ∧ (∃ r ∈ w41_8.rows, r.slot = BitVec.toNat 1#13 ∧ r.st = 1) ∧ BitVec.toNat 512#21 / 512 ∉ w41_8.landed) ∧
    (List.length (wS { } wva).wins = 64 ∧ List.length (wS { } wva).job.lad.colls = 64 ∧ List.length (wS { } wva).job.lad.disps = 16 ∧ Taken (lW { } wva ansB) rxL (Body.answer 3 4#8 512#21 5#16 1#13 [1, 2, 3]) (wS { } wva) ∧ WindowTakes (wS { } wva) rxL 3 4#8 ∧ (getWin (wS { } wva) 3).outstanding ≠ 0 ∧ [1, 2, 3] ≠ [] ∧ BitVec.toNat 512#21 % 512 + List.length [1, 2, 3] ≤ 512 ∧ BitVec.toNat 512#21 + List.length [1, 2, 3] ≤ 512 * (getWin (wS { } wva) 3).units ∧ 0 < ladDisps (ladSec (wS { } wva)) ∧ (∀ e ≤ 0, (ladDisp (ladSec (wS { } wva)) ↑e).ans = (getWin (wS { } wva) 3).cell ∧ (ladDisp (ladSec (wS { } wva)) ↑e).ansReg = (getWin (wS { } wva) 3).region ↔ e = 0) ∧ (getDisp (wS { } wva) 0).flight = [] ∧ (getDisp (wS { } wva) 0).dropped = []) ∧
    (List.length (ls (lst 5)).wins = 64 ∧ List.length (ls (lst 5)).job.lad.colls = 64 ∧ List.length (ls (lst 5)).job.lad.disps = 16 ∧ jobRuns (ls (lst 5)) = true ∧ (getColl (ls (lst 5)) 0).since = Option.some 5 ∧ (getColl (ls (lst 5)) 0).token = Option.none ∧ (ls (lst 5)).limits.halfUs * 1600 < (ls (lst 5)).now - 5 ∧ ∀ m ∈ collMissing (ls (lst 5)) (ladColl (ladSec (ls (lst 5))) 0) (getColl (ls (lst 5)) 0), jobModule (ls (lst 5)) m = myIndex (ls (lst 5))) ∧
    (List.length (ls (lst ringS.now)).wins = 64 ∧ List.length (ls (lst ringS.now)).job.lad.colls = 64 ∧ List.length (ls (lst ringS.now)).job.lad.disps = 16 ∧ jobRuns (ls (lst ringS.now)) = true ∧ (getColl (ls (lst ringS.now)) 0).since = Option.some ringS.now ∧ (getColl (ls (lst ringS.now)) 0).token = Option.none ∧ (ls (lst ringS.now)).now - ringS.now ≤ (ls (lst ringS.now)).limits.halfUs * 1600) ∧
    (List.length w41_10.wins = 64 ∧ List.length w41_10.job.lad.colls = 64 ∧ List.length w41_10.job.lad.disps = 16 ∧ jobRuns w41_10 = true ∧ (getDisp w41_10 (0 % 16)).flight = [w41_11] ∧ w41_11.rows = [] ∧ w41_10.limits.halfUs * 1600 < w41_10.now - w41_11.since) :=
  ⟨by decide +kernel, by decide +kernel, by decide +kernel, by decide +kernel, by decide +kernel, by decide +kernel,
    by decide +kernel⟩

theorem witness_ConfigurationsAndWave_ImagesAndLoads :
    (jobHeld w41_12 = true ∧ List.length w41_12.job.churn.images = 64 ∧ (getImg w41_12 5).st = 1 ∧ (getImg w41_12 5).forOp.prog = 0) ∧
    (jobHeld w41_12 = true ∧ List.length w41_12.job.churn.images = 64 ∧ w41_12.job.churn.shadow.st ≠ 1) ∧
    (jobHeld (chS c0) = true ∧ List.length (chS c0).job.churn.images = 64 ∧ (getImg (chS c0) 5).st ≠ 1) ∧
    (jobHeld ldS = true ∧ List.length ldS.job.churn.images = 64 ∧ ldS.job.churn.shadow.st = 1 ∧ ldS.job.churn.shadow.forOp.prog = 0 ∧ ldS.job.churn.shadow.waiting = Option.none ∧ ldS.job.churn.shadow.recs = [] ∧ ldS.job.churn.baseValid = true) :=
  ⟨by decide +kernel, by decide +kernel, by decide +kernel, by decide +kernel⟩

theorem witness_ConfigurationsAndWave_Wave :
    (jobRuns (wvS w0 []) = true ∧ (wvS w0 []).job.churn.wave.active = true ∧ (wvS w0 []).job.churn.wave.stopped = false ∧ (wvS w0 []).job.churn.wave.injected = false ∧ (wvS w0 []).job.churn.wave.first = false ∧ ∀ (k : Cell), BitVec.getLsbD (getRec (wvS w0 []) ↑k).wait 4 = false) ∧
    (jobRuns (wvS w0 []) = true ∧ BitVec.getLsbD (Tbl.get 0 (wvS w0 []).job.churn.wave.travel 17) (sideNo Side.south) = false) ∧
    (jobRuns (wvS w0 []) = true ∧ 17 ∉ (wvS w0 []).job.churn.wave.met) ∧
    (jobRuns (wvS w0 []) = true ∧ List.length (wvS w0 []).job.churn.wave.committed ≠ 512) ∧
    (jobRuns (wvS w0 []) = true ∧ (wvS w0 []).job.churn.wave.active = true ∧ (wvS w0 []).job.churn.wave.stopped = false ∧ waveWaits (wvS w0 []) = true ∧ (wvS w0 []).limits.swapUs * 1600 < waveTime (wvS w0 []) ∧ (wvS w0 []).job.churn.wave.forOp.prog = 0) ∧
    (jobRuns w41_15 = true ∧ (w41_15.job.churn.wave.active = false ∨ w41_15.job.churn.wave.injected = true)) ∧
    (jobRuns w41_15 = true ∧ w41_15.job.churn.wave.active = true ∧ w41_15.job.churn.wave.stopped = false ∧ BitVec.getLsbD (Tbl.get 0 w41_15.job.churn.wave.travel 17) (sideNo Side.south) = true ∧ splits w41_15 17 (sideNo Side.south) = false ∧ BitVec.setWidth 5 (getRec w41_15 17).wait &&& (waveTokens w41_15 17 ||| 1#5 <<< sideNo Side.south) ≠ BitVec.setWidth 5 (getRec w41_15 17).wait ∧ w41_15.job.churn.wave.first = false) ∧
    (jobRuns w41_15 = true ∧ w41_15.job.churn.wave.active = true ∧ w41_15.job.churn.wave.stopped = false ∧ BitVec.getLsbD (Tbl.get 0 w41_15.job.churn.wave.travel 17) (sideNo Side.south) = true ∧ splits w41_15 17 (sideNo Side.south) = false ∧ w41_15.job.ckpt = Option.none ∧ w41_15.ras.testing = false) ∧
    (jobRuns w41_16 = true ∧ w41_16.job.churn.wave.active = true ∧ w41_16.job.churn.wave.stopped = false ∧ w41_16.job.churn.wave.first = false ∧ 17 ∈ w41_16.job.churn.wave.met ∧ 17 ∉ w41_16.job.churn.wave.committed ∧ cellHeld w41_16 17 = false ∧ (∀ (n : Fin 3) (i : Fin 4), oldLeft w41_16 17 ↑n ↑i = 0) ∧ (∀ (k : Fin 4), suOld (getRec w41_16 17) (↑k) (nth { } (getCell w41_16 17).su ↑k) = false) ∧ cellIdle w41_16 17 = CellIdle.idle ∧ w41_16.job.ckpt = Option.none) ∧
    (jobRuns w41_16 = true ∧ (waveTime w41_16 ≤ w41_16.limits.swapUs * 1600 ∨ waveWaits w41_16 = false)) ∧
    (jobRuns w41_17 = true ∧ w41_17.job.churn.wave.active = true ∧ w41_17.job.churn.wave.stopped = false ∧ List.length w41_17.job.churn.wave.committed = 512 ∧ w41_17.job.churn.shadow.tables = w41_17.job.churn.tables ∧ w41_17.job.churn.wave.forOp.prog = 0 ∧ (getImg w41_17 w41_17.job.churn.shadow.slot).overlay = false) ∧
    (jobRuns wpS = true ∧ wpS.job.churn.wave.active = true ∧ wpS.job.churn.wave.stopped = false ∧ wpS.job.churn.wave.first = false ∧ 17 ∈ wpS.job.churn.wave.met ∧ 17 ∉ wpS.job.churn.wave.committed ∧ cellHeld wpS 17 = false ∧ (∀ (n : Fin 3) (i : Fin 4), oldLeft wpS 17 ↑n ↑i = 0) ∧ (∀ (k : Fin 4), suOld (getRec wpS 17) (↑k) (nth { } (getCell wpS 17).su ↑k) = false) ∧ cellIdle wpS 17 = CellIdle.part 3 ∧ wpS.job.churn.wave.forOp.prog = 0) :=
  ⟨by decide +kernel, by decide +kernel, by decide +kernel, by decide +kernel, by decide +kernel, by decide +kernel,
    by decide +kernel, by decide +kernel, by decide +kernel, by decide +kernel, by decide +kernel, by decide +kernel⟩

theorem witness_TiersAndStreams_TierMoves :
    ((mvS true).tiers.maps = [] ∧ (mvS true).tiers.badNear = [] ∧ (mvS true).tiers.badVat = [] ∧ (mvS true).tiers.lostSlots = [] ∧ (mvS true).ras.failedStacks = 0 ∧ (mvS true).adm.pending = [] ∧ (getPage (mvS true) 9).st = PState.moving true 100 (!true) 200 ∧ (mvS true).tiers.moves = [w41_18] ∧ w41_18.page = 9 ∧ w41_18.started = true ∧ w41_18.forOp = Option.none ∧ frameSt (mvS true) true 100 ≠ FState.retired ∧ true = true) ∧
    ((mvS true).tiers.maps = [] ∧ (mvS true).tiers.badNear = [] ∧ (mvS true).tiers.badVat = [] ∧ (mvS true).tiers.lostSlots = [] ∧ (mvS true).ras.failedStacks = 0 ∧ (mvS true).adm.pending = [] ∧ frameSt (mvS true) true 100 ≠ FState.zeroing) ∧
    ((mvS true).tiers.maps = [] ∧ (mvS true).tiers.badNear = [] ∧ (mvS true).tiers.badVat = [] ∧ (mvS true).tiers.lostSlots = [] ∧ (mvS true).ras.failedStacks = 0 ∧ (mvS true).adm.pending = [] ∧ ∀ e ∈ (mvS true).job.sched.due, e.entry ≠ 3 ∨ (mvS true).job.sched.count < e.before) ∧
    ((mvS true).tiers.maps = [] ∧ (mvS true).tiers.badNear = [] ∧ (mvS true).tiers.badVat = [] ∧ (mvS true).tiers.lostSlots = [] ∧ (mvS true).ras.failedStacks = 0 ∧ (mvS true).adm.pending = [] ∧ jobRuns (mvS true) = true) ∧
    ((mvS false).tiers.maps = [] ∧ (mvS false).tiers.badNear = [] ∧ (mvS false).tiers.badVat = [] ∧ (mvS false).tiers.lostSlots = [] ∧ (mvS false).ras.failedStacks = 0 ∧ (mvS false).adm.pending = [] ∧ (getPage (mvS false) 9).st = PState.moving false 100 (!false) 200 ∧ (mvS false).tiers.moves = [w41_19] ∧ w41_19.page = 9 ∧ w41_19.started = true ∧ w41_19.forOp = Option.none ∧ frameSt (mvS false) false 100 ≠ FState.retired ∧ false = false) ∧
    (w41_20.tiers.maps = [] ∧ w41_20.tiers.badNear = [] ∧ w41_20.tiers.badVat = [] ∧ w41_20.tiers.lostSlots = [] ∧ w41_20.ras.failedStacks = 0 ∧ w41_20.adm.pending = [] ∧ w41_20.tiers.moves = []) ∧
    (w41_20.tiers.maps = [] ∧ w41_20.tiers.badNear = [] ∧ w41_20.tiers.badVat = [] ∧ w41_20.tiers.lostSlots = [] ∧ w41_20.ras.failedStacks = 0 ∧ w41_20.adm.pending = [] ∧ frameSt w41_20 false 100 = FState.zeroing ∧ w41_20.tiers.moves = []) ∧
    (w41_20.tiers.maps = [] ∧ w41_20.tiers.badNear = [] ∧ w41_20.tiers.badVat = [] ∧ w41_20.tiers.lostSlots = [] ∧ w41_20.ras.failedStacks = 0 ∧ w41_20.adm.pending = [] ∧ frameSt w41_20 true 100 = FState.zeroing ∧ w41_20.tiers.moves = [] ∧ w41_20.boot.vatZeroed = true) ∧
    (pfS.tiers.maps = [] ∧ pfS.tiers.badNear = [] ∧ pfS.tiers.badVat = [] ∧ pfS.tiers.lostSlots = [] ∧ pfS.ras.failedStacks = 0 ∧ pfS.adm.pending = [] ∧ jobRuns pfS = true ∧ pfS.job.sched.due = [due3] ∧ due3.entry = 3 ∧ due3.before ≤ pfS.job.sched.count) :=
  ⟨by decide +kernel, by decide +kernel, by decide +kernel, by decide +kernel, by decide +kernel, by decide +kernel,
    by decide +kernel, by decide +kernel, by decide +kernel⟩

theorem witness_TiersAndStreams_StreamTransfers :
    (jobRuns w41_23 = true ∧ strCanStart w41_23 68 = true ∧ strTurn w41_23 68 = true ∧ (strMeet w41_23 68 0 = Meet.word ∨ strMeet w41_23 68 0 = Meet.absent)) ∧
    (jobRuns w41_23 = true ∧ (getStr w41_23 68).again = []) ∧
    (jobRuns w41_23 = true ∧ (getStr w41_23 68).st ≠ 2) ∧
    (jobRuns w41_24 = true ∧ strCanStart w41_24 68 = true ∧ strTurn w41_24 68 = true ∧ strMeet w41_24 68 0 = Meet.unmapped) ∧
    (jobRuns w41_25 = true ∧ strCanStart w41_25 68 = false) ∧
    (jobRuns w41_25 = true ∧ (getStr w41_25 68).st = 2 ∧ (∀ k < strTotal (strDesc w41_25 68), (getStr w41_25 68).pos ≤ k → strMeet w41_25 68 k = Meet.word) ∧ (getStr w41_25 68).pos ≤ strTotal (strDesc w41_25 68) ∧ (strDesc w41_25 68).event = false ∧ w41_25.adm.reqs = []) ∧
    (jobRuns w41_27 = true ∧ 1 < strTotal (strDesc w41_27 68) ∧ (getStr w41_27 68).st = 2 ∧ (getStr w41_27 68).pos ≤ 1 ∧ (∀ j < 1, (getStr w41_27 68).pos ≤ j → strMeet w41_27 68 j = Meet.word) ∧ strMeet w41_27 68 1 = Meet.absent ∧ Rec.valid w41_27.recs.str = false ∧ w41_27.job.ckpt = Option.none ∧ (getStr w41_27 68).quiet = false) :=
  ⟨by decide +kernel, by decide +kernel, by decide +kernel, by decide +kernel, by decide +kernel, by decide +kernel,
    by decide +kernel⟩

end B41

namespace B42

def blk (op : Nat) : List Byte := leBytes 32 (op + 7 * 2^64 + 2^192)
def sqq (op : Nat) : State := let s := runS jobS 2 [wordD 0x34 0 4 6 0 0] [(6, 0x1000)]; { s with cm := Mem.writeN s.cm 0x1000 (blk op) }
def q0 : Nand := ⟨[], []⟩
def q1 : Nand := ⟨[⟨5, 6#8, [1, 2]⟩], [⟨3, 9, 44⟩]⟩
def qd (u : Bool) (x : SepCmd) : State := if u then { jobS with sep := { ({} : Sep) with urgent := [x] } } else { jobS with sep := { ({} : Sep) with bulk := [x] } }
def y0 : SepCmd := { op := 3, job := 7 }
def y1 : SepCmd := { y0 with running := true, result := some 5 }
def y2 : SepCmd := { y0 with op := 2, running := true, result := some 0, slot := some 4 }
def rdA : State := { qd false y2 with sep := { (qd false y2).sep with adps := [(4, { st := 2, id := 5 })] } }
def z0 : SepCmd := { op := 2, job := 7, id := 9 }
def z1 : SepCmd := { z0 with running := true }
def srv : State := { qd false z0 with sep := { (qd false z0).sep with dir := [(3, { id := 9 })] }, adm := { ({} : Adm) with svcs := ({} : Adm).svcs.set 2 { st := 1 } }, jobc := { jobS.jobc with st := 1 } }
def srv2 : State := { srv with adm := { srv.adm with svcs := ({} : Adm).svcs.set 0 { st := 1 } } }
def wk (op : Nat) (d : List (Nat × DirEnt)) (a : List (Nat × AdpSlot)) : State :=
  let s := qd (op == 3 || op == 4) { z1 with op := op, adapter := 5, version := 6 }
  { s with sep := { s.sep with dir := d, adps := a } }
def wx (op : Nat) : SepCmd := { z1 with op := op, adapter := 5, version := 6 }
def de : DirEnt := { id := 9, stripes := [(0, 4)] }
def sd : List (List Byte) := (List.range 6).map fun i => [BitVec.ofNat 8 i, 3, 7]
def sh : List (List Byte) := sd ++ [parityP sd, parityQ sd]
def stp : Stripe := stripeOf 5 3 1 sh
def scr (p : Nat) : State := { jobS with sep := { ({} : Sep) with stripes := [(5, stp), (8, stp)], scrubPos := p, dir := [(3, de)] } }
def w42_0 : State := { sqq 1 with sep := { ({} : Sep) with bulk := List.replicate 16 {} } }
def w42_1 : State := { sqq 2 with sep := { ({} : Sep) with bulk := List.replicate 16 {} } }
def w42_2 : State := { sqq 3 with sep := { ({} : Sep) with urgent := List.replicate 64 {} } }
def w42_3 : State := { sqq 4 with sep := { ({} : Sep) with urgent := List.replicate 64 {} } }
def w42_4 : State := { sqq 5 with sep := { ({} : Sep) with bulk := List.replicate 16 {} } }
def w42_5 : State := { sqq 6 with sep := { ({} : Sep) with bulk := List.replicate 16 {} } }
def w42_6 : State := { sqq 7 with sep := { ({} : Sep) with bulk := List.replicate 16 {} } }
def w42_7 : Nat × DirEnt := (3, ({ id := 9 } : DirEnt))
def w42_9 : State := (wk 6 [] [(4, { st := 2, id := 5, version := 6 })])
def w42_10 : AdpSlot := ({ st := 2, id := 5, version := 6 } : AdpSlot)
def w42_11 : State := (wk 7 [] [(4, { st := 3, id := 5, version := 6, refs := 2 })])
def w42_12 : AdpSlot := ({ st := 3, id := 5, version := 6, refs := 2 } : AdpSlot)

theorem witness_Separator_SeparatorQueues :
    (Sized (sqq 1) ∧ At (sqq 1) 2 (wordD 52 0 4 6 0 0) Option.none ∧ cmOperand (sqq 1) 2 (BitVec.toNat (greg (sqq 1) 2 6)) 32 = Option.some (blk 1) ∧ List.length (blk 1) = 32 ∧ sepBad (leNat (blk 1)) = false ∧ (sqq 1).jobc.st = 1 ∧ List.length (sqq 1).sep.bulk < 16 ∧ sepBusy (sqq 1) ({ op := (sepCmd (leNat (blk 1))).op, tier := (sepCmd (leNat (blk 1))).tier, wset := (sepCmd (leNat (blk 1))).wset, adapter := (sepCmd (leNat (blk 1))).adapter, version := (sepCmd (leNat (blk 1))).version, zword := (sepCmd (leNat (blk 1))).zword, id := (sepCmd (leNat (blk 1))).id, addr := (sepCmd (leNat (blk 1))).addr, count := (sepCmd (leNat (blk 1))).count, forOp := opOf (sqq 1) 2, job := (sqq 1).jobc.id, running := (sepCmd (leNat (blk 1))).running, result := (sepCmd (leNat (blk 1))).result, slot := (sepCmd (leNat (blk 1))).slot, pages := (sepCmd (leNat (blk 1))).pages, req := (sepCmd (leNat (blk 1))).req } : SepCmd) = false ∧ leNat (blk 1) % 16 = 1) ∧
    (Sized w42_0 ∧ At w42_0 2 (wordD 52 0 4 6 0 0) Option.none ∧ cmOperand w42_0 2 (BitVec.toNat (greg w42_0 2 6)) 32 = Option.some (blk 1) ∧ List.length (blk 1) = 32 ∧ sepBad (leNat (blk 1)) = false ∧ w42_0.jobc.st = 1 ∧ (16 ≤ List.length w42_0.sep.bulk ∨ sepBusy w42_0 ({ op := (sepCmd (leNat (blk 1))).op, tier := (sepCmd (leNat (blk 1))).tier, wset := (sepCmd (leNat (blk 1))).wset, adapter := (sepCmd (leNat (blk 1))).adapter, version := (sepCmd (leNat (blk 1))).version, zword := (sepCmd (leNat (blk 1))).zword, id := (sepCmd (leNat (blk 1))).id, addr := (sepCmd (leNat (blk 1))).addr, count := (sepCmd (leNat (blk 1))).count, forOp := opOf w42_0 2, job := w42_0.jobc.id, running := (sepCmd (leNat (blk 1))).running, result := (sepCmd (leNat (blk 1))).result, slot := (sepCmd (leNat (blk 1))).slot, pages := (sepCmd (leNat (blk 1))).pages, req := (sepCmd (leNat (blk 1))).req } : SepCmd) = true) ∧ leNat (blk 1) % 16 = 1) ∧
    (Sized (sqq 2) ∧ At (sqq 2) 2 (wordD 52 0 4 6 0 0) Option.none ∧ cmOperand (sqq 2) 2 (BitVec.toNat (greg (sqq 2) 2 6)) 32 = Option.some (blk 2) ∧ List.length (blk 2) = 32 ∧ sepBad (leNat (blk 2)) = false ∧ (sqq 2).jobc.st = 1 ∧ List.length (sqq 2).sep.bulk < 16 ∧ sepBusy (sqq 2) ({ op := (sepCmd (leNat (blk 2))).op, tier := (sepCmd (leNat (blk 2))).tier, wset := (sepCmd (leNat (blk 2))).wset, adapter := (sepCmd (leNat (blk 2))).adapter, version := (sepCmd (leNat (blk 2))).version, zword := (sepCmd (leNat (blk 2))).zword, id := (sepCmd (leNat (blk 2))).id, addr := (sepCmd (leNat (blk 2))).addr, count := (sepCmd (leNat (blk 2))).count, forOp := opOf (sqq 2) 2, job := (sqq 2).jobc.id, running := (sepCmd (leNat (blk 2))).running, result := (sepCmd (leNat (blk 2))).result, slot := (sepCmd (leNat (blk 2))).slot, pages := (sepCmd (leNat (blk 2))).pages, req := (sepCmd (leNat (blk 2))).req } : SepCmd) = false ∧ leNat (blk 2) % 16 = 2) ∧
    (Sized w42_1 ∧ At w42_1 2 (wordD 52 0 4 6 0 0) Option.none ∧ cmOperand w42_1 2 (BitVec.toNat (greg w42_1 2 6)) 32 = Option.some (blk 2) ∧ List.length (blk 2) = 32 ∧ sepBad (leNat (blk 2)) = false ∧ w42_1.jobc.st = 1 ∧ (16 ≤ List.length w42_1.sep.bulk ∨ sepBusy w42_1 ({ op := (sepCmd (leNat (blk 2))).op, tier := (sepCmd (leNat (blk 2))).tier, wset := (sepCmd (leNat (blk 2))).wset, adapter := (sepCmd (leNat (blk 2))).adapter, version := (sepCmd (leNat (blk 2))).version, zword := (sepCmd (leNat (blk 2))).zword, id := (sepCmd (leNat (blk 2))).id, addr := (sepCmd (leNat (blk 2))).addr, count := (sepCmd (leNat (blk 2))).count, forOp := opOf w42_1 2, job := w42_1.jobc.id, running := (sepCmd (leNat (blk 2))).running, result := (sepCmd (leNat (blk 2))).result, slot := (sepCmd (leNat (blk 2))).slot, pages := (sepCmd (leNat (blk 2))).pages, req := (sepCmd (leNat (blk 2))).req } : SepCmd) = true) ∧ leNat (blk 2) % 16 = 2) ∧
    (Sized (sqq 3) ∧ At (sqq 3) 2 (wordD 52 0 4 6 0 0) Option.none ∧ cmOperand (sqq 3) 2 (BitVec.toNat (greg (sqq 3) 2 6)) 32 = Option.some (blk 3) ∧ List.length (blk 3) = 32 ∧ sepBad (leNat (blk 3)) = false ∧ (sqq 3).jobc.st = 1 ∧ List.length (sqq 3).sep.urgent < 64 ∧ leNat (blk 3) % 16 = 3) ∧
    (Sized w42_2 ∧ At w42_2 2 (wordD 52 0 4 6 0 0) Option.none ∧ cmOperand w42_2 2 (BitVec.toNat (greg w42_2 2 6)) 32 = Option.some (blk 3) ∧ List.length (blk 3) = 32 ∧ sepBad (leNat (blk 3)) = false ∧ w42_2.jobc.st = 1 ∧ 64 ≤ List.length w42_2.sep.urgent ∧ leNat (blk 3) % 16 = 3) ∧
    (Sized (sqq 4) ∧ At (sqq 4) 2 (wordD 52 0 4 6 0 0) Option.none ∧ cmOperand (sqq 4) 2 (BitVec.toNat (greg (sqq 4) 2 6)) 32 = Option.some (blk 4) ∧ List.length (blk 4) = 32 ∧ sepBad (leNat (blk 4)) = false ∧ (sqq 4).jobc.st = 1 ∧ List.length (sqq 4).sep.urgent < 64 ∧ leNat (blk 4) % 16 = 4 ∧ ∀ i < ({ op := (sepCmd (leNat (blk 4))).op, tier := (sepCmd (leNat (blk 4))).tier, wset := (sepCmd (leNat (blk 4))).wset, adapter := (sepCmd (leNat (blk 4))).adapter, version := (sepCmd (leNat (blk 4))).version, zword := (sepCmd (leNat (blk 4))).zword, id := (sepCmd (leNat (blk 4))).id, addr := (sepCmd (leNat (blk 4))).addr, count := (sepCmd (leNat (blk 4))).count, forOp := opOf (sqq 4) 2, job := (sqq 4).jobc.id, running := (sepCmd (leNat (blk 4))).running, result := (sepCmd (leNat (blk 4))).result, slot := (sepCmd (leNat (blk 4))).slot, pages := (sepCmd (leNat (blk 4))).pages, req := (sepCmd (leNat (blk 4))).req } : SepCmd).count, isBacked (getPage (sqq 4) (({ op := (sepCmd (leNat (blk 4))).op, tier := (sepCmd (leNat (blk 4))).tier, wset := (sepCmd (leNat (blk 4))).wset, adapter := (sepCmd (leNat (blk 4))).adapter, version := (sepCmd (leNat (blk 4))).version, zword := (sepCmd (leNat (blk 4))).zword, id := (sepCmd (leNat (blk 4))).id, addr := (sepCmd (leNat (blk 4))).addr, count := (sepCmd (leNat (blk 4))).count, forOp := opOf (sqq 4) 2, job := (sqq 4).jobc.id, running := (sepCmd (leNat (blk 4))).running, result := (sepCmd (leNat (blk 4))).result, slot := (sepCmd (leNat (blk 4))).slot, pages := (sepCmd (leNat (blk 4))).pages, req := (sepCmd (leNat (blk 4))).req } : SepCmd).addr / 2 ^ 21 + i)).st = false) ∧
    (Sized w42_3 ∧ At w42_3 2 (wordD 52 0 4 6 0 0) Option.none ∧ cmOperand w42_3 2 (BitVec.toNat (greg w42_3 2 6)) 32 = Option.some (blk 4) ∧ List.length (blk 4) = 32 ∧ sepBad (leNat (blk 4)) = false ∧ w42_3.jobc.st = 1 ∧ 64 ≤ List.length w42_3.sep.urgent ∧ leNat (blk 4) % 16 = 4) ∧
    (Sized (sqq 5) ∧ At (sqq 5) 2 (wordD 52 0 4 6 0 0) Option.none ∧ cmOperand (sqq 5) 2 (BitVec.toNat (greg (sqq 5) 2 6)) 32 = Option.some (blk 5) ∧ List.length (blk 5) = 32 ∧ sepBad (leNat (blk 5)) = false ∧ (sqq 5).jobc.st = 1 ∧ List.length (sqq 5).sep.bulk < 16 ∧ sepBusy (sqq 5) ({ op := (sepCmd (leNat (blk 5))).op, tier := (sepCmd (leNat (blk 5))).tier, wset := (sepCmd (leNat (blk 5))).wset, adapter := (sepCmd (leNat (blk 5))).adapter, version := (sepCmd (leNat (blk 5))).version, zword := (sepCmd (leNat (blk 5))).zword, id := (sepCmd (leNat (blk 5))).id, addr := (sepCmd (leNat (blk 5))).addr, count := (sepCmd (leNat (blk 5))).count, forOp := opOf (sqq 5) 2, job := (sqq 5).jobc.id, running := (sepCmd (leNat (blk 5))).running, result := (sepCmd (leNat (blk 5))).result, slot := (sepCmd (leNat (blk 5))).slot, pages := (sepCmd (leNat (blk 5))).pages, req := (sepCmd (leNat (blk 5))).req } : SepCmd) = false ∧ leNat (blk 5) % 16 = 5) ∧
    (Sized w42_4 ∧ At w42_4 2 (wordD 52 0 4 6 0 0) Option.none ∧ cmOperand w42_4 2 (BitVec.toNat (greg w42_4 2 6)) 32 = Option.some (blk 5) ∧ List.length (blk 5) = 32 ∧ sepBad (leNat (blk 5)) = false ∧ w42_4.jobc.st = 1 ∧ (16 ≤ List.length w42_4.sep.bulk ∨ sepBusy w42_4 ({ op := (sepCmd (leNat (blk 5))).op, tier := (sepCmd (leNat (blk 5))).tier, wset := (sepCmd (leNat (blk 5))).wset, adapter := (sepCmd (leNat (blk 5))).adapter, version := (sepCmd (leNat (blk 5))).version, zword := (sepCmd (leNat (blk 5))).zword, id := (sepCmd (leNat (blk 5))).id, addr := (sepCmd (leNat (blk 5))).addr, count := (sepCmd (leNat (blk 5))).count, forOp := opOf w42_4 2, job := w42_4.jobc.id, running := (sepCmd (leNat (blk 5))).running, result := (sepCmd (leNat (blk 5))).result, slot := (sepCmd (leNat (blk 5))).slot, pages := (sepCmd (leNat (blk 5))).pages, req := (sepCmd (leNat (blk 5))).req } : SepCmd) = true) ∧ leNat (blk 5) % 16 = 5) ∧
    (Sized (sqq 6) ∧ At (sqq 6) 2 (wordD 52 0 4 6 0 0) Option.none ∧ cmOperand (sqq 6) 2 (BitVec.toNat (greg (sqq 6) 2 6)) 32 = Option.some (blk 6) ∧ List.length (blk 6) = 32 ∧ sepBad (leNat (blk 6)) = false ∧ (sqq 6).jobc.st = 1 ∧ List.length (sqq 6).sep.bulk < 16 ∧ sepBusy (sqq 6) ({ op := (sepCmd (leNat (blk 6))).op, tier := (sepCmd (leNat (blk 6))).tier, wset := (sepCmd (leNat (blk 6))).wset, adapter := (sepCmd (leNat (blk 6))).adapter, version := (sepCmd (leNat (blk 6))).version, zword := (sepCmd (leNat (blk 6))).zword, id := (sepCmd (leNat (blk 6))).id, addr := (sepCmd (leNat (blk 6))).addr, count := (sepCmd (leNat (blk 6))).count, forOp := opOf (sqq 6) 2, job := (sqq 6).jobc.id, running := (sepCmd (leNat (blk 6))).running, result := (sepCmd (leNat (blk 6))).result, slot := (sepCmd (leNat (blk 6))).slot, pages := (sepCmd (leNat (blk 6))).pages, req := (sepCmd (leNat (blk 6))).req } : SepCmd) = false ∧ leNat (blk 6) % 16 = 6) ∧
    (Sized w42_5 ∧ At w42_5 2 (wordD 52 0 4 6 0 0) Option.none ∧ cmOperand w42_5 2 (BitVec.toNat (greg w42_5 2 6)) 32 = Option.some (blk 6) ∧ List.length (blk 6) = 32 ∧ sepBad (leNat (blk 6)) = false ∧ w42_5.jobc.st = 1 ∧ (16 ≤ List.length w42_5.sep.bulk ∨ sepBusy w42_5 ({ op := (sepCmd (leNat (blk 6))).op, tier := (sepCmd (leNat (blk 6))).tier, wset := (sepCmd (leNat (blk 6))).wset, adapter := (sepCmd (leNat (blk 6))).adapter, version := (sepCmd (leNat (blk 6))).version, zword := (sepCmd (leNat (blk 6))).zword, id := (sepCmd (leNat (blk 6))).id, addr := (sepCmd (leNat (blk 6))).addr, count := (sepCmd (leNat (blk 6))).count, forOp := opOf w42_5 2, job := w42_5.jobc.id, running := (sepCmd (leNat (blk 6))).running, result := (sepCmd (leNat (blk 6))).result, slot := (sepCmd (leNat (blk 6))).slot, pages := (sepCmd (leNat (blk 6))).pages, req := (sepCmd (leNat (blk 6))).req } : SepCmd) = true) ∧ leNat (blk 6) % 16 = 6) ∧
    (Sized (sqq 7) ∧ At (sqq 7) 2 (wordD 52 0 4 6 0 0) Option.none ∧ cmOperand (sqq 7) 2 (BitVec.toNat (greg (sqq 7) 2 6)) 32 = Option.some (blk 7) ∧ List.length (blk 7) = 32 ∧ sepBad (leNat (blk 7)) = false ∧ (sqq 7).jobc.st = 1 ∧ List.length (sqq 7).sep.bulk < 16 ∧ sepBusy (sqq 7) ({ op := (sepCmd (leNat (blk 7))).op, tier := (sepCmd (leNat (blk 7))).tier, wset := (sepCmd (leNat (blk 7))).wset, adapter := (sepCmd (leNat (blk 7))).adapter, version := (sepCmd (leNat (blk 7))).version, zword := (sepCmd (leNat (blk 7))).zword, id := (sepCmd (leNat (blk 7))).id, addr := (sepCmd (leNat (blk 7))).addr, count := (sepCmd (leNat (blk 7))).count, forOp := opOf (sqq 7) 2, job := (sqq 7).jobc.id, running := (sepCmd (leNat (blk 7))).running, result := (sepCmd (leNat (blk 7))).result, slot := (sepCmd (leNat (blk 7))).slot, pages := (sepCmd (leNat (blk 7))).pages, req := (sepCmd (leNat (blk 7))).req } : SepCmd) = false ∧ leNat (blk 7) % 16 = 7) ∧
    (Sized w42_6 ∧ At w42_6 2 (wordD 52 0 4 6 0 0) Option.none ∧ cmOperand w42_6 2 (BitVec.toNat (greg w42_6 2 6)) 32 = Option.some (blk 7) ∧ List.length (blk 7) = 32 ∧ sepBad (leNat (blk 7)) = false ∧ w42_6.jobc.st = 1 ∧ (16 ≤ List.length w42_6.sep.bulk ∨ sepBusy w42_6 ({ op := (sepCmd (leNat (blk 7))).op, tier := (sepCmd (leNat (blk 7))).tier, wset := (sepCmd (leNat (blk 7))).wset, adapter := (sepCmd (leNat (blk 7))).adapter, version := (sepCmd (leNat (blk 7))).version, zword := (sepCmd (leNat (blk 7))).zword, id := (sepCmd (leNat (blk 7))).id, addr := (sepCmd (leNat (blk 7))).addr, count := (sepCmd (leNat (blk 7))).count, forOp := opOf w42_6 2, job := w42_6.jobc.id, running := (sepCmd (leNat (blk 7))).running, result := (sepCmd (leNat (blk 7))).result, slot := (sepCmd (leNat (blk 7))).slot, pages := (sepCmd (leNat (blk 7))).pages, req := (sepCmd (leNat (blk 7))).req } : SepCmd) = true) ∧ leNat (blk 7) % 16 = 7) ∧
    (Sized (qd true y0) ∧ (if true = true then (qd true y0).sep.urgent else (qd true y0).sep.bulk) = [y0] ∧ y0.running = false ∧ sepMay (qd true y0) true y0 = true ∧ y0.op ≠ 2) ∧
    (Sized (qd true y0) ∧ (if true = true then (qd true y0).sep.urgent else (qd true y0).sep.bulk) = [y0] ∧ y0.result = Option.none) ∧
    (Sized (qd true y1) ∧ (if true = true then (qd true y1).sep.urgent else (qd true y1).sep.bulk) = [y1] ∧ (y1.running = true ∨ sepMay (qd true y1) true y1 = false)) ∧
    (Sized (qd true y1) ∧ (if true = true then (qd true y1).sep.urgent else (qd true y1).sep.bulk) = [y1] ∧ y1.result = Option.some 5#16 ∧ y1.slot = Option.none) ∧
    (Sized rdA ∧ (if false = true then rdA.sep.urgent else rdA.sep.bulk) = [y2] ∧ y2.result = Option.some 0#16 ∧ y2.slot = Option.some 4 ∧ (getAdp rdA 4).st = 2) ∧
    (Sized srv2 ∧ srv2.sep.bulk = [z0] ∧ z0.running = false ∧ sepMay srv2 false z0 = true ∧ z0.op = 2 ∧ dirOf srv2 z0.id = Option.some w42_7 ∧ w42_7.2.kind = 0 ∧ wsetServed srv2 z0.wset = true) ∧
    (Sized (qd false z0) ∧ (qd false z0).sep.bulk = [z0] ∧ z0.running = false ∧ sepMay (qd false z0) false z0 = true ∧ z0.op = 2 ∧ ∀ e ∈ (qd false z0).sep.dir, e.2.id ≠ z0.id) :=
  ⟨by decide +kernel, by decide +kernel, by decide +kernel, by decide +kernel, by decide +kernel, by decide +kernel,
    by and_intros <;> decide +kernel, by decide +kernel, by decide +kernel, by decide +kernel, by decide +kernel, by decide +kernel,
    by decide +kernel, by decide +kernel, by decide +kernel, by decide +kernel, by decide +kernel, by decide +kernel,
    by decide +kernel, by decide +kernel, by decide +kernel⟩

theorem witness_Separator_SeparatorWork :
    ((wk 1 [(3, de)] []).sep.bulk = [wx 1] ∧ (wx 1).running = true ∧ (wx 1).result = Option.none ∧ sepMay (wk 1 [(3, de)] []) false (wx 1) = true ∧ (wx 1).op = 1 ∧ (3, de) ∈ (wk 1 [(3, de)] []).sep.dir ∧ (3, de).2.id = (wx 1).id) ∧
    ((wk 2 [(3, de)] []).sep.bulk = [wx 2] ∧ (wx 2).running = true ∧ (wx 2).result = Option.none ∧ sepMay (wk 2 [(3, de)] []) false (wx 2) = true ∧ (wx 2).op = 2) ∧
    ((wk 5 [(3, de)] []).sep.bulk = [wx 5] ∧ (wx 5).running = true ∧ (wx 5).result = Option.none ∧ sepMay (wk 5 [(3, de)] []) false (wx 5) = true ∧ (wx 5).op = 5 ∧ dirOf (wk 5 [(3, de)] []) (wx 5).id = Option.some (3, de)) ∧
    ((wk 5 [] []).sep.bulk = [wx 5] ∧ (wx 5).running = true ∧ (wx 5).result = Option.none ∧ sepMay (wk 5 [] []) false (wx 5) = true ∧ (wx 5).op = 5 ∧ dirOf (wk 5 [] []) (wx 5).id = Option.none) ∧
    (w42_9.sep.bulk = [wx 6] ∧ (wx 6).running = true ∧ (wx 6).result = Option.none ∧ sepMay w42_9 false (wx 6) = true ∧ (wx 6).op = 6 ∧ w42_9.sep.adps = [(4, w42_10)] ∧ w42_10.st = 2 ∧ w42_10.id = (wx 6).adapter ∧ w42_10.version = (wx 6).version) ∧
    ((wk 6 [] []).sep.bulk = [wx 6] ∧ (wx 6).running = true ∧ (wx 6).result = Option.none ∧ sepMay (wk 6 [] []) false (wx 6) = true ∧ (wx 6).op = 6 ∧ ∀ y ∈ (wk 6 [] []).sep.adps, y.2.st = 2 → y.2.id = (wx 6).adapter → y.2.version ≠ (wx 6).version) ∧
    (w42_11.sep.bulk = [wx 7] ∧ (wx 7).running = true ∧ (wx 7).result = Option.none ∧ sepMay w42_11 false (wx 7) = true ∧ (wx 7).op = 7 ∧ w42_11.sep.adps = [(4, w42_12)] ∧ w42_12.st = 3 ∧ w42_12.id = (wx 7).adapter ∧ w42_12.refs ≠ 0) ∧
    ((wk 7 [] []).sep.bulk = [wx 7] ∧ (wx 7).running = true ∧ (wx 7).result = Option.none ∧ sepMay (wk 7 [] []) false (wx 7) = true ∧ (wx 7).op = 7 ∧ ∀ y ∈ (wk 7 [] []).sep.adps, y.2.st = 3 → y.2.id ≠ (wx 7).adapter) ∧
    ((wk 3 [(3, de)] []).sep.urgent = [wx 3] ∧ (wx 3).running = true ∧ (wx 3).result = Option.none ∧ sepMay (wk 3 [(3, de)] []) true (wx 3) = true ∧ (wx 3).op = 3) ∧
    (isReady (wk 3 [(3, de)] []) = true ∧ (wk 3 [(3, de)] []).sep.bulk = [] ∧ ∀ y ∈ (wk 3 [(3, de)] []).sep.stripes, y.1 < (wk 3 [(3, de)] []).sep.scrubPos) ∧
    ((wk 4 [(3, de)] []).sep.urgent = [wx 4] ∧ (wx 4).running = true ∧ (wx 4).result = Option.none ∧ sepMay (wk 4 [(3, de)] []) true (wx 4) = true ∧ (wx 4).op = 4 ∧ restoreFits (wk 4 [(3, de)] []) (wx 4) = true) ∧
    (isReady (scr 2) = true ∧ (scr 2).sep.bulk = [] ∧ (scr 2).sep.stripes = [(5, stp), (8, stp)] ∧ (scr 2).sep.scrubPos ≤ 5 ∧ List.length stp.shards = 8 ∧ missingOf 5 stp = []) ∧
    (isReady (scr 2) = true ∧ (scr 2).sep.bulk = [] ∧ (scr 2).sep.stripes = [(5, stp), (8, stp)] ∧ (scr 2).sep.scrubPos ≤ 5 ∧ List.length stp.shards = 8 ∧ missingOf 5 { shards := List.map (fun d => if BitVec.getLsbD (6#8) d.2 = true then [] else d.1) (List.zipIdx stp.shards), tags := stp.tags, dir := stp.dir, seq := stp.seq, lost := stp.lost } ≠ [] ∧ canRebuild { shards := List.map (fun d => if BitVec.getLsbD (6#8) d.2 = true then [] else d.1) (List.zipIdx stp.shards), tags := stp.tags, dir := stp.dir, seq := stp.seq, lost := stp.lost } (missingOf 5 { shards := List.map (fun d => if BitVec.getLsbD (6#8) d.2 = true then [] else d.1) (List.zipIdx stp.shards), tags := stp.tags, dir := stp.dir, seq := stp.seq, lost := stp.lost }) = true) ∧
    (isReady (scr 2) = true ∧ (scr 2).sep.bulk = [] ∧ (scr 2).sep.stripes = [(5, stp), (8, stp)] ∧ (scr 2).sep.scrubPos ≤ 5 ∧ List.length stp.shards = 8 ∧ missingOf 5 { shards := List.map (fun d => if BitVec.getLsbD (7#8) d.2 = true then [] else d.1) (List.zipIdx stp.shards), tags := stp.tags, dir := stp.dir, seq := stp.seq, lost := stp.lost } ≠ [] ∧ canRebuild { shards := List.map (fun d => if BitVec.getLsbD (7#8) d.2 = true then [] else d.1) (List.zipIdx stp.shards), tags := stp.tags, dir := stp.dir, seq := stp.seq, lost := stp.lost } (missingOf 5 { shards := List.map (fun d => if BitVec.getLsbD (7#8) d.2 = true then [] else d.1) (List.zipIdx stp.shards), tags := stp.tags, dir := stp.dir, seq := stp.seq, lost := stp.lost }) = false ∧ stp.lost = false) :=
  ⟨by decide +kernel, by decide +kernel, by decide +kernel, by decide +kernel, by decide +kernel, by decide +kernel,
    by decide +kernel, by decide +kernel, by decide +kernel, by decide +kernel, by decide +kernel, by decide +kernel,
    by decide +kernel, by decide +kernel⟩

end B42

namespace B43

def ow : State := { jobS with own := { owned := true, slot := 2, leaseEnd := 2000000001 } }
def desc (n : Nat) : List Byte := leBytes 64 (77 + 2^64 * 3 + n)
def tens : Nat := 2^68 + 4 * 2^128
def svcO : Service := { st := 1, cfg := BitVec.ofNat 64 (2 + 32 * 4), timing := BitVec.ofNat 64 (1000 + 2 * 2^15 + 2^31 * 7 + 2^48 * 8), kv := BitVec.ofNat 64 (64 + 2^33), token := 0x400000, pool := BitVec.ofNat 64 (2^27), area := BitVec.ofNat 64 (0x50000000), slotmap := 0x200000 }
def ws : Sep := { ({} : Sep) with wsets := ({} : Sep).wsets.set 2 { st := 2, job := 7 } }
def aS (x : Service) (b : State) : State := { b with sep := ws, adm := { b.adm with svcs := b.adm.svcs.set 3 x } }
def admS (x : Service) (d : List Byte) (sub r1 r2 : Nat) : State :=
  let s := runS (aS x jobS) 2 [wordD 0x35 sub 4 5 6 0] [(5, r1), (6, r2)]
  { s with cm := Mem.writeN s.cm 0x1000 d }
def genD : Nat := 4 * 2^128 + 2 ^ 152 * 3
def admW : State := let s := admS { svcO with cfg := BitVec.ofNat 64 (2 + 16 + 32 * 4), areaSet := true } (desc genD) 0 0x1000 1; { s with boot := { s.boot with vatZeroed := false, vatEarly := [] } }
def pend0 : Pend := ⟨1, 7, []⟩
def admF : State := let s := admS svcO (desc (genD + 2^70)) 0 0x1000 1; { s with adm := { s.adm with pending := List.replicate 1024 pend0 } }
def cn (a : Adm → Adm) : State := let s := admS svcO [] 2 77 1; { s with adm := a s.adm }
def pend : Pend := ⟨1, 7, desc genD⟩
def rq : Req := { svc := 3, slot := 5, host := 1, job := 7, desc := desc genD, due := 50 }
def pp (p : List Pend) (r : List Req) (x : Service) : State := let s := aS x ow; { s with adm := { s.adm with pending := p, reqs := r } }
def rS (x : Service) (r : List Nat) : State := runS (aS x jobS) 2 [wordD 0x35 1 4 5 6 7] ([5,6,7].zip r)
def tmr (b : Nat) (x : Service) : State := let s := pp [] [] x; { s with job := { s.job with grid := { s.job.grid with timers := s.job.grid.timers.set 2 { beats := b } } } }
def cl0 : Service := { svcO with st := 0, pool := 0 }
def sqS (e : SeqEnt) : State := let s := aS svcO ow; { s with adm := { s.adm with seqs := [(9, e)], blocks := [{ job := 7, svc := 3, idx := 4, hash := some [1] }, { job := 7, svc := 3, idx := 5, refs := 2, hash := some [1] }] } }
def bc : BCopy := { job := 7, svc := 3, slot := 5, own := 0, idx := 0, n := 32, hash := some [1] }
def pb : PBlock := { job := 7, svc := 3, idx := 0, busy := true }
def cpS : State := let s := aS svcO ow; { s with adm := { s.adm with copies := [bc], blocks := [pb] }, tiers := { s.tiers with pages := [(0, ⟨.near 5, 7, false⟩), (1, ⟨.near 6, 7, false⟩), (0x50000000 % 2^27 + 5 * 1024, ⟨.near 6, 7, false⟩)] } }
def strB : List Byte := leBytes 64 (1 + 2 + 64)
def smS : State := let s := cpS; { s with
   tiers := { s.tiers with near := Mem.writeN [] (6 * 2^21 + 64 * 5) (leBytes 8 5) }
   adm := { s.adm with copies := [], reqs := [{ rq with rearms := [(0, 640)] }] }
   job := { s.job with churn := { s.job.churn with tables := { s.job.churn.tables with streams := [(5, strB)] } } } }
def pln : Plan := { valid := true, index := 0, lengths := 3, id := 9, pts := [{ cfg := BitVec.ofNat 64 (5 + 2^8 + 3 * 2^33), rate := BitVec.ofNat 64 (100 + 2^12) }] ++ List.replicate 31 {} }
def prt : PortSt := { st := 2, identAt := some 5, farIndex := 1, share := [10, 11], credit := [(10, 50), (11, 50)] }
def ringS : State := { jobS with now := 2000000000, jobc := { jobS.jobc with ptEntry := 0 }, ring := { plan := pln, inForce := pln, ports := List.replicate 8 prt, buckets := [(0, {tokens := 16384, at_ := 0}), (32, {tokens := 16384, at_ := 0})] } }
def mS (s : State) (sub a b n : Nat) : State := runS s 2 [wordD 0x36 sub 4 5 6 7] [(5, a), (6, b), (7, n)]
def mR (s : State) (a : Nat) : State := runS s 2 [wordD 0x36 1 4 5 0 0] [(5, a)]
def rg (c op off v : Nat) : State := runS jobS c [op * 2^26 + 4 * 2^20 + 5 * 2^15 + 8] [(5, off - 8), (4, v)]
def sv (c sub r : Nat) (s : State) : State := runS s c [wordD 0x37 sub 4 (if sub = 1 then 5 else 0) 0 0] [(5, r)]
def kj : SavedJob := { ctl := { id := 9, st := 1 }, ctx := [{}, {}, {}, {}], time := 5, job := { inbox := [(1, [2])] } }
def no : State := { rdy with saved := [kj] }
def w43_0 : State := (admS svcO (desc tens) 0 0x1000 1)
def w43_2 : Grant := (match decideReq (admS svcO (desc tens) 0 0x1000 1) (desc tens) with | .admits g => g | _ => ⟨0, none, [], [], 0, 1, 1, 0, 0, false⟩)
def w43_3 : State := (admS svcO (desc (genD + 2^70)) 0 0x1000 1)
def w43_5 : State := (admS { svcO with st := 0 } (desc genD) 0 0x1000 1)
def w43_6 : State := (admS { svcO with st := 2 } (desc genD) 0 0x1000 1)
def w43_8 : State := (admS svcO (desc 0) 0 0x1000 1)
def w43_9 : State := (cn fun a => { a with pending := [pend] })
def w43_10 : State := (cn fun a => { a with reqs := [rq] })
def w43_11 : State := (aS { svcO with st := 0 } ow)
def w43_12 : State := (aS { svcO with st := 0, cfg := 0 } ow)
def w43_13 : State := (rS {svcO with st := 0} [3, 5, 2])
def w43_14 : State := (tmr 9 { svcO with inRound := true, job := 7, timer := 2, beats := 7, start := 1 })
def w43_16 : State := (pp [] [{ rq with due := 1000000 }] svcO)
def w43_17 : Req := { rq with due := 1000000 }
def w43_18 : State := (pp [] [{ rq with ended := some (2, 0) }] svcO)
def w43_19 : Req := { rq with ended := some (2, 0) }
def w43_20 : BitVec 64 := (BitVec.ofNat 64 (0x10000 + 10 * 2^27))
def w43_21 : BitVec 64 := (BitVec.ofNat 64 (0x10001 + 10 * 2^27))
def w43_22 : State := { aS cl0 ow with tiers := { ow.tiers with pages := [(5, ⟨.near 5, 7, false⟩)] } }
def w43_23 : BitVec 64 := (BitVec.ofNat 64 (5 + 2^27))
def w43_25 : BitVec 64 := (BitVec.ofNat 64 (5 + 2^27))
def w43_26 : State := (sqS { st := 2, job := 7, svc := 3 })
def w43_28 : Req := { rq with rearms := [(0, 640)] }
def w43_29 : State := (mS ringS 0 1 0x1000 3)
def w43_30 : State := (mS ringS 0 7 0x1000 3)
def w43_31 : State := (mS ringS 0 1 0x1000 300)
def w43_32 : State := (mR { ringS with job := { ringS.job with inbox := [(1, [1,2,3])] } } 0x1000)
def w43_33 : BitVec 16 × List Byte := ((1, [1,2,3]) : BitVec 16 × List Byte)
def w43_34 : List (BitVec 16 × List Byte) := ([] : List (BitVec 16 × List Byte))
def w43_35 : State := (rg 2 0x20 0x400018 0)
def w43_36 : State := (rg 2 0x20 0x400019 0)
def w43_37 : State := (rg 3 0x21 0x400018 48)
def w43_38 : State := (rg 2 0x21 0x400019 48)
def w43_39 : State := (rg 2 0x21 0x100018 48)
def w43_41 : State := { jobS with jobc := { jobS.jobc with st := 3 } }
def w43_42 : State := { no with jobc := { st := 4, id := 9 } }
def w43_43 : State := { no with saved := [{ kj with sliceLost := true}], jobc := { st := 4, id := 9 } }
def w43_44 : SavedJob := { kj with sliceLost := true}

theorem witness_AdmissionOperations :
    (Sized w43_3 ∧ w43_3.jobc.st = 1 ∧ At w43_3 2 (wordD 53 0 4 5 6 0) Option.none ∧ cmOperand w43_3 2 (BitVec.toNat (greg w43_3 2 5)) 64 = Option.some (desc (genD + 2 ^ 70)) ∧ BitVec.toNat (greg w43_3 2 6) = 1 ∧ w43_3.adm.deciding = Option.none ∧ descBad (desc (genD + 2 ^ 70)) = false ∧ decideReq w43_3 (desc (genD + 2 ^ 70)) = Decision.lacks Code.noKvSpace ∧ dQueue (desc (genD + 2 ^ 70)) = true ∧ List.length w43_3.adm.pending < 1024) ∧
    (Sized w43_5 ∧ w43_5.jobc.st = 1 ∧ At w43_5 2 (wordD 53 0 4 5 6 0) Option.none ∧ cmOperand w43_5 2 (BitVec.toNat (greg w43_5 2 5)) 64 = Option.some (desc genD) ∧ BitVec.toNat (greg w43_5 2 6) = 1 ∧ w43_5.adm.deciding = Option.none ∧ descBad (desc genD) = false ∧ decideReq w43_5 (desc genD) = Decision.refused Code.admissionClosed) ∧
    (Sized w43_5 ∧ w43_5.jobc.st = 1 ∧ At w43_5 2 (wordD 53 0 4 5 6 0) Option.none ∧ cmOperand w43_5 2 (BitVec.toNat (greg w43_5 2 5)) 64 = Option.some (desc genD) ∧ BitVec.toNat (greg w43_5 2 6) = 1 ∧ w43_5.adm.deciding = Option.none ∧ descBad (desc genD) = false ∧ (getSvc w43_5 (dSvc (desc genD))).st = 0) ∧
    (Sized w43_6 ∧ w43_6.jobc.st = 1 ∧ At w43_6 2 (wordD 53 0 4 5 6 0) Option.none ∧ cmOperand w43_6 2 (BitVec.toNat (greg w43_6 2 5)) 64 = Option.some (desc genD) ∧ BitVec.toNat (greg w43_6 2 6) = 1 ∧ w43_6.adm.deciding = Option.none ∧ descBad (desc genD) = false ∧ (getSvc w43_6 (dSvc (desc genD))).st = 2) ∧
    (Sized w43_8 ∧ w43_8.jobc.st = 1 ∧ At w43_8 2 (wordD 53 0 4 5 6 0) Option.none ∧ cmOperand w43_8 2 (BitVec.toNat (greg w43_8 2 5)) 64 = Option.some (desc 0) ∧ BitVec.toNat (greg w43_8 2 6) = 1 ∧ w43_8.adm.deciding = Option.none ∧ descBad (desc 0) = true) ∧
    (Sized admW ∧ admW.jobc.st = 1 ∧ At admW 2 (wordD 53 0 4 5 6 0) Option.none ∧ cmOperand admW 2 (BitVec.toNat (greg admW 2 5)) 64 = Option.some (desc genD) ∧ BitVec.toNat (greg admW 2 6) = 1 ∧ admW.adm.deciding = Option.none ∧ descBad (desc genD) = false ∧ decideReq admW (desc genD) = Decision.waits) ∧
    (Sized admF ∧ admF.jobc.st = 1 ∧ At admF 2 (wordD 53 0 4 5 6 0) Option.none ∧ cmOperand admF 2 (BitVec.toNat (greg admF 2 5)) 64 = Option.some (desc (genD + 2 ^ 70)) ∧ BitVec.toNat (greg admF 2 6) = 1 ∧ admF.adm.deciding = Option.none ∧ descBad (desc (genD + 2 ^ 70)) = false ∧ decideReq admF (desc (genD + 2 ^ 70)) = Decision.lacks Code.noKvSpace ∧ dQueue (desc (genD + 2 ^ 70)) = true ∧ 1024 ≤ List.length admF.adm.pending) ∧
    (Sized w43_9 ∧ w43_9.jobc.st = 1 ∧ At w43_9 2 (wordD 53 2 4 5 6 0) Option.none ∧ BitVec.toNat (greg w43_9 2 6) = 1 ∧ (∀ r ∈ w43_9.adm.reqs, 2 ∉ r.cancels) ∧ w43_9.adm.pending = [pend] ∧ pend.host = 1 ∧ dTag pend.desc = BitVec.toNat (greg w43_9 2 5) ∧ w43_9.adm.reqs = []) ∧
    (Sized w43_10 ∧ w43_10.jobc.st = 1 ∧ At w43_10 2 (wordD 53 2 4 5 6 0) Option.none ∧ BitVec.toNat (greg w43_10 2 6) = 1 ∧ (∀ r ∈ w43_10.adm.reqs, 2 ∉ r.cancels) ∧ w43_10.adm.pending = [] ∧ w43_10.adm.reqs = [rq] ∧ rq.host = 1 ∧ Req.tag rq = greg w43_10 2 5 ∧ rq.ended = Option.none) ∧
    (Sized (cn fun a => a) ∧ (cn fun a => a).jobc.st = 1 ∧ At (cn fun a => a) 2 (wordD 53 2 4 5 6 0) Option.none ∧ BitVec.toNat (greg (cn fun a => a) 2 6) = 1 ∧ (∀ r ∈ (cn fun a => a).adm.reqs, 2 ∉ r.cancels) ∧ (cn fun a => a).adm.pending = [] ∧ (cn fun a => a).adm.reqs = []) :=
  ⟨by decide +kernel, by decide +kernel, by decide +kernel, by decide +kernel, by decide +kernel, by decide +kernel,
    by decide +kernel, by decide +kernel, by decide +kernel, by decide +kernel⟩

theorem witness_Services :
    (Sized w43_11 ∧ OwnerAnswers w43_11 2 ∧ (getSvc w43_11 3).st ≠ 1 ∧ canOpen w43_11 (getSvc w43_11 3) = true) ∧
    (Sized w43_11 ∧ OwnerAnswers w43_11 2 ∧ w43_11.adm.pending = []) ∧
    (Sized w43_11 ∧ (getTimer w43_11 (getSvc w43_11 3).timer).beats < (getSvc w43_11 3).beats + Service.roundBeats (getSvc w43_11 3)) ∧
    (Sized w43_12 ∧ OwnerAnswers w43_12 2 ∧ (getSvc w43_12 3).st ≠ 1 ∧ canOpen w43_12 (getSvc w43_12 3) = false) ∧
    (Sized (pp [pend] [] svcO) ∧ OwnerAnswers (pp [pend] [] svcO) 2 ∧ (pp [pend] [] svcO).adm.pending = [pend] ∧ dSvc pend.desc = 3) ∧
    (Sized (rS svcO [3, 5, 2]) ∧ At (rS svcO [3, 5, 2]) 2 (wordD 53 1 4 5 6 7) Option.none ∧ (rS svcO [3, 5, 2]).jobc.st = 1 ∧ BitVec.toNat (greg (rS svcO [3, 5, 2]) 2 5) = 3 ∧ BitVec.toNat (greg (rS svcO [3, 5, 2]) 2 6) = 5 ∧ BitVec.toNat (greg (rS svcO [3, 5, 2]) 2 7) = 2 ∧ 5 < 2 ^ 32 ∧ (rS svcO [3, 5, 2]).adm.reqs = [] ∧ (getSvc (rS svcO [3, 5, 2]) 3).st ≠ 0) ∧
    (Sized w43_13 ∧ At w43_13 2 (wordD 53 1 4 5 6 7) Option.none ∧ w43_13.jobc.st = 1 ∧ BitVec.toNat (greg w43_13 2 5) = 3 ∧ BitVec.toNat (greg w43_13 2 6) = 5 ∧ BitVec.toNat (greg w43_13 2 7) = 2 ∧ 5 < 2 ^ 32 ∧ w43_13.adm.reqs = [] ∧ (getSvc w43_13 3).st = 0) ∧
    (Sized w43_14 ∧ jobRuns w43_14 = true ∧ (getSvc w43_14 3).inRound = true ∧ (getSvc w43_14 3).job = w43_14.jobc.id ∧ (getSvc w43_14 3).beats + Service.roundBeats (getSvc w43_14 3) ≤ (getTimer w43_14 (getSvc w43_14 3).timer).beats ∧ w43_14.adm.reqs = []) ∧
    (Sized (pp [] [rq] svcO) ∧ (pp [] [rq] svcO).adm.reqs = [rq] ∧ rq.svc = 3 ∧ rq.slot = 5 ∧ rq.ended = Option.none ∧ rq.job = (pp [] [rq] svcO).jobc.id ∧ (pp [] [rq] svcO).jobc.st = 1 ∧ rq.broken = false ∧ rq.due < (pp [] [rq] svcO).now ∧ (getSvc (pp [] [rq] svcO) 3).st ≠ 2 ∧ (pp [] [rq] svcO).adm.pending = []) ∧
    (Sized (pp [] [rq] svcO) ∧ (pp [] [rq] svcO).adm.reqs = [rq] ∧ rq.ended = Option.none) ∧
    (Sized w43_16 ∧ w43_16.adm.reqs = [w43_17] ∧ w43_17.svc = 3 ∧ w43_17.slot = 5 ∧ w43_17.ended = Option.none ∧ w43_17.job = w43_16.jobc.id ∧ w43_16.jobc.st = 1 ∧ w43_17.broken = false ∧ w43_16.now ≤ w43_17.due) ∧
    (Sized w43_18 ∧ w43_18.adm.reqs = [w43_19] ∧ w43_19.svc = 3 ∧ w43_19.slot = 5 ∧ w43_19.ended = Option.some (2, 0#16) ∧ w43_18.adm.copies = [] ∧ w43_18.adm.pending = [] ∧ w43_19.seq = Option.none ∧ w43_19.adp = Option.none ∧ w43_19.pages = 0) :=
  ⟨by decide +kernel, by decide +kernel, by decide +kernel, by decide +kernel, by decide +kernel, by decide +kernel,
    by decide +kernel, by decide +kernel, by decide +kernel, by decide +kernel, by decide +kernel, by decide +kernel⟩

theorem witness_Cellar :
    (Sized (aS cl0 ow) ∧ OwnerAnswers (aS cl0 ow) 2 ∧ BitVec.toNat w43_20 < 2 ^ 32 ∧ svcLocked (aS cl0 ow) 3 = false ∧ svcHolds (aS cl0 ow) 3 = false ∧ 10 ≤ BitVec.toNat w43_20 / 2 ^ 27 % 2 ^ 5 ∧ BitVec.toNat w43_20 / 2 ^ 27 % 2 ^ 5 ≤ 20 ∧ BitVec.toNat w43_20 % 2 ^ 27 % (64 * 2 ^ (BitVec.toNat w43_20 / 2 ^ 27 % 2 ^ 5)) = 0 ∧ ∀ y ∈ (aS cl0 ow).adm.svcs, y.areaSet = false ∧ Service.poolPages y = 0) ∧
    (Sized (aS cl0 ow) ∧ OwnerAnswers (aS cl0 ow) 2 ∧ BitVec.toNat w43_20 < 2 ^ 47 ∧ svcLocked (aS cl0 ow) 3 = false ∧ svcHolds (aS cl0 ow) 3 = false ∧ BitVec.toNat w43_20 / 2 ^ 27 ≠ 0 ∧ (getPage (aS cl0 ow) (BitVec.toNat w43_20 % 2 ^ 27)).st = PState.unmapped) ∧
    (Sized (aS cl0 ow) ∧ OwnerAnswers (aS cl0 ow) 2 ∧ (getSeq (aS cl0 ow) 9).st ≠ 2) ∧
    (Sized (aS cl0 ow) ∧ (aS cl0 ow).adm.copies = []) ∧
    (Sized (aS cl0 ow) ∧ OwnerAnswers (aS cl0 ow) 2 ∧ BitVec.toNat w43_21 < 2 ^ 32 ∧ svcLocked (aS cl0 ow) 3 = false ∧ svcHolds (aS cl0 ow) 3 = false ∧ (BitVec.toNat w43_21 / 2 ^ 27 % 2 ^ 5 < 10 ∨ 20 < BitVec.toNat w43_21 / 2 ^ 27 % 2 ^ 5 ∨ BitVec.toNat w43_21 % 2 ^ 27 % (64 * 2 ^ (BitVec.toNat w43_21 / 2 ^ 27 % 2 ^ 5)) ≠ 0)) ∧
    (Sized w43_22 ∧ OwnerAnswers w43_22 2 ∧ BitVec.toNat w43_23 < 2 ^ 47 ∧ svcLocked w43_22 3 = false ∧ svcHolds w43_22 3 = false ∧ ∀ i < BitVec.toNat w43_23 / 2 ^ 27, (getPage w43_22 (BitVec.toNat w43_23 % 2 ^ 27 + i)).st ≠ PState.unmapped) ∧
    (Sized (aS svcO ow) ∧ OwnerAnswers (aS svcO ow) 2 ∧ svcLocked (aS svcO ow) 3 = true ∧ BitVec.toNat w43_25 < 2 ^ 32) ∧
    (Sized w43_26 ∧ OwnerAnswers w43_26 2 ∧ (getSeq w43_26 9).st = 2 ∧ (getSeq w43_26 9).pool = []) ∧
    (Sized cpS ∧ jobHeld cpS = true ∧ cpS.adm.copies = [bc] ∧ cpS.adm.blocks = [pb] ∧ bc.job = cpS.jobc.id ∧ bc.svc = 3 ∧ bc.orphan = false ∧ bc.hash = Option.some [1#8] ∧ pb.job = bc.job ∧ pb.svc = 3 ∧ pb.idx = bc.idx ∧ pb.hash = Option.none ∧ poolReady cpS 3 bc.idx = true) ∧
    (Sized smS ∧ jobRuns smS = true ∧ smS.adm.reqs = [w43_28] ∧ w43_28.svc = 3 ∧ w43_28.slot = 5 ∧ w43_28.job = smS.jobc.id ∧ w43_28.rearms = [(mapKind MapDesc.kvRead, 640)] ∧ w43_28.issued = [] ∧ readable smS (Service.mapAddr (getSvc smS 3) + 64 * 5) 64 = true ∧ (strDesc smS (bits (slotEntry smS 3 5) (16 * mapKind MapDesc.kvRead) 11)).enable = true ∧ (strDesc smS (bits (slotEntry smS 3 5) (16 * mapKind MapDesc.kvRead) 11)).persist = true ∧ 640 % 64 = 0 ∧ 640 < 2 ^ 48 ∧ (getStr smS (bits (slotEntry smS 3 5) (16 * mapKind MapDesc.kvRead) 11)).st = 0 ∧ (getStr smS (bits (slotEntry smS 3 5) (16 * mapKind MapDesc.kvRead) 11)).shadow = Option.none) :=
  ⟨by decide +kernel, by decide +kernel, by decide +kernel, by decide +kernel, by decide +kernel, by decide +kernel,
    by decide +kernel, by decide +kernel, by decide +kernel, by decide +kernel⟩

theorem witness_MessagesAndRegisterInstructions_Messages :
    (Sized w43_29 ∧ w43_29.jobc.st = 1 ∧ At w43_29 2 (wordD 54 0 4 5 6 7) Option.none ∧ BitVec.toNat (greg w43_29 2 5) < 2 ^ 16 ∧ BitVec.toNat (greg w43_29 2 7) ≤ 256 ∧ cmOperand w43_29 2 (BitVec.toNat (greg w43_29 2 6)) (BitVec.toNat (greg w43_29 2 7)) = Option.some [0#8, 0#8, 0#8] ∧ jobPt w43_29 = Option.some (List.headD pln.pts { }) ∧ inBox w43_29.ring.inForce (List.headD pln.pts { }) (BitVec.toNat (greg w43_29 2 5)) = true) ∧
    (Sized w43_30 ∧ w43_30.jobc.st = 1 ∧ At w43_30 2 (wordD 54 0 4 5 6 7) Option.none ∧ BitVec.toNat (greg w43_30 2 5) < 2 ^ 16 ∧ BitVec.toNat (greg w43_30 2 7) ≤ 256 ∧ cmOperand w43_30 2 (BitVec.toNat (greg w43_30 2 6)) (BitVec.toNat (greg w43_30 2 7)) = Option.some [0#8, 0#8, 0#8] ∧ jobPt w43_30 = Option.some (List.headD pln.pts { }) ∧ inBox w43_30.ring.inForce (List.headD pln.pts { }) (BitVec.toNat (greg w43_30 2 5)) = false) ∧
    (Sized w43_31 ∧ w43_31.jobc.st = 1 ∧ At w43_31 2 (wordD 54 0 4 5 6 7) Option.none ∧ (2 ^ 16 ≤ BitVec.toNat (greg w43_31 2 5) ∨ 256 < BitVec.toNat (greg w43_31 2 7))) ∧
    (Sized w43_32 ∧ w43_32.jobc.st = 1 ∧ At w43_32 2 (wordD 54 1 4 5 0 0) Option.none ∧ cmAllows 2 (BitVec.toNat (greg w43_32 2 5)) 256 = true ∧ w43_32.job.inbox = w43_33 :: w43_34 ∧ List.length w43_33.2 ≤ 256) ∧
    (Sized (mR ringS 4096) ∧ (mR ringS 4096).jobc.st = 1 ∧ At (mR ringS 4096) 2 (wordD 54 1 4 5 0 0) Option.none ∧ cmAllows 2 (BitVec.toNat (greg (mR ringS 4096) 2 5)) 256 = true ∧ (mR ringS 4096).job.inbox = []) :=
  ⟨by decide +kernel, by decide +kernel, by decide +kernel, by decide +kernel, by decide +kernel⟩

theorem witness_MessagesAndRegisterInstructions_RegisterInstructions :
    (Sized w43_35 ∧ AtI w43_35 2 32 4 5 false 8#47 ∧ BitVec.toNat (greg w43_35 2 5 + BitVec.signExtend 64 8#47) % 8 = 0 ∧ ¬(2621440 ≤ BitVec.toNat (greg w43_35 2 5 + BitVec.signExtend 64 8#47) ∧ BitVec.toNat (greg w43_35 2 5 + BitVec.signExtend 64 8#47) < 3145728) ∧ ¬(5255168 ≤ BitVec.toNat (greg w43_35 2 5 + BitVec.signExtend 64 8#47) ∧ BitVec.toNat (greg w43_35 2 5 + BitVec.signExtend 64 8#47) < 5255424)) ∧
    (Sized w43_36 ∧ AtI w43_36 2 32 4 5 false 8#47 ∧ BitVec.toNat (greg w43_36 2 5 + BitVec.signExtend 64 8#47) % 8 ≠ 0) ∧
    (Sized (rg 3 33 16 0) ∧ AtI (rg 3 33 16 0) 3 33 4 5 false 8#47 ∧ BitVec.toNat (greg (rg 3 33 16 0) 3 5 + BitVec.signExtend 64 8#47) % 8 = 0 ∧ BitVec.toNat (greg (rg 3 33 16 0) 3 5 + BitVec.signExtend 64 8#47) / 1048576 ≠ 1 ∧ ¬(3 % 2 = 0 ∧ (BitVec.toNat (greg (rg 3 33 16 0) 3 5 + BitVec.signExtend 64 8#47) < 3145728 ∨ 11599872 ≤ BitVec.toNat (greg (rg 3 33 16 0) 3 5 + BitVec.signExtend 64 8#47))) ∧ ¬(2621440 ≤ BitVec.toNat (greg (rg 3 33 16 0) 3 5 + BitVec.signExtend 64 8#47) ∧ BitVec.toNat (greg (rg 3 33 16 0) 3 5 + BitVec.signExtend 64 8#47) < 3145728)) ∧
    (Sized w43_37 ∧ AtI w43_37 3 33 4 5 false 8#47 ∧ BitVec.toNat (greg w43_37 3 5 + BitVec.signExtend 64 8#47) = 4194328 ∧ 20 ≤ BitVec.toNat (greg w43_37 3 4) ∧ BitVec.toNat (greg w43_37 3 4) ≤ 1000) ∧
    (Sized w43_38 ∧ AtI w43_38 2 33 4 5 false 8#47 ∧ BitVec.toNat (greg w43_38 2 5 + BitVec.signExtend 64 8#47) % 8 ≠ 0) ∧
    (Sized w43_39 ∧ AtI w43_39 2 33 4 5 false 8#47 ∧ BitVec.toNat (greg w43_39 2 5 + BitVec.signExtend 64 8#47) % 8 = 0 ∧ (BitVec.toNat (greg w43_39 2 5 + BitVec.signExtend 64 8#47) / 1048576 = 1 ∨ 2 % 2 = 0 ∧ (BitVec.toNat (greg w43_39 2 5 + BitVec.signExtend 64 8#47) < 3145728 ∨ 11599872 ≤ BitVec.toNat (greg w43_39 2 5 + BitVec.signExtend 64 8#47)))) :=
  ⟨by decide +kernel, by decide +kernel, by decide +kernel, by decide +kernel, by decide +kernel, by decide +kernel⟩

theorem witness_SaveAndRestore :
    (Sized (sv 2 0 0 jobS) ∧ At (sv 2 0 0 jobS) 2 (wordD 55 0 4 0 0 0) Option.none ∧ 2 % 2 = 0) ∧
    (Sized (sv 2 0 0 jobS) ∧ (sv 2 0 0 jobS).jobc.st ≠ 3) ∧
    (Sized (sv 3 0 0 jobS) ∧ At (sv 3 0 0 jobS) 3 (wordD 55 0 4 0 0 0) Option.none ∧ 3 % 2 = 1 ∧ (sv 3 0 0 jobS).jobc.st = 1 ∧ List.length (sv 3 0 0 jobS).saved < 8 ∧ savedMib (sv 3 0 0 jobS) + imageMib (sv 3 0 0 jobS) ≤ 1024) ∧
    (Sized (sv 3 0 0 no) ∧ At (sv 3 0 0 no) 3 (wordD 55 0 4 0 0 0) Option.none ∧ 3 % 2 = 1 ∧ (sv 3 0 0 no).jobc.st ≠ 1) ∧
    (Sized (sv 3 1 9 no) ∧ At (sv 3 1 9 no) 3 (wordD 55 1 4 5 0 0) Option.none ∧ 3 % 2 = 1 ∧ (sv 3 1 9 no).jobc.st = 0 ∧ BitVec.toNat (greg (sv 3 1 9 no) 3 5) < 2 ^ 16 ∧ ∃ k ∈ (sv 3 1 9 no).saved, k.ctl.id = BitVec.toNat (greg (sv 3 1 9 no) 3 5)) ∧
    (Sized (sv 3 1 9 jobS) ∧ At (sv 3 1 9 jobS) 3 (wordD 55 1 4 5 0 0) Option.none ∧ 3 % 2 = 1 ∧ (sv 3 1 9 jobS).jobc.st ≠ 0 ∧ BitVec.toNat (greg (sv 3 1 9 jobS) 3 5) < 2 ^ 16) ∧
    (Sized w43_41 ∧ w43_41.jobc.st = 3 ∧ w43_41.tiers.moves = [] ∧ w43_41.job.grid.cells = [] ∧ w43_41.jobc.op.prog = 0 ∧ w43_41.saved = []) ∧
    (Sized w43_42 ∧ w43_42.jobc.st = 4 ∧ w43_42.saved = [kj] ∧ kj.ctl.id = w43_42.jobc.id ∧ kj.ctl.st = 1 ∧ kj.sliceLost = false ∧ List.length kj.ctx = 4 ∧ w43_42.jobc.op.prog = 0) ∧
    (Sized w43_43 ∧ w43_43.jobc.st = 4 ∧ w43_43.saved = [w43_44] ∧ w43_44.ctl.id = w43_43.jobc.id ∧ w43_44.sliceLost = true ∧ w43_43.jobc.op.prog = 0 ) :=
  ⟨by decide +kernel, by decide +kernel, by decide +kernel, by decide +kernel, by decide +kernel, by decide +kernel,
    by decide +kernel, by decide +kernel, by decide +kernel⟩

end B43

namespace B44

def gs : State := { jobS with now := 200000000, own := { owned := true, slot := 2, leaseEnd := 900000000 } }
def swRec (n o src : Nat) : List Byte :=
  let base := 2^76 - 1
  let pos := (if n = 0 then 0 else if n = 1 then 28 else 52) + 4 * o
  leBytes 16 (base - 15 * 2^pos + src * 2^pos)
def cel (c : Nat) (r : CellRec) (x : CellSt) : State :=
  { gs with job := { gs.job with grid := { gs.job.grid with recs := [(c, r)], cells := if x = {} then [] else [(c, x)] } } }
def ent : Entry := ⟨5, true⟩
def w44_0 : State := (cel 17 { sw := swRec 0 0 2 } { q := [(2, [ent])] })
def w44_1 : State := (cel 17 { sw := swRec 0 4 2 } { q := [(2, [ent]), (36, List.replicate 4 ent)] })
def w44_2 : State := (cel 17 { } { wire := [(2, [ent])] })
def w44_3 : State := (cel 17 { } { q := [(2, [ent])] })

theorem witness_FanOut :
    (jobRuns w44_0 = true ∧ w44_0.job.churn.wave.active = false ∧ getQ (getCell w44_0 17) (inKey (netNo Net.vector) 2) = [ent] ∧ feeds (getRec w44_0 17) (netNo Net.vector) 2 ≠ [] ∧ ∀ f ∈ feeds (getRec w44_0 17) (netNo Net.vector) 2, feedRoom w44_0 17 (netNo Net.vector) f = true) ∧
    (jobRuns w44_1 = true ∧ w44_1.job.churn.wave.active = false ∧ getQ (getCell w44_1 17) (inKey (netNo Net.vector) 2) = [ent] ∧ feeds (getRec w44_1 17) (netNo Net.vector) 2 ≠ [] ∧ ∃ f ∈ feeds (getRec w44_1 17) (netNo Net.vector) 2, feedRoom w44_1 17 (netNo Net.vector) f = false) :=
  ⟨by decide +kernel, by decide +kernel⟩

theorem witness_UnroutedEntryFaults :
    (jobRuns w44_2 = true ∧ w44_2.job.churn.wave.active = false ∧ w44_2.jobc.st = 1 ∧ feeds (getRec w44_2 17) (netNo Net.vector) 2 = [] ∧ getWire (getCell w44_2 17) (inKey (netNo Net.vector) 2) = [ent] ∧ List.length (getQ (getCell w44_2 17) (inKey (netNo Net.vector) 2)) < qDepth 17 (netNo Net.vector) 2) ∧
    (jobRuns w44_3 = true ∧ w44_3.job.churn.wave.active = false ∧ w44_3.jobc.st = 1 ∧ feeds (getRec w44_3 17) (netNo Net.vector) 2 = [] ∧ getQ (getCell w44_3 17) (inKey (netNo Net.vector) 2) = [ent]) :=
  ⟨by decide +kernel, by decide +kernel⟩

end B44

/-! ### Witnesses by hand -/

theorem witness_ProcessorsTablesAgeing_other :
    isReady B33.rs = true ∧ ∀ (c : Ctx) (a : BitVec 23), TableWord.sequence 5 ≠ TableWord.control c a := ⟨by decide +kernel, nofun⟩

theorem witness_MatrixEngine_done :
    (B40.w40_15.job.grid.cells ≠ [] ∧ (getCell B40.w40_15 17).done = [B40.w40_16]) ∧ (getCell B40.w40_17 17).done = [B40.w40_18] ∧
    (getCell B40.w40_62 17).done = [B40.w40_63] :=
  ⟨⟨nofun, rfl⟩, rfl, rfl⟩

theorem witness_MatrixEngine_flush :
    (jobRuns B40.w40_15 = true ∧ (matRec (getRec B40.w40_15 17).mat).enable = true ∧ (matRec (getRec B40.w40_15 17).mat).outMode = 0 ∧
      (getCell B40.w40_15 17).vec.ftq.length < 8) ∧
    (jobRuns B40.w40_17 = true ∧ (matRec (getRec B40.w40_17 17).mat).enable = true ∧ (matRec (getRec B40.w40_17 17).mat).outMode ≠ 0 ∧
      getWire (getCell B40.w40_17 17) (inKey 0 4) = [] ∧ (matRec (getRec B40.w40_17 17).mat).tileCount = 0) ∧
    (jobRuns B40.w40_62 = true ∧ (matRec (getRec B40.w40_62 17).mat).enable = true ∧ (matRec (getRec B40.w40_62 17).mat).outMode ≠ 0 ∧
      getWire (getCell B40.w40_62 17) (inKey 0 4) = [] ∧
      (matRec (getRec B40.w40_62 17).mat).tileCount = (getCell B40.w40_62 17).drained + 1) := by decide +kernel

theorem witness_AdmissionOperations_admits :
    (Sized B43.w43_0 ∧ B43.w43_0.jobc.st = 1 ∧ At B43.w43_0 2 (wordD 53 0 4 5 6 0) none ∧
      cmOperand B43.w43_0 2 (greg B43.w43_0 2 5).toNat 64 = some (B43.desc B43.tens) ∧ (greg B43.w43_0 2 6).toNat = 1 ∧ B43.w43_0.adm.deciding = none ∧
      descBad (B43.desc B43.tens) = false) ∧
    ∃ g, decideReq B43.w43_0 (B43.desc B43.tens) = .admits g ∧ g.absent = [] := by
  refine ⟨by decide +kernel, ?_⟩
  have h : (match decideReq B43.w43_0 (B43.desc B43.tens) with
    | .admits g => g.absent.isEmpty | .refused _ => false | .lacks _ => false | .waits => false) = true := by decide +kernel
  split at h
  · rename_i g e
    exact ⟨g, e, by simpa using h⟩
  all_goals simp at h

theorem witness_StepRunsCommand :
    State.reset.pending = [] ∧ State.reset.boot.powered = false ∧ rdy.pending = [] ∧ rdy.boot.powered = true := by decide +kernel

theorem witness_StepKeepsSizes : Sized rdy ∧ ∃ t, step rdy = .next t := ⟨by decide +kernel, _, rfl⟩

theorem witness_StepKeepsMemories : Canonical rdy ∧ ∃ t, step rdy = .next t := ⟨by decide +kernel, _, rfl⟩

/-! ### Well-formedness: one ill-formed command for each check -/

def aRx : Rx := { via := .loopback, src := 0, part := 1, dl := false }
def noPart : Rx := { aRx with part := 0 }
def aFrame : Frame := { src := 0, dst := 1, part := 1, dl := false, body := .wreq 0 0 1 none }

theorem test_wf_access : Instr.wf (.hostRegisterWrite 0 false 0 3 0) = false ∧ Instr.wf (.hostRegisterWrite 0 false 0x3FFFFF9 8 0) = false ∧
    Instr.wf (.hostRegisterWrite 0 true 0x3FF8 8 0) = true ∧ Instr.wf (.hostRegisterWrite 0 true 0x3FF9 8 0) = false ∧ Instr.wf (.hostRegisterWrite 0 false 0 1 256) = false ∧
    Instr.wf (.hostRegisterWrite 0 false 0 1 255) = true ∧ Instr.wf (.hostRegisterReadBadWidth 0 false 0 0) = false := by decide

theorem test_wf_aperture : Instr.wf (.controlMemoryApertureAccess 0 true 0x80000 8 0) = false ∧
    Instr.wf (.controlMemoryApertureAccess 0 true 0 5 0) = false ∧ Instr.wf (.bar4Read 0 0 0) = false ∧
    Instr.wf (.bar4Read 0 (2 ^ 36) 1) = false ∧ Instr.wf (.bar4Write 0 0 []) = false ∧ Instr.wf (.bar4Write 0 (2 ^ 36) [0]) = false := by decide

theorem test_wf_requestRing : Instr.wf (.requestRingWrite 0 0 0x800 [0]) = false ∧ Instr.wf (.requestRingWrite 0 0 0 []) = false ∧
    Instr.wf (.requestRingWrite 0 0 0 (List.replicate 65 0)) = false := by decide

theorem test_wf_immediate : Instr.wf (.addi 0 1 1 false 0x4000) = false ∧ Instr.wf (.addi 0 1 1 false 0x3FFF) = true ∧
    Instr.wf (.addi 0 1 1 true 0x4000) = true ∧ Instr.wf (.sd 0 1 1 false 0x4000) = false := by decide

theorem test_wf_payload : Instr.wf (.write aRx 0 0 0 []) = false ∧ Instr.wf (.write aRx 0 0 0 (List.replicate 513 0)) = false ∧
    Instr.wf (.msg aRx (List.replicate 257 0)) = false ∧ Instr.wf (.msg aRx []) = true := by decide +kernel

theorem test_wf_partition : Instr.wf (.write noPart 0 0 0 [0]) = false ∧ Instr.wf (.lost noPart 0 0) = false ∧
    Instr.wf (.transitFrame 0 0 { aFrame with part := 0 }) = false ∧ Instr.wf (.transitFrame 0 0 aFrame) = true := by decide

theorem test_wf_units : Instr.wf (.wreq aRx 0 0 0 none) = false ∧ Instr.wf (.wreq aRx 0 0 1 none) = true ∧
    Instr.wf (.transitFrame 0 0 { aFrame with body := .wreq 0 0 0 none }) = false ∧
    Instr.wf (.transitFrame 0 0 { aFrame with body := .add 0 0 0 [] }) = false := by decide

theorem test_wf_readings : Instr.wf (.capLoopEvaluation ⟨1, 1, 540, []⟩) = false ∧ Instr.wf (.berTestEnd 0 []) = false ∧
    Instr.wf (.slotLinkUp 0 4 6) = false ∧ Instr.wf (.slotLinkUp 0 8 7) = false ∧ Instr.wf (.bringupFailed 0) = false := by decide

theorem test_wf_frame : Instr.wf (.frameRetired 276480) = false ∧ Instr.wf (.frameRetired 276479) = true ∧
    Instr.wf (.frameRetireComplete 276480 []) = false ∧ Instr.wf (.mgmtRegisterWrite 65536 (List.replicate 8 0) true) = false ∧
    Instr.wf (.mgmtRegisterWrite 0 [0] true) = true := by decide

/-! ### Results worked by hand -/

/-- The state that a command leaves. -/
def after (c : Instr) (s : State) : State := match exec c s with | .next t => t | .fault _ => s | .refused _ => s

/-- The word of ADD g3, g4, g5 by Table 14.2: OP 0, rd 3, rs1 4, rs2 5, FN 0; 2^64 − 1 and 2 add up to 1 modulo 2^64. -/
theorem test_add_wraps : greg (after (.add 2 3 4 5) (runS jobS 2 [0x321400] [(4, 2 ^ 64 - 1), (5, 2)])) 2 3 = 1 := by decide +kernel

/-- R325: FN 10 is DIVU, and by zero it gives all ones. -/
theorem test_divu_zero : greg (after (.divu 2 3 4 5) (runS jobS 2 [0x32140A] [(4, 7), (5, 0)])) 2 3 = BitVec.allOnes 64 := by decide +kernel

/-- R325: LI (OP 0x0A) extends the sign of its 15 bits. -/
theorem test_li_extends : greg (after (.li 2 3 false (-1)) (runS jobS 2 [0x28307FFF] [])) 2 3 = BitVec.allOnes 64 := by decide +kernel

/-- R324: g0 reads zero whatever is written. -/
theorem test_g0 : greg (after (.li 2 0 false (-1)) (runS jobS 2 [0x28007FFF] [])) 2 0 = 0 := by decide +kernel

/-- R3: a 4-byte write is discarded with ACCESS_WIDTH and counted; R387: before READY every write is BUSY. -/
theorem test_write_width :
    (getHost (after (.hostRegisterWrite 1 false 0xA00018 4 0) rdy) 1).errCode = 2 ∧
    (getHost (after (.hostRegisterWrite 1 false 0xA00018 4 0) rdy) 1).errCount = 1 ∧
    (getHost (after (.hostRegisterWrite 1 false 0xA00018 4 0) { rdy with boot := { rdy.boot with stage := 3 } }) 1).errCode = 4 := by
  decide +kernel

/-- R340: a claim with a nonzero nonce takes a module without an owner. -/
theorem test_claim : (after (.ownClaim 1 5) rdy).own.owned = true ∧ (after (.ownClaim 1 5) rdy).own.slot = 1 := by decide +kernel

/-- File 03's example of R51: 2^24 + 1 is a tie and rounds to the even 2^24; 2^24 + 2 is exact. -/
theorem test_fp32_ties : f32add 0x4B800000 0x3F800000 = 0x4B800000 ∧ f32add 0x4B800000 0x40000000 = 0x4B800001 := by decide +kernel

/-- R49: 2^123 − 1 and 1 leave the window and set SAT; the VALUE wraps to −2^123. -/
theorem test_exa_saturates : exaAdd ⟨2 ^ 123 - 1, false, false, false, false⟩ ⟨1, false, false, false, false⟩ =
    ⟨-2 ^ 123, true, false, false, false⟩ := by decide +kernel

/-- R188: twice 0x80 is 0x100, which the polynomial 0x11D reduces to 0x1D. -/
theorem test_gmul : gmul 2 0x80 = 0x1D ∧ gmul 0x80 2 = 0x1D := by decide +kernel

/-- File 02's example of R20: with pair 9 of D0 out of service P08 is pair 8, P09 is pair 10 and P15 pair 16; with pair 16 of D1 out
P17 is pair 1 and P31 pair 15. -/
theorem test_sparing :
    (let s := { State.reset with dies := [{ oos := 9 }, { oos := 16 }] }
     [8, 9, 15, 17, 31].map fun p => physPair s (16 * p)) = [8, 10, 16, 1, 15] := by decide +kernel

/-- File 11's example of R235: AREA_PAGE 0x0040_0000 and SPAN_SHIFT 10 put the slot base of slot 5 at page 0x0040_1400. -/
theorem test_slot_base : ({ area := BitVec.ofNat 64 (0x400000 + 10 * 2 ^ 27) } : Service).slotBase 5 = 0x401400 := by decide +kernel

/-- A WGRANT of 4 units for window 7, GEN 0x21, in partition 5 on the dateline subchannel, LSEQ 0x1234, from module 3 to module 9. -/
def aGrant : Wire := .frame 0x1234 ⟨3, 9, 5, true, .wgrant 7 0x21 4 0⟩

/-- R287, R288: its header by Tables 13.1 and 13.2 (TYPE 2, CLASS 1 CRED, DL 1); its flits read back as the frame. -/
theorem test_frame_bits :
    wireHeader 0 0 aGrant = 2 + 1 * 2 ^ 5 + 2 ^ 7 + 0x1234 * 2 ^ 8 + 3 * 2 ^ 24 + 9 * 2 ^ 40 + 5 * 2 ^ 56 +
      (7 + 0x21 * 2 ^ 6 + 4 * 2 ^ 14) * 2 ^ 80 ∧
    wireOf (wireBytes 0 0 aGrant) = some aGrant ∧ crcGood (wireBytes 0 0 aGrant) = true := by decide +kernel

/-- R287: a changed bit fails the CRC; a reserved TYPE spells no frame. -/
theorem test_frame_bad : crcGood ((wireBytes 0 0 aGrant).set 3 0) = false ∧ wireOf (frameBytes 11 []) = none := by decide +kernel

/-- R287: CRC-32C of the nine ASCII digits "123456789" is 0xE3069283, the check value of the CRC's definition. -/
theorem test_crc32c : crc32c [0x31, 0x32, 0x33, 0x34, 0x35, 0x36, 0x37, 0x38, 0x39] = 0xE3069283 := by decide +kernel

end Sys2Proof.Tests
end

section
/-! PROOF. O1: what one step does (R6, log entry 1). -/

namespace Sys2Proof.Machine

theorem step_cons (c : Instr) (s : State) : step { s with pending := c :: s.pending } = exec c s := rfl

theorem step_idle {s : State} (h : s.pending = []) : step s = .next (tick s) := by
  unfold step
  rw [h]

theorem tick_unpowered {s : State} (h : s.boot.powered = false) : tick s = s := by simp [tick, h]

theorem tick_powered {s : State} (h : s.boot.powered = true) : tick s = msixFlush { s with now := s.now + 1 } := by simp [tick, h]

/-- Settles O1: a waiting command is run on the state whose queue is the rest; an idle step is a `tick`, which writes nothing but the
timebase and the host slots. -/
theorem stepRunsCommand : Obligations.StepRunsCommand := by
  refine ⟨step_cons, fun s hq hp => ?_, fun s hq hp => ⟨tick s, step_idle hq, ?_⟩⟩
  · rw [step_idle hq, tick_unpowered hp]
  · rw [tick_powered hp]
    rfl

end Sys2Proof.Machine
end

section
/-! PROOF. How a host write to BAR0 is decided (R445), in lemmas that say once what each of its stages answers, and O23. -/

namespace Sys2Proof.Machine

/-! ### Commands that answer with a known state -/

theorem ends_eq {i : Instr} {s u : State} (h : exec i s = .next u) : Ends i s fun t => t = u := ⟨u, h, rfl⟩

theorem exec_hostRegisterWrite (n : Slot) (bar2 : Bool) (off width v : Nat) (s : State) :
    exec (.hostRegisterWrite n bar2 off width v) s = .next (hostWrite s n bar2 off width v) := rfl

theorem exec_hostRegisterReadBadWidth (n : Slot) (bar2 : Bool) (off width : Nat) (s : State) :
    exec (.hostRegisterReadBadWidth n bar2 off width) s = .next (hostReadBad s n bar2 off width) := rfl

/-! ### The status that an access records -/

theorem isOwner_iff {s : State} {n : Nat} : isOwner s n = true ↔ s.own.owned = true ∧ s.own.slot = n := by simp [isOwner]

/-- The owner's rights that a register with an RWO field asks for, as `regWrite_may` takes them. -/
theorem may_of_owns {s : State} {n : Nat} {rwo : Bool} (h : rwo = true → s.own.owned = true ∧ s.own.slot = n) :
    rwo = false ∨ isOwner s n = true := by
  cases rwo with
  | false => exact .inl rfl
  | true => exact .inr (isOwner_iff.2 (h rfl))

theorem isOwner_eq_false {s : State} {n : Nat} (h : ¬ (s.own.owned = true ∧ s.own.slot = n)) : isOwner s n = false :=
  Bool.eq_false_iff.2 (mt isOwner_iff.1 h)

theorem slotErr_eq_met (s : State) (n : Slot) (code : Status) (bar off : Nat) : slotErr s n code bar off = met s n code bar off := rfl

theorem slotNote_of_none {r : Option Status × State} (h : r.1 = none) (n bar off : Nat) : slotNote r n bar off = r.2 := by
  simp [slotNote, h]

theorem slotNote_of_some {r : Option Status × State} {c : Status} (h : r.1 = some c) (n : Slot) (bar off : Nat) :
    slotNote r n bar off = met r.2 n c bar off := by
  simp [slotNote, h, slotErr_eq_met]

/-! ### Reserved bits, R445 rule 7 -/

theorem reservedNote_of_some {r : Option Status × State} {c : Status} (h : r.1 = some c) (v mask : Nat) :
    reservedNote r v mask = r := by
  rcases r with ⟨_, t⟩
  simp_all [reservedNote]

theorem reservedNote_inMask {r : Option Status × State} {v mask : Nat} (hv : v &&& mask = v) : reservedNote r v mask = r := by
  rcases r with ⟨_ | c, t⟩ <;> simp [reservedNote, hv]

theorem reservedNote_beyond {r : Option Status × State} {v mask : Nat} (h : r.1 = none) (hv : v &&& mask ≠ v) :
    reservedNote r v mask = (some Code.reservedSet, r.2) := by
  simp [reservedNote, h, hv]

theorem and_ones_of_lt {v w : Nat} (h : v < 2 ^ w) : v &&& ones w = v := Nat.and_two_pow_sub_one_of_lt_two_pow h

/-! ### The stages of R445 -/

theorem hostWrite_outside {s : State} {n off width : Nat} (v : Nat) (hb : 0x4000000 < off + width) :
    hostWrite s n false off width v = s := by
  simp [hostWrite, inBar, hb]

theorem hostWrite_bar0 {s : State} {n off width : Nat} (v : Nat) (hs : Settled s) (hp : (getHost s n).present = true)
    (hb : off + width ≤ 0x4000000) : hostWrite s n false off width v = slotNote (bar0Write s n off width v) n 0 off := by
  simp [hostWrite, ownSettle_settled hs, hp, inBar, hb]

theorem bar0Write_notReady {s : State} (n off width v : Nat) (h : isReady s = false) :
    bar0Write s n off width v = (some Code.busy, s) := by
  simp [bar0Write, h]

theorem wide_iff {off width : Nat} : wide off width = true ↔ width = 8 ∧ off % 8 = 0 := by simp [wide]

theorem bar0Write_notWide {s : State} {off width : Nat} (n v : Nat) (h : isReady s = true) (hw : ¬ (width = 8 ∧ off % 8 = 0)) :
    bar0Write s n off width v = (some Code.accessWidth, s) := by
  simp [bar0Write, h, mt wide_iff.1 hw]

/-- R337: the offsets that lie outside the control memory aperture. -/
theorem inAperture_eq_false {off : Nat} (h : off < 0x280000 ∨ 0x300000 ≤ off) : inAperture off = false := by
  simp only [inAperture, Bool.and_eq_false_iff, decide_eq_false_iff_not]
  omega

theorem bar0Write_register {s : State} {off width : Nat} (n v : Nat) (h : isReady s = true) (hw : width = 8 ∧ off % 8 = 0)
    (ha : off < 0x280000 ∨ 0x300000 ≤ off) : bar0Write s n off width v = regWrite s n (isOwner s n) off v := by
  simp [bar0Write, h, wide_iff.2 hw, inAperture_eq_false ha]

theorem regWrite_unassigned {s : State} {off : Nat} (n : Nat) (own : Bool) (v : Nat) (h : regAt s true off = none) :
    regWrite s n own off v = (some Code.badArgument, s) := by
  simp [regWrite, h]

theorem regWrite_readOnly {s : State} {off : Nat} (n : Nat) (own : Bool) (v : Nat) (h : (regAt s true off).isSome = true)
    (hk : regKind off = none) : regWrite s n own off v = (none, s) := by
  obtain ⟨a, ha⟩ := Option.isSome_iff_exists.1 h
  simp [regWrite, ha, hk]

theorem regWrite_notOwner {s : State} {off k : Nat} (n v : Nat) (h : (regAt s true off).isSome = true)
    (hk : regKind off = some (true, k)) : regWrite s n false off v = (some Code.notOwner, s) := by
  obtain ⟨a, ha⟩ := Option.isSome_iff_exists.1 h
  simp [regWrite, ha, hk]

/-- A write to BAR0 by a slot whose link is up and whose ownership is settled leaves what `bar0Write` answers, its status recorded. -/
theorem ends_hostWrite_bar0 {s : State} {n : Slot} {off width : Nat} (v : Nat) {u : State} (hs : Settled s)
    (hp : (getHost s n).present = true) (hb : off + width ≤ 0x4000000) (hu : slotNote (bar0Write s n off width v) n 0 off = u) :
    Ends (.hostRegisterWrite n false off width v) s fun t => t = u :=
  ends_eq (by rw [exec_hostRegisterWrite, hostWrite_bar0 v hs hp hb, hu])

/-! ### A write that reaches a register of BAR0 -/

/-- An aligned place for a register in BAR0, outside the control memory aperture. -/
abbrev RegisterPlace (off : Nat) : Prop := off % 8 = 0 ∧ (off < 0x280000 ∨ 0x300000 ≤ off) ∧ off + 8 ≤ 0x4000000

theorem hostWrite_register {s : State} {n : Slot} {off : Nat} (v : Nat) (h : Answers s n) (hp : RegisterPlace off) :
    hostWrite s n false off 8 v = slotNote (regWrite s n (isOwner s n) off v) n 0 off := by
  obtain ⟨hr, hl, hs⟩ := h
  obtain ⟨h8, ha, hb⟩ := hp
  rw [hostWrite_bar0 v hs hl hb, bar0Write_register n v hr ⟨rfl, h8⟩ ha]

/-- A register that the slot may write, and whose reserved bits `v` leaves zero, takes the write. -/
theorem hostWrite_takes {s : State} {n : Slot} {off v w : Nat} {rwo : Bool} (h : Answers s n) (hp : RegisterPlace off)
    (hat : (regAt s true off).isSome = true) (hk : regKind off = some (rwo, ones w))
    (hown : rwo = true → s.own.owned = true ∧ s.own.slot = n) (hv : v < 2 ^ w) :
    hostWrite s n false off 8 v = slotNote (regDo s n off v) n 0 off := by
  rw [hostWrite_register v h hp, regWrite_may hat hk (may_of_owns hown), and_ones_of_lt hv, reservedNote_inMask (and_ones_of_lt hv)]

theorem ends_hostWrite_takes {s u : State} {n : Slot} {off v w : Nat} {rwo : Bool} (h : Answers s n) (hp : RegisterPlace off)
    (hat : (regAt s true off).isSome = true) (hk : regKind off = some (rwo, ones w))
    (hown : rwo = true → s.own.owned = true ∧ s.own.slot = n) (hv : v < 2 ^ w) (hu : slotNote (regDo s n off v) n 0 off = u) :
    Ends (.hostRegisterWrite n false off 8 v) s fun t => t = u :=
  ends_eq (by rw [exec_hostRegisterWrite, hostWrite_takes h hp hat hk hown hv, hu])

/-! ### What registers do with a value -/

theorem inRange_of_mem {v lo hi : Nat} (s t : State) (h : lo ≤ v ∧ v ≤ hi) : inRange v lo hi s t = (none, t) := if_pos h

theorem inRange_of_not_mem {v lo hi : Nat} (s t : State) (h : ¬ (lo ≤ v ∧ v ≤ hi)) :
    inRange v lo hi s t = (some Code.badArgument, s) := if_neg h

theorem bits_zero_of_lt {v w : Nat} (h : v < 2 ^ w) : bits v 0 w = v := by simp [bits, Nat.mod_eq_of_lt h]

/-- R4: VALID, bit 16 of a record register, is W1C. -/
theorem recClear_ofNat (r : Rec) (v : Nat) : recClear r (BitVec.ofNat 64 v) = if v / 2 ^ 16 % 2 = 1 then {} else r := by
  have valid : (BitVec.ofNat 64 v).getLsbD 16 = decide (v / 2 ^ 16 % 2 = 1) := by
    simp only [BitVec.getLsbD_ofNat, Nat.testBit_eq_decide_div_mod_eq, Nat.reduceLT, decide_true, Bool.true_and]
  simp only [recClear, valid, decide_eq_true_eq]

theorem regDo_hangLimit (s : State) (n v : Nat) :
    regDo s n 0x400018 v = inRange v 20 1000 s { s with limits := { s.limits with hangUs := v } } := rfl

theorem regDo_gridFault (s : State) (n v : Nat) : regDo s n 0x402000 v =
    (none, { s with recs := { s.recs with grid := if v / 2 ^ 16 % 2 = 1 then {} else s.recs.grid } }) := by
  rw [← recClear_ofNat]
  rfl

theorem regDo_aperture {v : Nat} (s : State) (n : Nat) (h : v < 2 ^ 12) :
    regDo s n 0x100300 v = (none, { s with tiers := { s.tiers with aperture := v } }) := by
  have : regDo s n 0x100300 v = (none, { s with tiers := { s.tiers with aperture := bits v 0 12 } }) := rfl
  rw [this, bits_zero_of_lt h]

theorem regDo_locate (s : State) (n v : Nat) :
    regDo s n 0xE00018 v = (none, { s with panel := { s.panel with locate := bit v 0 } }) := rfl

/-- The offset of RX_SEL in a slot's Raler inspection window, Table 14.11. -/
abbrev rxSelAt (n : Slot) : Nat := 0x203008 + 0x40 * n.val

theorem registerPlace_rxSel (n : Slot) : RegisterPlace (rxSelAt n) := by
  have := n.isLt
  unfold RegisterPlace rxSelAt
  omega

theorem regAt_rxSel (s : State) (n : Slot) : (regAt s true (rxSelAt n)).isSome = true := by
  match n with
  | 0 | 1 | 2 | 3 => rfl

theorem regKind_rxSel : ∀ n : Slot, regKind (rxSelAt n) = some (false, ones 8) := by decide

theorem regDo_rxSel (s : State) (m : Nat) (n : Slot) (v : Nat) :
    regDo s m (rxSelAt n) v = (none, setHost s n { getHost s n with rxSel := v }) := by
  match n with
  | 0 | 1 | 2 | 3 => rfl

/-! ### Reads of another width -/

theorem pageReadWide_iff {off width : Nat} :
    pageReadWide off width = true ↔ (width = 8 ∧ off % 8 = 0) ∨ (width = 4 ∧ off % 4 = 0) := by simp [pageReadWide]

theorem hostReadBad_wide {s : State} {off width : Nat} (n : Nat) (bar2 : Bool)
    (hw : (width = 8 ∧ off % 8 = 0) ∨ (width = 4 ∧ off % 4 = 0)) : hostReadBad s n bar2 off width = s := by
  simp [hostReadBad, pageReadWide_iff.2 hw]

theorem hostReadBad_notes {s : State} {n : Slot} {off width : Nat} (h : Answers s n) (hb : off + width ≤ 0x4000000)
    (hw : ¬ ((width = 8 ∧ off % 8 = 0) ∨ (width = 4 ∧ off % 4 = 0))) :
    hostReadBad s n false off width =
      met (setHost s n { getHost s n with resp := List.replicate width 0 }) n Code.accessWidth 0 off := by
  obtain ⟨hr, hl, -⟩ := h
  simp [hostReadBad, hl, inBar, hb, mt pageReadWide_iff.1 hw, hr, slotErr_eq_met]

/-- Settles O23: each clause of the order of R445 is one stage above; each register's clause is `hostWrite_takes` and what the
register does with the value. -/
theorem hostWrites : Obligations.HostWrites := by
  refine ⟨fun s n off width v hs hp => ⟨fun hb => ?_, fun hb => ?_⟩, fun s n v h => ?_⟩
  · exact ends_eq (by rw [exec_hostRegisterWrite, hostWrite_outside v hb])
  · have decided := fun u => ends_hostWrite_bar0 (u := u) v hs hp hb
    refine ⟨fun hr => decided _ ?_, fun hr hw => decided _ ?_, fun ⟨hr, hw, ha⟩ hat => decided _ ?_,
      fun k ⟨hr, hw, ha⟩ hat hk hown => decided _ ?_, fun ⟨hr, hw, ha⟩ hat hk => decided _ ?_,
      fun r k ⟨hr, hw, ha⟩ hat hk hown c hc => decided _ ?_, fun r k ⟨hr, hw, ha⟩ hat hk hown hc => decided _ ?_⟩
    · rw [bar0Write_notReady n off width v hr]; rfl
    · rw [bar0Write_notWide n v hr hw]; rfl
    · rw [bar0Write_register n v hr hw ha, regWrite_unassigned n _ v hat]; rfl
    · rw [bar0Write_register n v hr hw ha, isOwner_eq_false hown, regWrite_notOwner n v hat hk]; rfl
    · rw [bar0Write_register n v hr hw ha, regWrite_readOnly n _ v hat hk]; rfl
    · rw [bar0Write_register n v hr hw ha, regWrite_may hat hk (may_of_owns hown), reservedNote_of_some hc, slotNote_of_some hc]
    · rw [bar0Write_register n v hr hw ha, regWrite_may hat hk (may_of_owns hown)]
      split
      · next hv => rw [reservedNote_inMask hv, slotNote_of_none hc, hv]
      · next hv => rw [reservedNote_beyond hc hv, slotNote_of_some rfl]; rfl
  · refine ⟨fun own lo hi => ?_, fun own lo hi => ?_, fun hv lt => ?_, fun lt hv => ?_, fun own lt => ?_, fun own hv => ?_, fun lt => ?_,
      ?_, ?_, fun off width hb hw => ?_, fun off width hw => ?_⟩
    · refine ends_hostWrite_takes h (w := 10) (rwo := true) (by decide) rfl (by decide) (fun _ => own) (by omega) ?_
      rw [regDo_hangLimit, inRange_of_mem s _ ⟨lo, hi⟩]; rfl
    · refine ends_hostWrite_takes h (w := 10) (rwo := true) (by decide) rfl (by decide) (fun _ => own) hi ?_
      rw [regDo_hangLimit, inRange_of_not_mem s _ (by omega)]; rfl
    · refine ends_hostWrite_takes h (w := 42) (rwo := false) (by decide) rfl (by decide) nofun lt ?_
      rw [regDo_gridFault, if_pos (by omega)]; rfl
    · refine ends_hostWrite_takes h (w := 42) (rwo := false) (by decide) rfl (by decide) nofun lt ?_
      rw [regDo_gridFault, if_neg (by omega)]; rfl
    · refine ends_hostWrite_takes h (w := 12) (rwo := true) (by decide) rfl (by decide) (fun _ => own) lt ?_
      rw [regDo_aperture s n lt]; rfl
    · subst hv
      refine ends_eq ?_
      rw [exec_hostRegisterWrite, hostWrite_register 3 h (by decide), regWrite_may (k := (true, 1)) rfl (by decide) (may_of_owns fun _ => own),
        reservedNote_beyond rfl (by decide), regDo_locate]
      rfl
    · refine ends_hostWrite_takes h (registerPlace_rxSel n) (regAt_rxSel s n) (regKind_rxSel n) nofun lt ?_
      rw [regDo_rxSel]; rfl
    · refine ends_eq ?_
      rw [exec_hostRegisterWrite, hostWrite_register v h (by decide), regWrite_readOnly n _ v rfl (by decide)]; rfl
    · refine ends_eq ?_
      rw [exec_hostRegisterWrite, hostWrite_register v h (by decide), regWrite_unassigned n _ v rfl]; rfl
    · refine ends_eq ?_
      rw [exec_hostRegisterReadBadWidth, hostReadBad_notes h hb hw]; rfl
    · refine ends_eq ?_
      rw [exec_hostRegisterReadBadWidth, hostReadBad_wide n false hw]

end Sys2Proof.Machine
end

section
/-! PROOF. What every job fault and every unit fault leaves as it is (R334, R353, R403): the frame lemmas of interrupts, records, events
and the end of a program. -/

namespace Sys2Proof.Machine

/-! ### Interrupts, events and programs write neither the job nor the records -/

@[simp] theorem interrupt_job (s : State) (v : Nat) : (interrupt s v).job = s.job := rfl
@[simp] theorem interrupt_jobc (s : State) (v : Nat) : (interrupt s v).jobc = s.jobc := rfl
@[simp] theorem interrupt_recs (s : State) (v : Nat) : (interrupt s v).recs = s.recs := rfl

/-- A fold whose every step keeps a part of the state keeps it. -/
theorem foldl_keeps {σ α β : Type} (p : σ → β) {f : σ → α → σ} (h : ∀ s a, p (f s a) = p s) (l : List α) (s : σ) :
    p (l.foldl f s) = p s := by
  induction l generalizing s with
  | nil => rfl
  | cons a l ih => rw [List.foldl_cons, ih, h]

@[simp] theorem pqEnd_job (s : State) (q : Nat) (i : BitVec 32) (a b : Status) (pc : Nat) : (pqEnd s q i a b pc).job = s.job := by
  unfold pqEnd
  exact (apply_ite State.job _ _ _).trans (ite_self _)
@[simp] theorem pqEnd_jobc (s : State) (q : Nat) (i : BitVec 32) (a b : Status) (pc : Nat) : (pqEnd s q i a b pc).jobc = s.jobc := by
  unfold pqEnd
  exact (apply_ite State.jobc _ _ _).trans (ite_self _)
@[simp] theorem pqEnd_recs (s : State) (q : Nat) (i : BitVec 32) (a b : Status) (pc : Nat) : (pqEnd s q i a b pc).recs = s.recs := by
  unfold pqEnd
  exact (apply_ite State.recs _ _ _).trans (ite_self _)

@[simp] theorem endProgram_job (s : State) (c : Nat) (a b : Status) : (endProgram s c a b).job = s.job := by
  unfold endProgram
  dsimp only
  split <;> simp
@[simp] theorem endProgram_jobc (s : State) (c : Nat) (a b : Status) : (endProgram s c a b).jobc = s.jobc := by
  unfold endProgram
  dsimp only
  split <;> simp
@[simp] theorem endProgram_recs (s : State) (c : Nat) (a b : Status) : (endProgram s c a b).recs = s.recs := by
  unfold endProgram
  dsimp only
  split <;> simp

@[simp] theorem raiseAll_job (s : State) (cs : List Nat) (b : Nat) (r : Word) : (raiseAll s cs b r).job = s.job :=
  foldl_keeps State.job (f := fun s c => raiseEvent s c b r) (fun _ _ => rfl) cs s
@[simp] theorem raiseAll_jobc (s : State) (cs : List Nat) (b : Nat) (r : Word) : (raiseAll s cs b r).jobc = s.jobc :=
  foldl_keeps State.jobc (f := fun s c => raiseEvent s c b r) (fun _ _ => rfl) cs s
@[simp] theorem raiseAll_recs (s : State) (cs : List Nat) (b : Nat) (r : Word) : (raiseAll s cs b r).recs = s.recs :=
  foldl_keeps State.recs (f := fun s c => raiseEvent s c b r) (fun _ _ => rfl) cs s

/-! ### The fault of a running job -/

theorem jobRuns_st {s : State} (h : jobRuns s = true) : s.jobc.st = 1 := by
  simp only [jobRuns, jobOn, Bool.and_eq_true, beq_iff_eq] at h
  exact h.1

/-- R353: a running job, which no save is under way for, becomes FAULTED; its programs end and the supervisors hear of it. -/
theorem raiseJobFault_running {s : State} (h : s.jobc.st = 1) (code : Status) :
    raiseJobFault s code =
      raiseAll (jobCtxs.foldl (fun s c => endProgram s c Code.jobFaulted 0) (setJobSt { s with jobc := { s.jobc with fault := code } } 2))
        supCtxs 6 (evRecord code 0 0) := by
  simp [raiseJobFault, h]

theorem raiseJobFault_job {s : State} (h : s.jobc.st = 1) (code : Status) : (raiseJobFault s code).job = s.job := by
  rw [raiseJobFault_running h, raiseAll_job, foldl_keeps State.job (by simp)]
  rfl

theorem raiseJobFault_jobc {s : State} (h : s.jobc.st = 1) (code : Status) :
    (raiseJobFault s code).jobc = { s.jobc with st := 2, fault := code } := by
  rw [raiseJobFault_running h, raiseAll_jobc, foldl_keeps State.jobc (by simp)]
  rfl

theorem raiseJobFault_recs {s : State} (h : s.jobc.st = 1) (code : Status) : (raiseJobFault s code).recs = s.recs := by
  rw [raiseJobFault_running h, raiseAll_recs, foldl_keeps State.recs (by simp)]
  rfl

/-! ### GRID_FAULT -/

@[simp] theorem recIrq_job (s : State) (r : Rec) : (recIrq s r).job = s.job := by unfold recIrq; split <;> rfl
@[simp] theorem recIrq_jobc (s : State) (r : Rec) : (recIrq s r).jobc = s.jobc := by unfold recIrq; split <;> rfl
@[simp] theorem recIrq_recs (s : State) (r : Rec) : (recIrq s r).recs = s.recs := by unfold recIrq; split <;> rfl
@[simp] theorem recIrq_ras (s : State) (r : Rec) : (recIrq s r).ras = s.ras := by unfold recIrq; split <;> rfl

@[simp] theorem noteGrid_job (s : State) (code : Status) (c u n p : Nat) (d : List Nat) : (noteGrid s code c u n p d).job = s.job :=
  recIrq_job _ _
@[simp] theorem noteGrid_jobc (s : State) (code : Status) (c u n p : Nat) (d : List Nat) : (noteGrid s code c u n p d).jobc = s.jobc :=
  recIrq_jobc _ _
@[simp] theorem noteGrid_ras (s : State) (code : Status) (c u n p : Nat) (d : List Nat) : (noteGrid s code c u n p d).ras = s.ras :=
  recIrq_ras _ _

/-- Table 2.11: the place in a record of GRID_FAULT. -/
theorem noteGrid_recs_grid (s : State) (code : Status) (c u n p : Nat) (d : List Nat) :
    (noteGrid s code c u n p d).recs.grid =
      recNote s.recs.grid code (2 ^ 17 * c + 2 ^ 26 * u + 2 ^ 37 * n + 2 ^ 39 * p) 0 d := by
  simp only [noteGrid, recIrq_recs, fld, Nat.mul_comm]

theorem recNote_of_free {r : Rec} (h : r.valid = false) (code : Status) (fields aux : Nat) (d : List Nat) :
    recNote r code fields aux d = ⟨BitVec.ofNat 64 (code.toNat + 2 ^ 16 + fields), BitVec.ofNat 64 aux, r.more, d⟩ := by
  simp [recNote, h]

theorem recNote_reg_of_valid {r : Rec} (h : r.valid = true) (code : Status) (fields aux : Nat) (d : List Nat) :
    (recNote r code fields aux d).reg = r.reg := by
  simp [recNote, h]

/-- A record whose fields lie above VALID holds VALID. -/
theorem recNote_valid (r : Rec) (code : Status) (m aux : Nat) (d : List Nat) : (recNote r code (2 ^ 17 * m) aux d).valid = true := by
  unfold recNote
  split
  · next h => exact h
  · have : code.toNat < 2 ^ 16 := code.isLt
    simp only [Rec.valid, BitVec.getLsbD_ofNat, Nat.testBit_eq_decide_div_mod_eq, Nat.reduceLT, decide_true, Bool.true_and,
      decide_eq_true_eq]
    omega

theorem noteGrid_valid (s : State) (code : Status) (c u n p : Nat) (d : List Nat) :
    (noteGrid s code c u n p d).recs.grid.valid = true := by
  have fields : 2 ^ 17 * c + 2 ^ 26 * u + 2 ^ 37 * n + 2 ^ 39 * p = 2 ^ 17 * (c + 2 ^ 9 * u + 2 ^ 20 * n + 2 ^ 22 * p) := by omega
  rw [noteGrid_recs_grid, fields]
  exact recNote_valid ..

theorem noteGrid_reg_of_valid {s : State} (h : s.recs.grid.valid = true) (code : Status) (c u n p : Nat) (d : List Nat) :
    (noteGrid s code c u n p d).recs.grid.reg = s.recs.grid.reg := by
  rw [noteGrid_recs_grid, recNote_reg_of_valid h]

/-! ### A unit fault without a checkpoint -/

/-- R405: where no checkpoint exists there is a reason not to replay. -/
theorem replayReason_ne_zero {s : State} (h : s.job.ckpt = none) (held : Bool) : replayReason s held ≠ 0 := by
  cases held <;> simp [replayReason, h]

/-- `t` has the job of `s`, in the same state, and a record that GRID_FAULT held in `s` it holds still: what spares, counts and records
may do before a unit fault stops the job. -/
structure BeforeFault (s t : State) : Prop where
  job : t.job = s.job
  jobc : t.jobc = s.jobc
  grid : s.recs.grid.valid = true → t.recs.grid.reg = s.recs.grid.reg

theorem BeforeFault.trans {s t u : State} (h : BeforeFault s t) (k : BeforeFault t u) : BeforeFault s u where
  job := k.job.trans h.job
  jobc := k.jobc.trans h.jobc
  grid v := (k.grid (by rw [Rec.valid, h.grid v]; exact v)).trans (h.grid v)

theorem beforeFault_shiftPair (s : State) (c : Nat) (code : Status) : BeforeFault s (shiftPair s c code) := ⟨rfl, rfl, fun _ => rfl⟩

theorem beforeFault_failPair (s : State) (c u : Nat) : BeforeFault s (failPair s c u) :=
  ⟨noteGrid_job .., noteGrid_jobc .., fun v => noteGrid_reg_of_valid (by exact v) ..⟩

theorem beforeFault_noteUnit (s : State) (code : Status) (c u why : Nat) (i m : Bool) (lost : Nat) (d : List Nat) :
    BeforeFault s (noteUnit s code c u why i m lost d) :=
  ⟨recIrq_job .., recIrq_jobc .., fun _ => by simp [noteUnit]⟩

theorem beforeFault_spare (s : State) (c u : Nat) (code : Status) (injected held : Bool) :
    BeforeFault s (if injected then s else if held then shiftPair s c code else failPair s c u) := by
  cases injected with
  | true => exact ⟨rfl, rfl, fun _ => rfl⟩
  | false =>
    cases held with
    | true => exact beforeFault_shiftPair s c code
    | false => exact beforeFault_failPair s c u

/-- R403, R405: a unit fault with no checkpoint stops the running job. -/
theorem unitFault_eq_raiseJobFault {s : State} (hr : s.jobc.st = 1) (hk : s.job.ckpt = none) (ht : s.ras.testing = false) (c : Nat)
    (code : Status) (inMu injected : Bool) (d : List Nat) :
    ∃ t, BeforeFault s t ∧ unitFault s c code inMu injected d = raiseJobFault t code := by
  have why := replayReason_ne_zero hk (nth {} s.dies (dieOf c)).held
  simp only [unitFault, ht, Bool.false_and, Bool.false_eq_true, if_false, unitFaultNow, hr, beq_self_eq_true, Bool.true_or, Bool.not_true]
  rw [if_pos (by simpa using why)]
  refine ⟨_, .trans (.trans ?counted (beforeFault_spare ..)) (beforeFault_noteUnit ..), rfl⟩
  case counted => exact ⟨rfl, rfl, fun _ => rfl⟩

theorem unitFault_stops {s : State} (hr : s.jobc.st = 1) (hk : s.job.ckpt = none) (ht : s.ras.testing = false) (c : Nat) (code : Status)
    (inMu injected : Bool) (d : List Nat) :
    (unitFault s c code inMu injected d).jobc = { s.jobc with st := 2, fault := code } ∧
    (unitFault s c code inMu injected d).job = s.job ∧
    (s.recs.grid.valid = true → (unitFault s c code inMu injected d).recs.grid.reg = s.recs.grid.reg) := by
  obtain ⟨t, ⟨hjob, hjobc, hgrid⟩, ht⟩ := unitFault_eq_raiseJobFault hr hk ht c code inMu injected d
  have hr' : t.jobc.st = 1 := by rw [hjobc, hr]
  rw [ht, raiseJobFault_jobc hr', raiseJobFault_job hr', raiseJobFault_recs hr', hjobc]
  exact ⟨rfl, hjob, hgrid⟩

end Sys2Proof.Machine
end

section
/-! PROOF. The switches (R25 to R30): what a link, a switch input queue and the matrix engine's inputs do, one lemma for each outcome, and
O43, O44, O45. -/

namespace Sys2Proof.Machine

theorem exec_linkEntryReceive (c : Cell) (net : Net) (port : Fin 6) (check : Check) (s : State) :
    exec (.linkEntryReceive c net port check) s = .next (linkReceive s c (netNo net) port check) := rfl

theorem exec_creditReturn_switchInput (c : Cell) (net : Net) (port : Fin 6) (s : State) :
    exec (.creditReturn c (.switchInput net port)) s = .next (queueRelease s c (netNo net) port) := rfl

theorem exec_creditReturn_operandA (c : Cell) (s : State) : exec (.creditReturn c .operandA) s = .next (operandTake s c false) := rfl

theorem exec_creditReturn_operandB (c : Cell) (s : State) : exec (.creditReturn c .operandB) s = .next (operandTake s c true) := rfl

theorem getCell_congr {s t : State} (h : t.job = s.job) (c : Nat) : getCell t c = getCell s c := by rw [getCell, h, getCell]

/-! ### No wave: one configuration is in force -/

theorem splits_of_no_wave {s : State} (h : s.job.churn.wave.active = false) (c port : Nat) : splits s c port = false := by
  simp [splits, h]

theorem behindToken_of_no_wave {s : State} (h : s.job.churn.wave.active = false) (c net port : Nat) : behindToken s c net port = false := by
  simp [behindToken, splits_of_no_wave h]

theorem recvRec_of_no_wave {s : State} (h : s.job.churn.wave.active = false) (c net port : Nat) : recvRec s c net port = getRec s c := by
  simp [recvRec, splits_of_no_wave h]

/-! ### An entry on a link, R29, R30 -/

/-- A cell whose queue `k` has taken `e` from its link, on which `rest` still travels. -/
def cellEntered (now : Nat) (x : CellSt) (k : Nat) (e : Entry) (rest : List Entry) : CellSt :=
  { x with
    wire := Tbl.set [] x.wire k rest, q := Tbl.set [] x.q k (getQ x k ++ [e])
    since := if getQ x k = [] then Tbl.insert x.since k now else x.since }

theorem linkReceive_full {s : State} {c net port : Nat} (check : Check)
    (hq : qDepth c net port ≤ (getQ (getCell s c) (inKey net port)).length) : linkReceive s c net port check = s := by
  unfold linkReceive
  dsimp only
  split
  · rfl
  · simp [hq]

section
variable {s : State} {c net port : Nat} {e : Entry} {rest : List Entry} (hr : jobRuns s = true)
  (hw : s.job.churn.wave.active = false) (he : getWire (getCell s c) (inKey net port) = e :: rest)
  (hq : (getQ (getCell s c) (inKey net port)).length < qDepth c net port)
include hr hw he hq

theorem linkReceive_clean : linkReceive s c net port .clean =
    let t := setCell s c (cellEntered s.now (getCell s c) (inKey net port) e rest)
    if feeds (getRec s c) net port = [] then unrouted t c net port else t := by
  simp only [linkReceive, he, hr, behindToken_of_no_wave hw, recvRec_of_no_wave hw, decide_eq_false (Nat.not_le.2 hq), Bool.not_true,
    Bool.or_false, Bool.false_eq_true, if_false, reduceCtorEq, false_and, List.isEmpty_iff]
  by_cases empty : getQ (getCell s c) (inKey net port) = [] <;> simp [cellEntered, empty, setQ, setWire, sinceHead]

theorem linkReceive_queues (hf : feeds (getRec s c) net port ≠ []) :
    linkReceive s c net port .clean = setCell s c (cellEntered s.now (getCell s c) (inKey net port) e rest) := by
  rw [linkReceive_clean hr hw he hq]
  exact if_neg hf

theorem linkReceive_unrouted (hf : feeds (getRec s c) net port = []) :
    linkReceive s c net port .clean = unrouted (setCell s c (cellEntered s.now (getCell s c) (inKey net port) e rest)) c net port := by
  rw [linkReceive_clean hr hw he hq]
  exact if_pos hf

theorem linkReceive_uncorrectable : linkReceive s c net port .uncorrectable =
    let code := if net = 2 then Code.tokenParity else Code.linkUncorrectable
    unitFault (noteGrid s code c (punit s c false) net port) c code false false := by
  simp only [linkReceive, he, hr, behindToken_of_no_wave hw, decide_eq_false (Nat.not_le.2 hq), Bool.not_true, Bool.or_false,
    Bool.false_eq_true, if_false, if_true]

/-- R30, R405: an uncorrectable entry with no checkpoint to replay from stops the job, and stays on its link. -/
theorem linkReceive_uncorrectable_stops (hk : s.job.ckpt = none) (ht : s.ras.testing = false) :
    (linkReceive s c net port .uncorrectable).jobc =
      { s.jobc with st := 2, fault := if net = 2 then Code.tokenParity else Code.linkUncorrectable } ∧
    (linkReceive s c net port .uncorrectable).job = s.job := by
  rw [linkReceive_uncorrectable hr hw he hq]
  obtain ⟨hjobc, hjob, -⟩ := unitFault_stops (s := noteGrid s _ c (punit s c false) net port) (by simpa using jobRuns_st hr)
    (by simpa using hk) (by simpa using ht) c (if net = 2 then Code.tokenParity else Code.linkUncorrectable) false false []
  exact ⟨by simpa using hjobc, by simpa using hjob⟩

end

/-! ### An entry that feeds nothing, R29 -/

theorem unrouted_job {s : State} (h : s.jobc.st = 1) (c net port : Nat) : (unrouted s c net port).job = s.job := by
  rw [unrouted, raiseJobFault_job (by simpa using h), noteGrid_job]

theorem unrouted_jobc {s : State} (h : s.jobc.st = 1) (c net port : Nat) :
    (unrouted s c net port).jobc = { s.jobc with st := 2, fault := 0x0203 } := by
  rw [unrouted, raiseJobFault_jobc (by simpa using h), noteGrid_jobc]
  rfl

theorem unrouted_recs_grid {s : State} (h : s.jobc.st = 1) (c net port : Nat) : (unrouted s c net port).recs.grid =
    recNote s.recs.grid 0x0203 (2 ^ 17 * c + 2 ^ 26 * punit s c false + 2 ^ 37 * net + 2 ^ 39 * port) 0 := by
  rw [unrouted, raiseJobFault_recs (by simpa using h), noteGrid_recs_grid]
  rfl

/-! ### The head of a switch input queue, R27, R28 -/

/-- A cell whose queue `k` has let its head go, with `rest` behind it. -/
def cellReleased (now : Nat) (x : CellSt) (k : Nat) (rest : List Entry) : CellSt :=
  { x with
    q := Tbl.set [] x.q k rest
    since := if rest = [] then Tbl.erase x.since k else Tbl.insert x.since k now }

theorem queueRelease_unrouted {s : State} {c net port : Nat} (h : feeds (getRec s c) net port = []) : queueRelease s c net port = s := by
  unfold queueRelease
  dsimp only
  split
  · rfl
  · simp [h]

theorem queueRelease_held {s : State} {c net port : Nat} (h : ∃ f ∈ feeds (getRec s c) net port, feedRoom s c net f = false) :
    queueRelease s c net port = s := by
  have full : (feeds (getRec s c) net port).all (feedRoom s c net) = false := List.all_eq_false.2 (by simpa using h)
  unfold queueRelease
  dsimp only
  split
  · rfl
  · simp [full]

theorem queueRelease_sends {s : State} {c net port : Nat} {e : Entry} {rest : List Entry} (hr : jobRuns s = true)
    (hw : s.job.churn.wave.active = false) (he : getQ (getCell s c) (inKey net port) = e :: rest)
    (hf : feeds (getRec s c) net port ≠ []) (room : ∀ f ∈ feeds (getRec s c) net port, feedRoom s c net f = true) :
    queueRelease s c net port =
      let u := feedAll (setCell s c (cellReleased s.now (getCell s c) (inKey net port) rest)) c net (feeds (getRec s c) net port) e
      if net = 2 ∧ port = 5 then setCell u c (giveTokens 8 (getCell u c)) else u := by
  simp only [queueRelease, he, hr, splits_of_no_wave hw, List.all_eq_true.2 room, List.isEmpty_eq_false_iff.2 hf, Bool.not_true,
    Bool.or_false, Bool.false_and, Bool.false_eq_true, if_false]
  cases rest <;> simp [cellReleased, setQ, sinceHead]

/-- R28: an entry that leaves by an output travels to the neighbour's input, and the beat timers see it. -/
theorem feedPut_out {c o d i : Nat} (h : neighbour c o = some (d, i)) (s : State) (n : Nat) (e : Entry) :
    feedPut s c n e (.out o) =
      let z := getCell s d
      setGrid s { s.job.grid with
        cells := Tbl.set {} s.job.grid.cells d { z with wire := Tbl.set [] z.wire (inKey n i) (getWire z (inKey n i) ++ [e]) }
        timers := s.job.grid.timers.map (timerSee c n o e.last) } := by
  simp only [feedPut, h]
  rfl

/-! ### The matrix engine's inputs, R27, R45, R54 -/

/-- The local input queue of an operand: CUA, or CUB. -/
abbrev operandKey (b : Bool) : Nat := locKey 0 (if b then 5 else 4)

theorem takesA_of_free {x : CellSt} {r : MatRec} (h : r.bHold = false) (b : Bool) : takesA x r b = !b := by simp [takesA, h]

theorem takesA_of_panel {x : CellSt} {r : MatRec} {b : Bool} (h : r.bHold = true) (hp : x.panel.isSome = true) (hs : x.side = b) :
    takesA x r b = true := by simp [takesA, h, hp, hs]

theorem takesA_of_no_panel {x : CellSt} {r : MatRec} (h : r.bHold = true) (hp : x.panel = none) (b : Bool) : takesA x r b = false := by
  simp [takesA, h, hp]

theorem operandTake_stays {s : State} {c : Nat} {b : Bool} (h : canTake (getCell s c) (matRec (getRec s c).mat) b = false) :
    operandTake s c b = s := by
  simp [operandTake, h]

section
variable {s : State} {c : Nat} {e : Entry} {rest : List Entry} (hr : jobRuns s = true) (hd : (getCell s c).done.length < 2)
  (hen : (matRec (getRec s c).mat).enable = true)
include hr hd hen

theorem operandTake_takesA {b : Bool} (hop : (matRec (getRec s c).mat).op ≠ 1) (he : getQ (getCell s c) (operandKey b) = e :: rest)
    (ht : takesA (getCell s c) (matRec (getRec s c).mat) b = true)
    (need : (getCell s c).takenA.length < matNeedA (matRec (getRec s c).mat)) :
    operandTake s c b = setCell s c { getCell s c with
      q := Tbl.set [] (getCell s c).q (operandKey b) rest
      takenA := (getCell s c).takenA ++ [e.data]
      side := (matRec (getRec s c).mat).bHold && !(getCell s c).side } := by
  have can : canTake (getCell s c) (matRec (getRec s c).mat) b = true := by simp [canTake, hen, hd, he, hop, ht, need]
  simp [operandTake, hr, can, hop, he, ht, setQ]

theorem operandTake_takesB (hop : (matRec (getRec s c).mat).op ≠ 1) (he : getQ (getCell s c) (locKey 0 5) = e :: rest)
    (ht : (matRec (getRec s c).mat).bHold = false ∨ (getCell s c).panel = none)
    (need : (getCell s c).takenB.length < matNeedB (matRec (getRec s c).mat)) :
    operandTake s c true = setCell s c { getCell s c with
      q := Tbl.set [] (getCell s c).q (locKey 0 5) rest, takenB := (getCell s c).takenB ++ [e.data] } := by
  have notA : takesA (getCell s c) (matRec (getRec s c).mat) true = false := by
    cases hh : (matRec (getRec s c).mat).bHold with
    | false => exact takesA_of_free hh true
    | true => exact takesA_of_no_panel hh (ht.resolve_left (by simp [hh])) true
  have free : (!(matRec (getRec s c).mat).bHold || (getCell s c).panel.isNone) = true := by
    rcases ht with h | h <;> simp [h]
  have can : canTake (getCell s c) (matRec (getRec s c).mat) true = true := by simp [canTake, hen, hd, he, hop, notA, free, need]
  simp [operandTake, hr, can, hop, he, notA, setQ]

theorem operandTake_combines {f : Entry} {more : List Entry} (b : Bool) (hop : (matRec (getRec s c).mat).op = 1)
    (he : getQ (getCell s c) (locKey 0 4) = e :: rest) (hf : getQ (getCell s c) (locKey 0 5) = f :: more)
    (need : (getCell s c).takenA.length < matNeedA (matRec (getRec s c).mat)) :
    operandTake s c b = setCell s c { getCell s c with
      q := Tbl.set [] (Tbl.set [] (getCell s c).q (locKey 0 4) rest) (locKey 0 5) more
      takenA := (getCell s c).takenA ++ [e.data], takenB := (getCell s c).takenB ++ [f.data] } := by
  have can : canTake (getCell s c) (matRec (getRec s c).mat) b = true := by
    cases b <;> simp [canTake, hen, hd, he, hf, hop, need]
  simp [operandTake, hr, can, hop, combineTake, he, hf, setQ]

end

/-- R54: COMBINE takes nothing while one of its inputs is empty. -/
theorem canTake_combine_of_empty {x : CellSt} {r : MatRec} (hop : r.op = 1)
    (h : getQ x (locKey 0 4) = [] ∨ getQ x (locKey 0 5) = []) (b : Bool) : canTake x r b = false := by
  rcases h with h | h <;> cases b <;> simp [canTake, hop, h]

/-- R45: under B_HOLD operand A waits for the panel. -/
theorem canTake_hold_of_no_panel {x : CellSt} {r : MatRec} (hop : r.op ≠ 1) (hh : r.bHold = true) (hp : x.panel = none) :
    canTake x r false = false := by
  simp [canTake, takesA_of_no_panel hh hp, hop]

/-! ### The obligations -/

/-- Settles O45: the entry is queued, and the record and the fault of `unrouted` follow; once queued it never leaves. -/
theorem unroutedEntryFaults : Obligations.UnroutedEntryFaults := by
  intro s c net port e rest hr hw hst x k hfeeds
  refine ⟨fun he hq => ⟨_, exec_linkEntryReceive .., ?_⟩, fun _ => ends_eq ?_⟩
  · rw [linkReceive_unrouted hr hw he hq hfeeds]
    exact ⟨unrouted_job (by exact hst) .., unrouted_jobc (by exact hst) .., unrouted_recs_grid (by exact hst) ..⟩
  · rw [exec_creditReturn_switchInput, queueRelease_unrouted hfeeds]

/-- Settles O44: the two outcomes of `queueRelease` for a head that feeds something. -/
theorem fanOut : Obligations.FanOut := by
  intro s c net port e rest hr hw x k fs he hf
  refine ⟨fun room => ends_eq ?_, fun full => ends_eq ?_⟩
  · rw [exec_creditReturn_switchInput, queueRelease_sends hr hw he hf room]
    rfl
  · rw [exec_creditReturn_switchInput, queueRelease_held full]

/-- Settles O43: each clause is one outcome of the link, of the switch input queue, or of the matrix engine's inputs. -/
theorem switches : Obligations.Switches := by
  intro s c net port e rest hr hw g x n k fs r
  refine ⟨fun he hq hf => ends_eq ?_, fun he hq hf hst => ⟨_, exec_linkEntryReceive .., ?_⟩,
    fun he hq hk ht => ⟨_, exec_linkEntryReceive .., ?_⟩, fun _ hq => ends_eq ?_, fun o d i he hf hn hc => ends_eq ?_,
    fun _ full => ends_eq ?_, fun he hen hop need hd => ⟨fun hh => ends_eq ?_, fun hh hp hs => ends_eq ?_, fun hh hp => ends_eq ?_⟩,
    fun he hen hop hd => ⟨fun hh need => ends_eq ?_, fun hh hp hs need => ends_eq ?_⟩,
    fun f more he hf hen hop need hd => ⟨ends_eq ?_, ends_eq ?_⟩, fun hop h => ends_eq ?_⟩
  · rw [exec_linkEntryReceive, linkReceive_queues hr hw he hq hf]
    rfl
  · rw [linkReceive_unrouted hr hw he hq hf]
    exact unrouted_jobc (by exact hst) ..
  · obtain ⟨hjobc, hjob⟩ := linkReceive_uncorrectable_stops hr hw he hq hk ht
    refine ⟨?_, getCell_congr hjob c⟩
    rw [hjobc]
    cases net <;> rfl
  · rw [exec_linkEntryReceive, linkReceive_full _ hq]
  · have only : feeds (getRec s c) (netNo net) port = [.out o] := hf
    have room : ∀ f ∈ feeds (getRec s c) (netNo net) port, feedRoom s c (netNo net) f = true := by simpa [only, feedRoom] using hc
    rw [exec_creditReturn_switchInput, queueRelease_sends hr hw he (ne_of_eq_of_ne only nofun) room, only]
    dsimp only [feedAll, List.foldl_cons, List.foldl_nil]
    rw [feedPut_out hn]
    rfl
  · rw [exec_creditReturn_switchInput, queueRelease_held full]
  · rw [exec_creditReturn_operandA, operandTake_takesA (b := false) hr hd hen hop he (takesA_of_free hh _) need, hh]
    rfl
  · rw [exec_creditReturn_operandA, operandTake_takesA (b := false) hr hd hen hop he (takesA_of_panel hh hp hs) need, hh, hs]
    rfl
  · rw [exec_creditReturn_operandA, operandTake_stays (canTake_hold_of_no_panel hop hh hp)]
  · rw [exec_creditReturn_operandB, operandTake_takesB hr hd hen hop he hh need]
  · rw [exec_creditReturn_operandB, operandTake_takesA (b := true) hr hd hen hop he (takesA_of_panel hh hp hs) need, hh, hs]
    rfl
  · rw [exec_creditReturn_operandA, operandTake_combines hr hd hen false hop he hf need]
  · rw [exec_creditReturn_operandB, operandTake_combines hr hd hen true hop he hf need]
  · rw [exec_creditReturn_operandA, operandTake_stays (canTake_combine_of_empty hop h false)]

end Sys2Proof.Machine
end

section
/-! PROOF. The beat timers (R33 to R35): when a beat is late, ends, overruns and hangs, and O46. -/

namespace Sys2Proof.Machine

theorem exec_beatBegin (i : Fin 8) (s : State) : exec (.beatBegin i) s = .next (beatStart s i) := rfl

theorem exec_beatEnd (i : Fin 8) (s : State) : exec (.beatEnd i) s = .next (overrunCharged s (beatEnd s i) i) := rfl

theorem exec_beatOverrun (i : Fin 8) (s : State) : exec (.beatOverrun i) s = .next (overrunCharged s (beatOverrun s i) i) := rfl

theorem exec_gridHang (i : Fin 8) (s : State) : exec (.gridHang i) s = .next (gridHang s i) := rfl

/-! ### Timers, and what an overrun is charged -/

theorem getTimer_setTimer {s : State} {i : Nat} {v : Timer} (h : i < s.job.grid.timers.length) : getTimer (setTimer s i v) i = v := by
  simp [getTimer, setTimer, setGrid, nth, h]

theorem overrunCharged_of_le {s t : State} {i : Nat} (h : (getTimer t i).overruns ≤ (getTimer s i).overruns) : overrunCharged s t i = t :=
  if_neg (by omega)

theorem overrunCharged_setTimer {s : State} {i : Nat} {v : Timer} (hi : i < s.job.grid.timers.length)
    (hv : v.overruns = (getTimer s i).overruns) : overrunCharged s (setTimer s i v) i = setTimer s i v :=
  overrunCharged_of_le (by rw [getTimer_setTimer hi, hv])

theorem overrunCharged_of_lt {s t : State} {i : Nat} (h : (getTimer s i).overruns < (getTimer t i).overruns) :
    overrunCharged s t i = chargeOverrun t := if_pos h

theorem noteAdm_job (s : State) (code : Status) (v k : Nat) : (noteAdm s code v k).job = s.job := recIrq_job ..

theorem chargeOverrun_job (s : State) : (chargeOverrun s).job = s.job := by
  unfold chargeOverrun
  dsimp only
  rw [foldl_keeps State.job (fun _ _ => noteAdm_job ..), setAdm_job]

theorem overrunCharged_job (s t : State) (i : Nat) : (overrunCharged s t i).job = t.job := by
  unfold overrunCharged
  split
  · exact chargeOverrun_job t
  · rfl

theorem setGrid_setGrid (s : State) (g h : Grid) : setGrid (setGrid s g) h = setGrid s h := rfl

theorem setGrid_grid (s : State) (g : Grid) : (setGrid s g).job.grid = g := rfl

/-! ### The begin of a beat, R33 -/

theorem passBegins_timers (g : Grid) : (passBegins g).timers = g.timers := by
  unfold passBegins
  split <;> rfl

theorem beatBegin_begins {s : State} {i : Nat} (hr : jobRuns s = true) (ha : (getTimer s i).armed = true)
    (hn : (getTimer s i).running = false) (hs : (getTimer s i).srcSent = true) :
    beatBegin s i = setTimer (setGrid s (passBegins s.job.grid)) i { getTimer s i with
      running := true, start := s.now, overrun := false, replay := decide ((getTimer s i).begun < (getTimer s i).top), srcSent := false
      begun := (getTimer s i).begun + 1, top := max (getTimer s i).top ((getTimer s i).begun + 1) } := by
  simp [beatBegin, hr, ha, hn, hs]

theorem beatBegin_stays {s : State} {i : Nat} (hs : (getTimer s i).srcSent = false) : beatBegin s i = s := by
  simp [beatBegin, hs]

theorem schedBeat_of_stopped {s : State} (h : s.job.sched.running = false) (i : Nat) : schedBeat s i = s := by
  simp [schedBeat, h]

/-- R179: a beat that begins while no schedule runs issues nothing. -/
theorem beatStart_of_no_sched {s : State} {i : Nat} (hn : (getTimer s i).running = false) (h : (beatBegin s i).job.sched.running = false) :
    beatStart s i = beatBegin s i := by
  simp [beatStart, hn, schedBeat_of_stopped h]

theorem beatStart_stays {s : State} {i : Nat} (hn : (getTimer s i).running = false) (hs : (getTimer s i).srcSent = false) :
    beatStart s i = s := by
  simp [beatStart, hn, beatBegin_stays hs]

/-! ### The compiled length, R34 -/

/-- R34: a beat of an old configuration that has run past its compiled length and has not been recorded. -/
def oldBeatLate (now : Nat) (b : OldBeat) : Bool := !b.overrun && decide (bits b.cfg.toNat 32 15 < now - b.start)

theorem oldBeatLate_of_le {now : Nat} {b : OldBeat} (h : now - b.start ≤ bits b.cfg.toNat 32 15) : oldBeatLate now b = false := by
  simp only [oldBeatLate, decide_eq_false (Nat.not_lt.2 h), Bool.and_false]

/-- R34: the beat of the timer's entry has run past its compiled length and has not been recorded. -/
def beatLate (now : Nat) (x : Timer) : Bool := x.running && !x.overrun && decide (timerLength x < now - x.start)

theorem beatLate_of_overrun {now : Nat} {x : Timer} (hn : x.running = true) (ho : x.overrun = false) (h : timerLength x < now - x.start) :
    beatLate now x = true := by
  simp [beatLate, hn, ho, h]

theorem not_beatLate_of_le {now : Nat} {x : Timer} (h : now - x.start ≤ timerLength x) : beatLate now x = false := by
  simp only [beatLate, decide_eq_false (Nat.not_lt.2 h), Bool.and_false]

theorem not_beatLate_of_stopped {now : Nat} {x : Timer} (h : x.running = false) : beatLate now x = false := by simp [beatLate, h]

/-- R34: the timer whose late old beats are recorded. -/
def oldRecorded (now : Nat) (x : Timer) : Timer :=
  { x with
    old := x.old.map fun b => if oldBeatLate now b then { b with overrun := true } else b
    overruns := x.overruns + (x.old.filter (oldBeatLate now)).length }

theorem beatOverrun_eq {s : State} {i : Nat} (hr : jobRuns s = true) : beatOverrun s i =
    let y := oldRecorded s.now (getTimer s i)
    if beatLate s.now (getTimer s i) then setTimer s i { y with overrun := true, overruns := y.overruns + 1 }
    else if ((getTimer s i).old.filter (oldBeatLate s.now)).length = 0 then s else setTimer s i y := by
  simp only [beatOverrun, hr, Bool.not_true, Bool.false_eq_true, if_false]
  rfl

theorem beatOverrun_in_time {s : State} {i : Nat} (hr : jobRuns s = true) (ht : beatLate s.now (getTimer s i) = false)
    (ho : ∀ b ∈ (getTimer s i).old, oldBeatLate s.now b = false) : beatOverrun s i = s := by
  have none : ((getTimer s i).old.filter (oldBeatLate s.now)).length = 0 := by
    simpa [List.filter_eq_nil_iff] using ho
  simp only [beatOverrun_eq hr, ht, none, Bool.false_eq_true, if_false, if_true]

theorem beatOverrun_late {s : State} {i : Nat} (hr : jobRuns s = true) (ht : beatLate s.now (getTimer s i) = true)
    (ho : (getTimer s i).old = []) :
    beatOverrun s i = setTimer s i { getTimer s i with overrun := true, overruns := (getTimer s i).overruns + 1 } := by
  simp [beatOverrun_eq hr, ht, oldRecorded, ho]

/-- What the recording of overruns leaves of a timer: whether its beat runs, and which beats have ended. -/
theorem beatOverrun_keeps {s : State} {i : Nat} (hr : jobRuns s = true) (hi : i < s.job.grid.timers.length) :
    (beatOverrun s i).job.grid.cells = s.job.grid.cells ∧
    (getTimer (beatOverrun s i) i).running = (getTimer s i).running ∧
    (getTimer (beatOverrun s i) i).sinkLast = (getTimer s i).sinkLast ∧
    (getTimer (beatOverrun s i) i).old.map OldBeat.sinkLast = (getTimer s i).old.map OldBeat.sinkLast := by
  have marks : (oldRecorded s.now (getTimer s i)).old.map OldBeat.sinkLast = (getTimer s i).old.map OldBeat.sinkLast := by
    rw [oldRecorded, List.map_map]
    refine List.map_congr_left fun b _ => ?_
    dsimp only [Function.comp_apply]
    split <;> rfl
  rw [beatOverrun_eq hr]
  dsimp only
  split
  · rw [getTimer_setTimer hi]
    exact ⟨rfl, rfl, rfl, marks⟩
  · split
    · exact ⟨rfl, rfl, rfl, rfl⟩
    · rw [getTimer_setTimer hi]
      exact ⟨rfl, rfl, rfl, marks⟩

/-! ### The end of a beat, R33, R36 -/

/-- R33, R36: the timer whose beat has ended after `d` planning periods. -/
def timerEnded (x : Timer) (d : Nat) : Timer :=
  { beatDone x d with
    running := false, overrun := false, replay := false, sinkLast := false, disarm := false
    armed := x.armed && !x.disarm, cfg := if x.disarm then 0 else x.cfg }

theorem timerEnded_of_armed {x : Timer} (h : x.disarm = false) (d : Nat) : timerEnded x d =
    { x with
      running := false, overrun := false, replay := false, sinkLast := false
      last := d, max := Nat.max x.max d, beats := x.beats + 1 } := by
  simp [timerEnded, beatDone, h]

theorem timerEnded_of_disarmed {x : Timer} (h : x.disarm = true) (d : Nat) : timerEnded x d =
    { x with
      running := false, overrun := false, replay := false, sinkLast := false
      last := d, max := Nat.max x.max d, beats := x.beats + 1, disarm := false, armed := false, cfg := 0 } := by
  simp [timerEnded, beatDone, h]

theorem beatEnd_ends {s : State} {i : Nat} (hr : jobRuns s = true) (ht : beatOverrun s i = s) (ho : (getTimer s i).old = [])
    (hn : (getTimer s i).running = true) (hs : (getTimer s i).sinkLast = true) :
    beatEnd s i = setTimer s i (timerEnded (getTimer s i) (s.now - (getTimer s i).start)) := by
  simp [beatEnd, timerEnded, ht, hr, ho, hn, hs]

theorem beatEnd_ends_old {s : State} {i : Nat} {b : OldBeat} (hr : jobRuns s = true) (ht : beatOverrun s i = s)
    (ho : (getTimer s i).old = [b]) (hs : b.sinkLast = true) :
    beatEnd s i = setTimer s i { beatDone (getTimer s i) (s.now - b.start) with old := [] } := by
  simp [beatEnd, ht, hr, ho, hs]

theorem beatEnd_of_unended {s : State} {i : Nat} (hr : jobRuns s = true) (hi : i < s.job.grid.timers.length)
    (hs : (getTimer s i).sinkLast = false) (ho : ∀ b ∈ (getTimer s i).old, b.sinkLast = false) : beatEnd s i = beatOverrun s i := by
  obtain ⟨-, -, hsink, hold⟩ := beatOverrun_keeps hr hi
  have unended : ∀ v ∈ (getTimer (beatOverrun s i) i).old.map OldBeat.sinkLast, v = false := by
    rw [hold]
    exact List.forall_mem_map.2 ho
  have none : (getTimer (beatOverrun s i) i).old.find? (fun b => b.sinkLast) = none := by simpa using unended
  simp [beatEnd, none, hsink, hs]

/-! ### The hang limit, R35 -/

/-- R35: of two waiting heads the one that has waited longer; the first of two that came together. -/
def longerWait (best : Option (Nat × Nat × Nat)) (h : Nat × Nat × Nat) : Option (Nat × Nat × Nat) :=
  match best with
  | none => some h
  | some b => if h.2.2 < b.2.2 then some h else some b

theorem stallRoot_eq (s : State) : stallRoot s = (waitingHeads s).foldl longerWait none := by
  unfold stallRoot
  congr
  funext best h
  cases best with
  | none => rfl
  | some b => rfl

theorem foldl_longerWait_le {l : List (Nat × Nat × Nat)} {b r : Nat × Nat × Nat} (h : l.foldl longerWait (some b) = some r) :
    r.2.2 ≤ b.2.2 ∧ ∀ g ∈ l, r.2.2 ≤ g.2.2 := by
  induction l generalizing b with
  | nil =>
    obtain rfl : b = r := by simpa using h
    simp
  | cons g l ih =>
    simp only [List.foldl_cons, longerWait] at h
    split at h
    · next hlt =>
      obtain ⟨hg, hl⟩ := ih h
      exact ⟨by omega, by simpa [hg] using hl⟩
    · next hge =>
      obtain ⟨hb, hl⟩ := ih h
      exact ⟨hb, List.forall_mem_cons.2 ⟨by omega, hl⟩⟩

/-- R35: no head has waited longer than the stall root. -/
theorem stallRoot_le {s : State} {r : Nat × Nat × Nat} (h : stallRoot s = some r) : ∀ g ∈ waitingHeads s, r.2.2 ≤ g.2.2 := by
  rw [stallRoot_eq] at h
  cases heads : waitingHeads s with
  | nil => simp
  | cons b l =>
    rw [heads] at h
    exact List.forall_mem_cons.2 (foldl_longerWait_le h)

theorem beatHangs_of_limit {s : State} {x : Timer} (hn : x.running = true) (hs : x.sinkLast = false)
    (h : s.limits.hangUs * us ≤ s.now - x.start) : beatHangs s x = true := by
  simp [beatHangs, hn, hs, h]

theorem gridHang_at_root {s : State} {i c k since : Nat} (hr : jobRuns s = true) (hh : beatHangs s (getTimer s i) = true)
    (h : stallRoot s = some (c, k, since)) :
    gridHang s i = unitFault (noteGrid s Code.gridHang c (punit s c false) (k / 8) (k % 8)) c Code.gridHang false false := by
  simp [gridHang, hr, hh, h]

/-- R35, R405: a hang with no checkpoint stops the job, and its record names the stall root. -/
theorem gridHang_stops {s : State} {i c k since : Nat} (hr : jobRuns s = true) (hh : beatHangs s (getTimer s i) = true)
    (h : stallRoot s = some (c, k, since)) (hv : s.recs.grid.valid = false) (hk : s.job.ckpt = none) (ht : s.ras.testing = false) :
    (gridHang s i).jobc = { s.jobc with st := 2, fault := 0x0202 } ∧
    (gridHang s i).recs.grid.reg = BitVec.ofNat 64
      (0x0202 + 2 ^ 16 + (2 ^ 17 * c + 2 ^ 26 * punit s c false + 2 ^ 37 * (k / 8) + 2 ^ 39 * (k % 8))) := by
  obtain ⟨hjobc, -, hgrid⟩ := unitFault_stops (s := noteGrid s Code.gridHang c (punit s c false) (k / 8) (k % 8))
    (by simpa using jobRuns_st hr) (by simpa using hk) (by simpa using ht) c Code.gridHang false false []
  rw [gridHang_at_root hr hh h, hjobc, hgrid (noteGrid_valid ..), noteGrid_jobc, noteGrid_recs_grid, recNote_of_free hv]
  exact ⟨rfl, rfl⟩

/-! ### The obligation -/

/-- Settles O46: each clause is one outcome of a beat timer; an end and an overrun count what `overrunCharged` compares. -/
theorem beats : Obligations.Beats := by
  intro s i hr hl x set d w
  have hi : i.val < s.job.grid.timers.length := by omega
  have inTime (hd : d ≤ w) (ho : x.old = []) : beatOverrun s i = s :=
    beatOverrun_in_time hr (not_beatLate_of_le hd) (by simp [show (getTimer s i).old = [] from ho])
  refine ⟨fun ha hn hs hsched => ends_eq ?_, fun hn hs => ends_eq ?_, fun hn hs hd ho hdis => ends_eq ?_,
    fun hn hs hd ho hdis => ends_eq ?_, fun b ho hs hn hd => ends_eq ?_, fun hn hs ho => ⟨_, exec_beatEnd .., ?_⟩,
    fun hn hov hd ho => ends_eq ?_, fun hd ho => ends_eq ?_, fun c k since hn hs hd hroot hv hk ht => ⟨_, exec_gridHang .., ?_⟩⟩
  · have begins := beatBegin_begins hr ha hn hs
    rw [exec_beatBegin, beatStart_of_no_sched hn (by rw [begins]; exact hsched), begins, setTimer]
    simp only [setGrid_setGrid, setGrid_grid, passBegins_timers]
    rfl
  · rw [exec_beatBegin, beatStart_stays hn hs]
  · rw [exec_beatEnd, beatEnd_ends hr (inTime hd ho) ho hn hs, overrunCharged_setTimer hi (by rfl),
      timerEnded_of_armed (x := getTimer s i) hdis]
    rfl
  · rw [exec_beatEnd, beatEnd_ends hr (inTime hd ho) ho hn hs, overrunCharged_setTimer hi (by rfl),
      timerEnded_of_disarmed (x := getTimer s i) hdis]
    rfl
  · have inTime : beatOverrun s i = s := beatOverrun_in_time hr (not_beatLate_of_stopped hn)
      (by simp [show (getTimer s i).old = [b] from ho, oldBeatLate_of_le hd])
    rw [exec_beatEnd, beatEnd_ends_old hr inTime ho hs, overrunCharged_setTimer hi (by rfl)]
    rfl
  · obtain ⟨hcells, hrun, -, -⟩ := beatOverrun_keeps hr hi
    rw [beatEnd_of_unended hr hi hs ho, getTimer, overrunCharged_job]
    exact ⟨hcells, hrun.trans hn⟩
  · rw [exec_beatOverrun, beatOverrun_late hr (beatLate_of_overrun hn hov hd) ho,
      overrunCharged_of_lt (by rw [getTimer_setTimer hi]; exact Nat.lt_succ_self _)]
    rfl
  · rw [exec_beatOverrun, inTime hd ho, overrunCharged_of_le le_rfl]
  · obtain ⟨hjobc, hreg⟩ := gridHang_stops hr (beatHangs_of_limit hn hs hd) hroot hv hk ht
    refine ⟨hjobc, ?_, stallRoot_le hroot⟩
    rw [hreg]
    simp only [Nat.add_assoc]

end Sys2Proof.Machine
end

section
/-! PROOF. What UNIT_FAULT records of a unit fault that stops the job (R403, R405). -/

namespace Sys2Proof.Machine

theorem failPair_recs_unit (s : State) (c u : Nat) : (failPair s c u).recs.unit = s.recs.unit := by simp [failPair, noteGrid]

theorem spare_recs_unit (s : State) (c u : Nat) (code : Status) (injected held : Bool) :
    (if injected then s else if held then shiftPair s c code else failPair s c u).recs.unit = s.recs.unit := by
  cases injected with
  | true => rfl
  | false =>
    cases held with
    | true => rfl
    | false => exact failPair_recs_unit s c u

theorem noteUnit_detail_of_free {s : State} (h : s.recs.unit.valid = false) (code : Status) (c u why : Nat) (i m : Bool) (lost : Nat)
    (d : List Nat) : (noteUnit s code c u why i m lost d).recs.unit.detail = d := by
  simp [noteUnit, recNote_of_free h]

/-- R403: a unit fault that stops the running job records what its rule names. -/
theorem unitFault_detail {s : State} (hr : s.jobc.st = 1) (hk : s.job.ckpt = none) (ht : s.ras.testing = false)
    (hv : s.recs.unit.valid = false) (c : Nat) (code : Status) (inMu injected : Bool) (d : List Nat) :
    (unitFault s c code inMu injected d).recs.unit.detail = d := by
  have why := replayReason_ne_zero hk (nth {} s.dies (dieOf c)).held
  simp only [unitFault, ht, Bool.false_and, Bool.false_eq_true, if_false, unitFaultNow, hr, beq_self_eq_true, Bool.true_or, Bool.not_true]
  rw [if_pos (by simpa using why), raiseJobFault_recs ?running]
  · refine noteUnit_detail_of_free ?_ ..
    rw [spare_recs_unit]
    exact hv
  case running =>
    rw [((beforeFault_spare ..).trans (beforeFault_noteUnit ..)).jobc]
    exact hr

end Sys2Proof.Machine
end

section
/-! PROOF. The matrix engine (R40, R45, R57 to R64): what a tile's completion, a drain and the load of a panel do, one lemma for each
outcome. -/

namespace Sys2Proof.Machine

theorem exec_matrixTileComplete (c : Cell) (i : Fin 4096) (d : Int) (s : State) :
    exec (.matrixTileComplete c i d) s = .next (tileComplete s c i d) := rfl

theorem exec_tileDrain (c : Cell) (s : State) : exec (.tileDrain c) s = .next (tileDrain s c) := rfl

theorem exec_bPanelLoad (c : Cell) (s : State) : exec (.bPanelLoad c) s = .next (bPanelLoad s c) := rfl

/-! ### Tiles, R40, R45, R57 to R62 -/

/-- R40, R57: the tile that the operands taken at cell `c` make, with the upset `d` of element `i`. -/
abbrev tileMade (s : State) (c i : Nat) (d : Int) : MTile :=
  let r := matRec (getRec s c).mat
  let ops := tileOperands (getCell s c) r
  matUpset (matTile r ops.1 ops.2) i d

theorem tileReady_iff {x : CellSt} {r : MatRec} : tileReady x r = true ↔
    r.enable = true ∧ x.takenA.length = matNeedA r ∧ (if r.bHold then x.panel ≠ none else x.takenB.length = matNeedB r) ∧
      x.done.length < 2 := by
  cases hold : r.bHold <;> simp [tileReady, hold, and_assoc, Option.isSome_iff_ne_none]

theorem tileReady_of_missing {x : CellSt} {r : MatRec} (h : x.takenA.length < matNeedA r) : tileReady x r = false := by
  simp [tileReady, h.ne]

theorem tileAdd_persistent {x : CellSt} {r : MatRec} (h : r.tileCount = 0) (t : MTile) :
    tileAdd x r t = { x with takenA := [], takenB := [], done := x.done ++ [t], mtile := x.mtile + 1 } := by
  simp [tileAdd, tileNext, h]

/-- R45: the final tile of a pass lets the panel go. -/
theorem tileAdd_final {x : CellSt} {r : MatRec} (h : r.tileCount = x.mtile + 1) (t : MTile) :
    tileAdd x r t =
      { x with takenA := [], takenB := [], done := x.done ++ [t], mtile := 0, panel := none, side := false } := by
  simp [tileAdd, tileNext, h]

theorem tileComplete_stays {s : State} {c : Nat} (h : tileReady (getCell s c) (matRec (getRec s c).mat) = false) (i : Nat) (d : Int) :
    tileComplete s c i d = s := by
  simp [tileComplete, h]

section
variable {s : State} {c i : Nat} {d : Int} (hr : jobRuns s = true) (ready : tileReady (getCell s c) (matRec (getRec s c).mat) = true)
include hr ready

theorem tileComplete_ready : tileComplete s c i d =
    let x := getCell s c
    let t := tileMade s c i d
    if matResidueBad t d then unitFault s c Code.residueMismatch false false [x.mtile, matFirstBad t i]
    else if matSat t then
      raiseJobFault (noteGrid s Code.exaSaturated c (punit s c false) 0 0 [x.mtile, matFirstSat t]) Code.exaSaturated
    else setCell s c (tileAdd x (matRec (getRec s c).mat) t) := by
  simp only [tileComplete, hr, ready, Bool.not_true, Bool.or_false, Bool.false_eq_true, if_false]

theorem tileComplete_releases (good : matResidueBad (tileMade s c i d) d = false) (fits : matSat (tileMade s c i d) = false) :
    tileComplete s c i d = setCell s c (tileAdd (getCell s c) (matRec (getRec s c).mat) (tileMade s c i d)) := by
  simp only [tileComplete_ready hr ready, good, fits, Bool.false_eq_true, if_false]

/-- R59: a tile that fails its check stays in the array. -/
theorem tileComplete_fails (bad : matResidueBad (tileMade s c i d) d = true) (hk : s.job.ckpt = none) (ht : s.ras.testing = false) :
    (tileComplete s c i d).jobc = { s.jobc with st := 2, fault := 0x0207 } ∧ getCell (tileComplete s c i d) c = getCell s c ∧
    (s.recs.unit.valid = false →
      (tileComplete s c i d).recs.unit.detail = [(getCell s c).mtile, matFirstBad (tileMade s c i d) i]) := by
  simp only [tileComplete_ready hr ready, bad, if_true]
  obtain ⟨hjobc, hjob, -⟩ := unitFault_stops (jobRuns_st hr) hk ht c Code.residueMismatch false false _
  exact ⟨hjobc, getCell_congr hjob c, fun hv => unitFault_detail (jobRuns_st hr) hk ht hv ..⟩

/-- R62: a tile with a saturated sum stays in the array. -/
theorem tileComplete_saturates (good : matResidueBad (tileMade s c i d) d = false) (sat : matSat (tileMade s c i d) = true) :
    (tileComplete s c i d).jobc = { s.jobc with st := 2, fault := 0x0208 } ∧ getCell (tileComplete s c i d) c = getCell s c ∧
    (s.recs.grid.valid = false →
      (tileComplete s c i d).recs.grid.detail = [(getCell s c).mtile, matFirstSat (tileMade s c i d)]) := by
  simp only [tileComplete_ready hr ready, good, sat, Bool.false_eq_true, if_false, if_true]
  have running : (noteGrid s Code.exaSaturated c (punit s c false) 0 0
      [(getCell s c).mtile, matFirstSat (tileMade s c i d)]).jobc.st = 1 := by simpa using jobRuns_st hr
  refine ⟨?_, getCell_congr ((raiseJobFault_job running _).trans (noteGrid_job ..)) c, fun hv => ?_⟩
  · rw [raiseJobFault_jobc running, noteGrid_jobc]
    rfl
  · rw [raiseJobFault_recs running, noteGrid_recs_grid, recNote_of_free hv]

end

/-! ### Drains, R50, R55, R64 -/

theorem plainEntries_eq_zipIdx (es : List Nat) : plainEntries es = es.zipIdx.map fun p => ⟨BitVec.ofNat 512 p.1, false⟩ := by
  conv_lhs => rw [plainEntries, ← List.zipIdx_map_fst 0 es, List.map_map]
  rfl

section
variable {s : State} {c : Nat} {t : MTile} {rest : List MTile} (hr : jobRuns s = true) (hd : (getCell s c).done = t :: rest)
  (hen : (matRec (getRec s c).mat).enable = true)
include hr hd hen

theorem tileDrain_queues (ho : (matRec (getRec s c).mat).outMode = 0) (room : (getCell s c).vec.ftq.length < 8) :
    tileDrain s c = setCell s c { getCell s c with
      done := rest, drained := tileNext (matRec (getRec s c).mat).tileCount (getCell s c).drained
      vec := { (getCell s c).vec with ftq := (getCell s c).vec.ftq ++ [matTileF32 (matRec (getRec s c).mat) t] } } := by
  simp [tileDrain, hd, hr, hen, ho, room]

theorem tileDrain_sends (ho : (matRec (getRec s c).mat).outMode ≠ 0) (hw : getWire (getCell s c) (inKey 0 4) = []) :
    tileDrain s c =
      let r := matRec (getRec s c).mat
      let es := matEntries r t
      let lastTile := r.tileCount != 0 && (getCell s c).drained + 1 == r.tileCount
      unitSend (setCell s c { getCell s c with done := rest, drained := tileNext r.tileCount (getCell s c).drained }) c 0 4
        (es.zipIdx.map fun p => ⟨BitVec.ofNat 512 p.1, lastTile && p.2 + 1 == es.length⟩) := by
  simp [tileDrain, hd, hr, hen, ho, hw]

theorem tileDrain_sends_persistent (ho : (matRec (getRec s c).mat).outMode ≠ 0) (hw : getWire (getCell s c) (inKey 0 4) = [])
    (hn : (matRec (getRec s c).mat).tileCount = 0) :
    tileDrain s c = unitSend (setCell s c { getCell s c with done := rest, drained := (getCell s c).drained + 1 }) c 0 4
      (plainEntries (matEntries (matRec (getRec s c).mat) t)) := by
  simp [tileDrain_sends hr hd hen ho hw, hn, tileNext, plainEntries_eq_zipIdx]

theorem tileDrain_sends_final (ho : (matRec (getRec s c).mat).outMode ≠ 0) (hw : getWire (getCell s c) (inKey 0 4) = [])
    (hn : (matRec (getRec s c).mat).tileCount = (getCell s c).drained + 1) :
    tileDrain s c = unitSend (setCell s c { getCell s c with done := rest, drained := 0 }) c 0 4
      (lastEntries (matEntries (matRec (getRec s c).mat) t)) := by
  simp [tileDrain_sends hr hd hen ho hw, hn, tileNext, lastEntries]

end

theorem bPanelLoad_holds {s : State} {c : Nat} (hr : jobRuns s = true) (hen : (matRec (getRec s c).mat).enable = true)
    (hh : (matRec (getRec s c).mat).bHold = true) (hp : (getCell s c).panel = none)
    (need : (getCell s c).takenB.length = matNeedB (matRec (getRec s c).mat)) :
    bPanelLoad s c = setCell s c { getCell s c with panel := some (getCell s c).takenB, takenB := [], side := false } := by
  simp [bPanelLoad, hr, hen, hh, hp, need]

end Sys2Proof.Machine
end

section
/-! PROOF. The vector pipeline (R67 to R74, R84, R86): what the entry of a row and the tile-end commit do, one lemma for each outcome,
and O47. -/

namespace Sys2Proof.Machine

theorem exec_vectorRowEnter (c : Cell) (check : VecCheck) (s : State) :
    exec (.vectorRowEnter c check) s = .next (vectorRowEnter s c check) := rfl

theorem exec_tileEndCommit (c : Cell) (check : VecCheck) (s : State) :
    exec (.tileEndCommit c check) s = .next (tileEndCommit s c check) := rfl

/-! ### One row -/

/-- R64: row `row` of the tile at the head of the finished-tile queue. -/
abbrev ftqRow (v : VecSt) : List F32 := ((v.ftq.headD []).drop (64 * v.row)).take 64

theorem takeScalars_of_taken {x : CellSt} (h : x.vec.taken = true) (r : VecRec) : takeScalars x r = x := by simp [takeScalars, h]

theorem takeRow_of_ftq {x : CellSt} {r : VecRec} (hs : r.src = 0) (hrow : x.vec.row ≠ 63) : takeRow x r = (ftqRow x.vec, x) := by
  simp only [takeRow, hs, if_true, Nat.reduceEqDiff, hrow, if_false]

theorem takeSide_of_unused {r : VecRec} (h : vecUsesSide r = false) (x : CellSt) : takeSide x r = (zeroRow, x) := by simp [takeSide, h]

/-- R68, R74, R81: cell `x` after its next row has passed the stages with result `o`; the sink gets no row that COMPRESS has removed. -/
def rowPassed (x : CellSt) (r : VecRec) (o : VecSt × Option (List F32)) : CellSt :=
  let y := { x with vec := { o.1 with row := x.vec.row + 1 } }
  match o.2 with
  | none => y
  | some out => sinkRow y r x.vec.row out

/-- R67, R72: a row of a tile that does not load a register passes the stages. -/
theorem rowEnter_passes {x : CellSt} {r : VecRec} (hl : vecLoading r x.vec = false) (hs : r.src = 0) (hrow : x.vec.row ≠ 63)
    (ht : x.vec.taken = true) (hside : vecUsesSide r = false) :
    rowEnter x r = rowPassed x r (vecRow r x.vec x.vec.row (ftqRow x.vec) zeroRow) := by
  simp only [rowEnter, hl, takeScalars_of_taken ht, takeRow_of_ftq hs hrow, takeSide_of_unused hside, Bool.false_eq_true, if_false]
  rfl

/-- R72: a row of the tile that LOAD_TREG takes is written to the register. -/
theorem rowEnter_loads {x : CellSt} {r : VecRec} (hl : vecLoading r x.vec = true) (hs : r.src = 0) (hrow : x.vec.row ≠ 63) :
    rowEnter x r = { x with vec := { x.vec with
      treg := Tbl.set zeroRow x.vec.treg (64 * r.loadTreg + x.vec.row) (ftqRow x.vec), row := x.vec.row + 1 } } := by
  simp only [rowEnter, hl, takeRow_of_ftq hs hrow, vecLoad, vecRows, hs, if_true, Nat.reduceEqDiff, hrow, if_false]

/-! ### VECTOR_ROW_ENTER -/

theorem rowsAtOnce_of_mode0 {r : VecRec} (h : r.mode1 = false) (v : VecSt) : rowsAtOnce r v = 1 := by simp [rowsAtOnce, h]

theorem vectorRowEnter_stays {s : State} {c : Nat} (h : rowReady (getCell s c) (vecRec (getRec s c).vec) = false) (check : VecCheck) :
    vectorRowEnter s c check = s := by
  simp [vectorRowEnter, h]

section
variable {s : State} {c : Nat} (hr : jobRuns s = true) (ready : rowReady (getCell s c) (vecRec (getRec s c).vec) = true)
include hr ready

theorem vectorRowEnter_clean : vectorRowEnter s c .clean =
    let x := getCell s c
    let r := vecRec (getRec s c).vec
    setCell s c (if rowsAtOnce r x.vec = 2 then rowEnter (rowEnter x r) r else rowEnter x r) := by
  simp [vectorRowEnter, hr, ready, vecCheck, countCorr]

theorem vectorRowEnter_single (hm : (vecRec (getRec s c).vec).mode1 = false) :
    vectorRowEnter s c .clean = setCell s c (rowEnter (getCell s c) (vecRec (getRec s c).vec)) := by
  simp [vectorRowEnter_clean hr ready, rowsAtOnce_of_mode0 hm]

theorem vectorRowEnter_pair (two : rowsAtOnce (vecRec (getRec s c).vec) (getCell s c).vec = 2) :
    vectorRowEnter s c .clean =
      setCell s c (rowEnter (rowEnter (getCell s c) (vecRec (getRec s c).vec)) (vecRec (getRec s c).vec)) := by
  simp [vectorRowEnter_clean hr ready, two]

theorem vectorRowEnter_uncorrectable (w : VecWord) : vectorRowEnter s c (.uncorrectable w) =
    unitFault s c Code.vecUncorrectable false false [w.place, w.row] := by
  simp [vectorRowEnter, hr, ready, vecCheck]

/-- R66, R405: a row whose word cannot be corrected does not enter; with no checkpoint the job stops. -/
theorem vectorRowEnter_uncorrectable_stops (w : VecWord) (hk : s.job.ckpt = none) (ht : s.ras.testing = false) :
    (vectorRowEnter s c (.uncorrectable w)).jobc = { s.jobc with st := 2, fault := 0x0209 } ∧
    getCell (vectorRowEnter s c (.uncorrectable w)) c = getCell s c ∧
    (s.recs.unit.valid = false → (vectorRowEnter s c (.uncorrectable w)).recs.unit.detail = [w.place.val, w.row.val]) := by
  rw [vectorRowEnter_uncorrectable hr ready]
  obtain ⟨hjobc, hjob, -⟩ := unitFault_stops (jobRuns_st hr) hk ht c Code.vecUncorrectable false false [w.place, w.row]
  exact ⟨hjobc, getCell_congr hjob c, fun hv => unitFault_detail (jobRuns_st hr) hk ht hv ..⟩

end

/-! ### TILE_END_COMMIT -/

theorem tileEndCommit_persistent {s : State} {c : Nat} (hr : jobRuns s = true) (hen : (vecRec (getRec s c).vec).enable = true)
    (hl : vecLoading (vecRec (getRec s c).vec) (getCell s c).vec = false)
    (hrow : (getCell s c).vec.row = vecRows (vecRec (getRec s c).vec)) (hn : (vecRec (getRec s c).vec).vtiles = 0)
    (room : (vecRec (getRec s c).vec).tokenOut = true → unitRoom (getCell s c) c 2 4 1 = true) :
    tileEndCommit s c .clean =
      let r := vecRec (getRec s c).vec
      let v := (getCell s c).vec
      let u := unitSend (unitSend (setCell s c { getCell s c with vec := vecCommit r v }) c 0 4 []) c 1 4 []
      if r.tokenOut then unitSend u c 2 4 [tokenEntry v.sent] else u := by
  have free : ((vecRec (getRec s c).vec).tokenOut && !unitRoom (getCell s c) c 2 4 1) = false := by
    cases h : (vecRec (getRec s c).vec).tokenOut with
    | false => rfl
    | true => simp [room h]
  simp [tileEndCommit, hr, hen, hl, hrow, hn, free, vecCheck, countCorr]

/-- R27, R85: a tile whose rows have not all entered, or whose token has no room, does not end. -/
theorem tileEndCommit_stays {s : State} {c : Nat}
    (h : (getCell s c).vec.row < vecRows (vecRec (getRec s c).vec) ∨
      (vecRec (getRec s c).vec).tokenOut = true ∧ unitRoom (getCell s c) c 2 4 1 = false) (check : VecCheck) :
    tileEndCommit s c check = s := by
  rcases h with hrow | ⟨hto, hroom⟩
  · simp [tileEndCommit, hrow.ne]
  · simp [tileEndCommit, hto, hroom]

/-! ### The obligation -/

/-- Settles O47: each clause is one outcome of a tile's completion, a drain, the load of a panel, the entry of a row or a tile's end. -/
theorem engines : Obligations.Engines := by
  constructor
  · intro s c i d hr x r b m
    refine ⟨fun hen hn hA hB hd good fits => ends_eq ?_, fun ready hn good fits => ends_eq ?_,
      fun ready bad hk ht => ⟨_, exec_matrixTileComplete .., tileComplete_fails hr ready bad hk ht⟩,
      fun ready good sat => ⟨_, exec_matrixTileComplete .., tileComplete_saturates hr ready good sat⟩,
      fun need => ends_eq ?_, fun y ys hd hen ho room => ends_eq ?_, fun y ys hd hen ho hw hn => ends_eq ?_,
      fun y ys hd hen ho hw hn => ends_eq ?_, fun hen hh hp need => ends_eq ?_⟩
    · have operands : if r.bHold then x.panel ≠ none else x.takenB.length = matNeedB r := by
        cases hold : r.bHold <;> simpa [b, hold] using hB
      rw [exec_matrixTileComplete, tileComplete_releases hr (tileReady_iff.2 ⟨hen, hA, operands, hd⟩) good fits,
        tileAdd_persistent hn]
      rfl
    · rw [exec_matrixTileComplete, tileComplete_releases hr ready good fits, tileAdd_final hn]
      rfl
    · rw [exec_matrixTileComplete, tileComplete_stays (tileReady_of_missing need)]
    · rw [exec_tileDrain, tileDrain_queues hr hd hen ho room]
    · rw [exec_tileDrain, tileDrain_sends_persistent hr hd hen ho hw hn]
      rfl
    · rw [exec_tileDrain, tileDrain_sends_final hr hd hen ho hw hn]
    · rw [exec_bPanelLoad, bPanelLoad_holds hr hen hh hp need]
  · intro s c w hr _ x r v src
    refine ⟨fun ready hm hs hrow hl ht hside => ends_eq ?_, fun ready hm hs hrow hl => ends_eq ?_, fun wait => ends_eq ?_,
      fun ready hk ht => ⟨_, exec_vectorRowEnter .., vectorRowEnter_uncorrectable_stops hr ready w hk ht⟩,
      fun ready two => ends_eq ?_, fun hen hl hrow hn room => ends_eq ?_, fun h => ends_eq ?_⟩
    · rw [exec_vectorRowEnter, vectorRowEnter_single hr ready hm, rowEnter_passes hl hs hrow ht hside]
      rfl
    · rw [exec_vectorRowEnter, vectorRowEnter_single hr ready hm, rowEnter_loads hl hs hrow]
    · rw [exec_vectorRowEnter, vectorRowEnter_stays wait]
    · rw [exec_vectorRowEnter, vectorRowEnter_pair hr ready two]
    · rw [exec_tileEndCommit, tileEndCommit_persistent hr hen hl hrow hn room]
      rfl
    · rw [exec_tileEndCommit, tileEndCommit_stays h]

end Sys2Proof.Machine
end

section
/-! PROOF. Windows that close (R105), the zeroing and the waking of banks (R108 to R110), MU_PEEK (R115, R344), and O49. -/

namespace Sys2Proof.Machine

theorem exec_windowCloseComplete (w : Win) (s : State) : exec (.windowCloseComplete w) s = .next (windowCloseComplete s w) := rfl

theorem exec_closeTimeout (w : Win) (s : State) : exec (.closeTimeout w) s = .next (closeTimeout s w) := rfl

theorem exec_bankZeroDone (c : Cell) (b : Fin 32) (s : State) : exec (.bankZeroDone c b) s = .next (bankZeroDone s c b) := rfl

theorem exec_bankWake (c : Cell) (b : Fin 32) (s : State) : exec (.bankWake c b) s = .next (bankWake s c b) := rfl

theorem exec_muPeek (n : Slot) (s : State) : exec (.muPeek n) s = .next (muPeek s n) := rfl

/-! ### MU_FAULT -/

theorem recIrq_eq (s : State) (r : Rec) : recIrq s r = { s with hosts := (recIrq s r).hosts } := by
  unfold recIrq
  split <;> rfl

/-- R350: a record of MU_FAULT writes that record, and a new one signals vector 8. -/
theorem noteMu_eq (s : State) (code : Status) (cell bank addr win : Nat) (d : List Nat) :
    noteMu s code cell bank addr win d =
      { s with
        recs := { s.recs with mu := recNote s.recs.mu code (fld 17 cell + fld 26 bank + fld 31 addr + fld 52 win) 0 d }
        hosts := (noteMu s code cell bank addr win d).hosts } := recIrq_eq ..

@[simp] theorem noteMu_job (s : State) (code : Status) (c b a w : Nat) (d : List Nat) : (noteMu s code c b a w d).job = s.job :=
  recIrq_job ..
@[simp] theorem noteMu_jobc (s : State) (code : Status) (c b a w : Nat) (d : List Nat) : (noteMu s code c b a w d).jobc = s.jobc :=
  recIrq_jobc ..
@[simp] theorem noteMu_ras (s : State) (code : Status) (c b a w : Nat) (d : List Nat) : (noteMu s code c b a w d).ras = s.ras :=
  recIrq_ras ..
@[simp] theorem noteMu_getWin (s : State) (code : Status) (c b a w : Nat) (d : List Nat) (v : Nat) :
    getWin (noteMu s code c b a w d) v = getWin s v := by
  rw [noteMu_eq]
  rfl

/-! ### A window of which the units hold nothing, R105 -/

/-- R105: what a window's slot holds once it is free. -/
abbrev slotFreed (v : Window) : Window :=
  { gen := v.gen, wd := { enable := v.wd.enable, senders := v.wd.senders, token := v.wd.token } }

theorem winZero_away {s : State} {w : Nat} (h : winHere s (getWin s w) = false) : winZero s w = s := by simp [winZero, h]

theorem winFlips_away {s : State} {w : Nat} (h : winHere s (getWin s w) = false) : winFlips s w = false := by simp [winFlips, h]

theorem heldUpdate_of_no_wave {s : State} (ha : s.job.churn.wave.active = false) (hs : s.job.churn.wave.heldSince = none) :
    heldUpdate s = s := by
  simp [heldUpdate, ha, hs]

/-- R105, R355: of a window whose bytes are not in the units, and that no WCLOSE waits for, only the slot is freed. -/
theorem winFree_away {s : State} {w : Nat} (h : winHere s (getWin s w) = false) (hc : (getWin s w).closeFor = [])
    (ha : s.job.churn.wave.active = false) (hs : s.job.churn.wave.heldSince = none) (code : Status) :
    winFree s w code = setWin s w (slotFreed (getWin s w)) := by
  have away : winHere (setWin s w (slotFreed (getWin s w))) (getWin s w) = false := h
  simp only [winFree, winZero_away h, away, hc, List.foldl_nil, Bool.false_eq_true, if_false]
  exact heldUpdate_of_no_wave ha hs

theorem windowCloseComplete_frees {s : State} {w : Nat} (ho : (getWin s w).opened = true) (hc : (getWin s w).closing = true)
    (hn : (getWin s w).outstanding = 0) (h : winHere s (getWin s w) = false) :
    windowCloseComplete s w = winFree s w Code.ok := by
  simp [windowCloseComplete, ho, hc, hn, winFlips_away h]

theorem windowCloseComplete_waits {s : State} {w : Nat} (hn : (getWin s w).outstanding ≠ 0) : windowCloseComplete s w = s := by
  simp [windowCloseComplete, hn]

theorem closeTimeout_writes_off {s : State} {w : Nat} (ho : (getWin s w).opened = true) (hc : (getWin s w).closing = true)
    (hn : (getWin s w).outstanding ≠ 0) (ht : (getWin s w).closeAt + s.limits.closeUs * us ≤ s.now) :
    closeTimeout s w = winFree (noteMu s Code.closeTimeout (getWin s w).cell 0 0 w) w Code.closeTimeout := by
  simp [closeTimeout, ho, hc, Nat.pos_of_ne_zero hn, ht]

theorem closeTimeout_early {s : State} {w : Nat} (h : s.now < (getWin s w).closeAt + s.limits.closeUs * us) : closeTimeout s w = s := by
  simp [closeTimeout, h]

/-! ### Banks, R108 to R110 -/

theorem bankZeroDone_idle {s : State} {c b : Nat} (h : (getCell s c).mu.zeroing.getLsbD b = false) : bankZeroDone s c b = s := by
  simp [bankZeroDone, h]

theorem bankZeroDone_ends {s : State} {c b : Nat} (h : (getCell s c).mu.zeroing.getLsbD b = true) :
    bankZeroDone s c b =
      let m := (getCell s c).mu
      let used := recBanks (getRec s c).mu ||| recBanks (Tbl.get {} s.job.churn.shadow.recs c).mu
      { setMu s c { muZero m (b * bankBytes) bankBytes with
          zeroing := m.zeroing &&& ~~~(1#32 <<< b)
          powered := if used.getLsbD b then m.powered else m.powered &&& ~~~(1#32 <<< b) } with
        counts := { s.counts with zeroings := s.counts.zeroings + 1 } } := by
  simp only [bankZeroDone, h, Bool.not_true, Bool.false_eq_true, if_false]
  rfl

theorem bankWake_wakes {s : State} {c b : Nat} (h : (getCell s c).mu.waking.getLsbD b = true) :
    bankWake s c b =
      let u := muSet s c (coalFlush (getCell s c).mu fun k => k / 768 == b)
      let m := (getCell u c).mu
      setMu u c { m with
        waking := m.waking &&& ~~~(1#32 <<< b), powered := m.powered ||| (1#32 <<< b), zeroing := m.zeroing ||| (1#32 <<< b) } := by
  simp only [bankWake, h, if_true]

/-- R109: an access waits for no bank where none is being zeroed. -/
theorem bankSettle_idle {s : State} {c : Nat} (h : (getCell s c).mu.zeroing = 0) (a n : Nat) : bankSettle s c a n = s :=
  List.foldl_fixed' (fun _ => bankZeroDone_idle (by simp [h])) _

/-! ### MU_PEEK, R115 -/

theorem coalFlush_of_empty {m : MuSt} (h : m.coal = []) (p : Nat → Bool) : coalFlush m p = m := by simp [coalFlush, h]

theorem muBad_of_no_poison {s : State} {c : Nat} (h : (getCell s c).mu.poison = []) (a n : Nat) : muBad s c a n = none := by
  simp [muBad, h]

theorem peekThrough_clean {s : State} {n c : Nat} (hc : bits (getHost s n).muSel 0 9 = c) (hl : (getCell s c).mu.coal = [])
    (hz : (getCell s c).mu.zeroing = 0) (hp : (getCell s c).mu.poison = []) :
    peekThrough s n = (Mem.readN (getCell s c).mu.mem (bits (getHost s n).muSel 12 21 / 8 * 8) 8, s) := by
  simp only [peekThrough, hc, bankSettle_idle hz, muBad_of_no_poison hp, muRead, coalFlush_of_empty hl, if_true]

theorem muPeek_owner {s : State} {n : Slot} (h : OwnerAnswers s n) :
    muPeek s n = setHost (peekThrough s n).2 n { getHost s n with resp := (peekThrough s n).1 } := by
  obtain ⟨⟨hr, hp, -⟩, ho, hn⟩ := h
  simp [muPeek, hr, hp, ho, hn]

theorem muPeek_unowned {s : State} {n : Nat} (hp : (getHost s n).present = true) (ho : s.own.owned = false) :
    muPeek s n = setHost s n { getHost s n with resp := List.replicate 8 0 } := by
  simp [muPeek, hp, ho]

/-! ### The obligation -/

/-- Settles O49: each clause is one outcome of a window's close, of a bank's zeroing or waking, or of a read of MU_PEEK. -/
theorem windowsAndBanks : Obligations.WindowsAndBanks := by
  intro s w c b n _ _ v m h
  refine ⟨fun ho hc hn away hf ha hs => ends_eq ?_, fun _ hn => ends_eq ?_,
    fun ho hc hn ht away hf ha hs => ⟨_, exec_closeTimeout .., ?_⟩, fun early => ends_eq ?_, fun hz => ends_eq ?_,
    fun hk => ends_eq ?_, fun own hl hz hp => ends_eq ?_, fun hp ho => ends_eq ?_⟩
  · rw [exec_windowCloseComplete, windowCloseComplete_frees ho hc hn away, winFree_away away hf ha hs]
    rfl
  · rw [exec_windowCloseComplete, windowCloseComplete_waits hn]
  · have fields : fld 17 v.cell + fld 26 0 + fld 31 0 + fld 52 w.val = 2 ^ 17 * v.cell + 2 ^ 52 * w.val := by
      simp only [fld, Nat.zero_mul, Nat.add_zero, Nat.mul_comm]
    rw [closeTimeout_writes_off ho hc hn ht,
      winFree_away (by simpa [winHere] using away) (by simpa using hf) (by simpa using ha) (by simpa using hs), noteMu_getWin, noteMu_eq,
      fields]
    exact ⟨rfl, rfl, rfl⟩
  · rw [exec_closeTimeout, closeTimeout_early early]
  · rw [exec_bankZeroDone, bankZeroDone_ends hz, bankBytes, Nat.mul_comm]
  · rw [exec_bankWake, bankWake_wakes hk]
  · rw [exec_muPeek, muPeek_owner own, peekThrough_clean rfl hl hz hp]
    rfl
  · rw [exec_muPeek, muPeek_unowned hp ho]
    rfl

end Sys2Proof.Machine
end

section
/-! PROOF. The operations on windows, queues and ring senders (R102, R105, R262, R302): WOPEN, WCLOSE, WBIND, SBIND, and O14. -/

namespace Sys2Proof.Machine

theorem exec_wopen (c : Ctx) (rd rs1 : GReg) (s : State) : exec (.wopen c rd rs1) s = execWopen c rd rs1 s := rfl

theorem exec_wclose (c : Ctx) (rd rs1 rs2 : GReg) (s : State) : exec (.wclose c rd rs1 rs2) s = execWclose c rd rs1 rs2 s := rfl

theorem exec_wbind (c : Ctx) (rd rs1 rs2 rs3 : GReg) (s : State) :
    exec (.wbind c rd rs1 rs2 rs3) s = execWbind c rd rs1 rs2 rs3 s := rfl

theorem exec_sbind (c : Ctx) (rd rs1 rs2 : GReg) (s : State) : exec (.sbind c rd rs1 rs2) s = execSbind c rd rs1 rs2 s := rfl

/-! ### Operations of the running job, R329, R330 -/

theorem gnat_moved {s : State} (h : Sized s) (c : Ctx) (n r : Nat) : gnat (moved s c n) c r = (greg s c r).toNat := by
  rw [gnat, greg_moved h]

/-- R329, R330: a synchronous operation of one word, of a unit that leaves `u`, ends in `u` with its result in `rd`. -/
theorem next_syncOp {s t u : State} {c : Ctx} {rd r op sub d s1 s2 s3 : Nat} {st : Status} {f : State → Status × Nat × State}
    (h : Sized s) (hat : At s c (wordD op sub d s1 s2 s3) none) (hj : s.jobc.st = 1) (hf : f (moved s c 4) = (st, r, u))
    (hu : u.raler = (moved s c 4).raler)
    (ht : { u with raler := (wrote s c rd (BitVec.ofNat 64 (st.toNat + r * 2 ^ 16)) 4).raler } = t) :
    (.next (syncOp s c rd (encD op sub d s1 s2 s3) f) : Host.Outcome State Fault Refusal) = .next t := by
  rw [encD_word, syncOp_at h hat hj hf hu]
  exact congrArg _ ht

/-- R329: the result register of an operation that has been issued. -/
theorem greg_issued {s t : State} (h : Sized s) {c : Ctx} {rd : GReg} {n : BitVec 16} {imm : Nat}
    (ht : t.raler = (issued s c rd n imm).raler) :
    greg t c rd = if rd = 0 then 0 else BitVec.ofNat 64 (n.toNat * 2 ^ 16 + imm * 2 ^ 32) := by
  have moved_on : getCtx t c =
      { getCtx (wrote s c rd (BitVec.ofNat 64 (n.toNat * 2 ^ 16 + imm * 2 ^ 32)) 4) c with ticket := n } := by
    rw [getCtx, ht, ← getCtx]
    exact getCtx_setCtx (h.ctx_lt c)
  rw [← greg_wrote h c rd _ 4, greg, greg, moved_on]

theorem Sized.win_lt {s : State} (h : Sized s) {w : Nat} (hw : w < 64) : w < s.wins.length := by
  obtain ⟨-, windows, -⟩ := h
  omega

/-- R320: where a context's area ends. -/
abbrev areaEnd (c : Ctx) : Nat := if c.val % 2 = 1 then 0x800000 else 0x600000

/-- R330: an operand within the context's area is read. -/
theorem cmOperand_within {s : State} {c : Ctx} {a n : Nat} (h : a + n ≤ areaEnd c) (k : Nat) :
    cmOperand (moved s c k) c a n = some (Mem.readN s.cm a n) := by
  have allowed : cmAllows c a n = true := decide_eq_true h
  simp only [cmOperand, allowed, if_true]
  rfl

/-! ### WOPEN, R102 -/

theorem length_readN (m : Bytes) (a n : Nat) : (Mem.readN m a n).length = n := by
  induction n generalizing a with
  | zero => rfl
  | succ n ih => rw [Mem.readN, List.length_cons, ih]

theorem testBit_eq_bit (v i : Nat) : v.testBit i = bit v i := by
  rw [Nat.testBit_eq_decide_div_mod_eq, bit]
  rfl

theorem bits_low (v w : Nat) : bits v 0 w = v % 2 ^ w := by rw [bits, Nat.pow_zero, Nat.div_one]

theorem overlap_eq_false {a n b m : Nat} (h : a + n ≤ b ∨ b + m ≤ a) : overlap a n b m = false := by
  simp only [overlap, Bool.and_eq_false_iff, decide_eq_false_iff_not]
  omega

/-- R102: bytes that lie apart from those of each open window of their MU. -/
theorem winsMeet_eq_false {s : State} {cell a n : Nat} (h : ∀ u : Win, (getWin s u).opened = true → (getWin s u).cell = cell →
    ∀ y ∈ [(getWin s u).at0, (getWin s u).at1], a + n ≤ y ∨ y + 512 * (getWin s u).units ≤ a) : winsMeet s cell a n = false := by
  rw [winsMeet, List.any_eq_false]
  intro w hw meets
  simp only [Bool.and_eq_true, beq_iff_eq] at meets
  obtain ⟨⟨opened, here⟩, laps⟩ := meets
  have apart := h ⟨w, List.mem_range.1 hw⟩ opened here
  simp only [overlap_eq_false (apart _ List.mem_cons_self), overlap_eq_false (apart _ (List.mem_cons_of_mem _ List.mem_cons_self)),
    Bool.or_false, Bool.false_eq_true] at laps

/-- R102: the lowest slot that is not open. -/
theorem lowestClosed_eq {s : State} {w : Win} (closed : (getWin s w).opened = false)
    (lower : ∀ u : Win, u < w → (getWin s u).opened = true) :
    ((List.range 64).find? fun u => !(getWin s u).opened) = some w.val := by
  rw [List.find?_range_eq_some]
  exact ⟨by simp [closed], List.mem_range.2 w.isLt, fun u hu => by simp [lower ⟨u, hu.trans w.isLt⟩ hu]⟩

/-! The fields of an open block `v`. -/

abbrev openCell (v : Nat) : Nat := v % 2 ^ 9
abbrev openUnits (v : Nat) : Nat := v / 2 ^ 24 % 2 ^ 12
abbrev openBase (v : Nat) : Nat := v / 2 ^ 12 % 2 ^ 12
abbrev openRegion (s : State) (v : Nat) : Region := region (getRec s (openCell v)).mu (v / 2 ^ 9 % 2 ^ 3)

/-- Where the window of an open block begins in half `h` of its region. -/
abbrev openAt (s : State) (v : Nat) (h : Bool) : Nat := regionBase (openRegion s v) h + 512 * openBase v

/-- R102: the window that an open block opens in the slot that held `old`. -/
def winOpened (s : State) (v : Nat) (old : Window) : Window :=
  { opened := true, gen := old.gen + 1, cell := openCell v, region := v / 2 ^ 9 % 2 ^ 3, baseUnit := openBase v, units := openUnits v
    at0 := openAt s v false, at1 := openAt s v true, part := BitVec.ofNat 8 (v / 2 ^ 36), flip := v.testBit 44, free := openUnits v
    job := s.jobc.id, wd := { enable := old.wd.enable, senders := old.wd.senders, token := old.wd.token } }

/-- R102: what an open block must be to open a window: whole, of the job's partition, within a region that takes windows, and apart from
the open windows. -/
structure Opens (s : State) (v : Nat) : Prop where
  whole : v / 2 ^ 45 = 0
  units : openUnits v ≠ 0
  part : jobPart s = some (v / 2 ^ 36 % 2 ^ 8)
  valid : (openRegion s v).valid = true
  takes : (openRegion s v).windowOk = true
  kind : (openRegion s v).kind = 0
  flip : v.testBit 44 = (openRegion s v).double
  fits : 512 * (openBase v + openUnits v) ≤ regionSize (openRegion s v)
  apart : ∀ h : Bool, winsMeet s (openCell v) (openAt s v h) (512 * openUnits v) = false

theorem Opens.moved {s : State} {v : Nat} (h : Opens s v) (c : Ctx) (n : Nat) : Opens (moved s c n) v :=
  ⟨h.whole, h.units, h.part, h.valid, h.takes, h.kind, h.flip, h.fits, h.apart⟩

theorem winOpen_opens {s : State} {bs : List Byte} {v : Nat} {w : Win} (hv : leNat (bs.take 16) = v) (h : Opens s v)
    (closed : (getWin s w).opened = false) (lower : ∀ u : Win, u < w → (getWin s u).opened = true) :
    winOpen s bs = (Code.ok, w + fld 6 ((getWin s w).gen + 1).toNat, setWin s w (winOpened s v (getWin s w))) := by
  obtain ⟨whole, units, part, valid, takes, kind, flip, fits, apart⟩ := h
  have part8 : BitVec.ofNat 8 (v / 2 ^ 36 % 2 ^ 8) = BitVec.ofNat 8 (v / 2 ^ 36) := BitVec.eq_of_toNat_eq (Nat.mod_mod _ _)
  simp only [winOpen, hv, ← testBit_eq_bit, bits_low]
  simp only [bits, whole, Nat.zero_mod, units, part, valid, takes, kind, flip, apart, Nat.not_lt.2 fits,
    lowestClosed_eq closed lower, part8, ne_eq, not_true_eq_false, or_self, Bool.not_true, bne_self_eq_false, if_false, Bool.or_self,
    Bool.false_eq_true]
  rw [winOpened, flip]

/-! ### WCLOSE, R105 -/

theorem setPort_wins (s : State) (p : Nat) (x : PortSt) : (setPort s p x).wins = s.wins := by
  unfold setPort
  exact (apply_ite State.wins _ _ _).trans (ite_self _)

theorem setPort_raler (s : State) (p : Nat) (x : PortSt) : (setPort s p x).raler = s.raler := by
  unfold setPort
  exact (apply_ite State.raler _ _ _).trans (ite_self _)

/-- R295: a frame that leaves joins the loopback or a port's queue, or is dropped. -/
theorem sendFrame_cases (s : State) (e : PtEntry) (dst : Nat) (b : Body) :
    sendFrame s e dst b = s ∨ (∃ r, sendFrame s e dst b = setRing s r) ∨ ∃ p q, sendFrame s e dst b = portQueue s p q := by
  unfold sendFrame
  dsimp only
  split_ifs
  · exact .inr (.inl ⟨_, rfl⟩)
  · exact .inl rfl
  · split
    · exact .inl rfl
    · exact .inr (.inr ⟨_, _, rfl⟩)

theorem sendFrame_wins (s : State) (e : PtEntry) (dst : Nat) (b : Body) : (sendFrame s e dst b).wins = s.wins := by
  obtain h | ⟨r, h⟩ | ⟨p, q, h⟩ := sendFrame_cases s e dst b
  · rw [h]
  · rw [h]
    rfl
  · rw [h, portQueue, setPort_wins]

theorem sendFrame_raler (s : State) (e : PtEntry) (dst : Nat) (b : Body) : (sendFrame s e dst b).raler = s.raler := by
  obtain h | ⟨r, h⟩ | ⟨p, q, h⟩ := sendFrame_cases s e dst b
  · rw [h]
  · rw [h]
    rfl
  · rw [h, portQueue, setPort_raler]

theorem notifyAll_getWin (s : State) (part : Nat) (b : Body) (w : Nat) : getWin (notifyAll s part b) w = getWin s w := by
  unfold notifyAll
  split
  · rfl
  · exact foldl_keeps (getWin · w) (fun _ _ => by rw [getWin, sendFrame_wins, getWin]) _ s

theorem notifyAll_raler (s : State) (part : Nat) (b : Body) : (notifyAll s part b).raler = s.raler := by
  unfold notifyAll
  split
  · rfl
  · exact foldl_keeps State.raler (fun _ _ => sendFrame_raler ..) _ s

/-- R105: a close of a window that is open and does not close yet. -/
theorem winClose_begins {s : State} {w : Nat} (ho : (getWin s w).opened = true) (hc : (getWin s w).closing = false) :
    winClose s w = notifyAll (setWin s w { getWin s w with closing := true, closeAt := s.now }) (getWin s w).part.toNat
      (.close (BitVec.ofNat 6 w).toFin (getWin s w).gen) := by
  simp [winClose, ho, hc]

/-- R105: a window on whose close operation `o` waits. -/
def closeAwaited (v : Window) (o : OpRef) : Window := { v with closeFor := v.closeFor ++ [o] }

theorem winCloseOp_closes {s : State} {w gen : Nat} (hw : w < 64) (hg : gen < 256) (ho : (getWin s w).opened = true)
    (hgen : (getWin s w).gen.toNat = gen) (here : winHere s (getWin s w) = true) (o : OpRef) :
    winCloseOp s o w gen = (Code.ok, 0, winClose (setWin s w (closeAwaited (getWin s w) o)) w) := by
  have legal : ¬ (64 ≤ w ∨ 256 ≤ gen) := by omega
  have open_here : ¬ (!(getWin s w).opened || (getWin s w).gen.toNat != gen || !winHere s (getWin s w)) = true := by
    simp [ho, hgen, here]
  rw [winCloseOp, if_neg legal, if_neg open_here]
  rfl

/-- R105: the close begins, and reports to the operation. -/
theorem winClose_awaited {s : State} {w : Nat} (hl : w < s.wins.length) (ho : (getWin s w).opened = true)
    (hc : (getWin s w).closing = false) (o : OpRef) :
    (winClose (setWin s w (closeAwaited (getWin s w) o)) w).raler = s.raler ∧
    getWin (winClose (setWin s w (closeAwaited (getWin s w) o)) w) w =
      { closeAwaited (getWin s w) o with closing := true, closeAt := s.now } := by
  have awaited : getWin (setWin s w (closeAwaited (getWin s w) o)) w = closeAwaited (getWin s w) o := getWin_setWin hl
  rw [winClose_begins (by rw [awaited]; exact ho) (by rw [awaited]; exact hc), notifyAll_getWin, notifyAll_raler, awaited,
    getWin_setWin (by simpa [setWin] using hl)]
  exact ⟨rfl, rfl⟩

/-! ### WBIND, R262 -/

theorem queueBind_binds {s : State} {q w gen : Nat} (hw : w < 64) (hg : gen < 256) (hq : q < ladQueues (ladSec s))
    (hm : ladMember (ladSec s) q < (jobPt s).elim 0 boxSize) :
    queueBind s q w gen =
      (Code.ok, 0, setBind s q { bound := true, win := w, gen := BitVec.ofNat 8 gen, member := ladMember (ladSec s) q }) := by
  unfold ladSec at *
  simp only [queueBind, Nat.not_le.2 hw, Nat.not_le.2 hg, Nat.not_le.2 hq, Nat.not_le.2 hm, or_self, if_false]

theorem queueBind_beyond {s : State} {q w gen : Nat} (hw : w < 64) (hg : gen < 256) (hq : ladQueues (ladSec s) ≤ q) :
    queueBind s q w gen = (Code.bindConflict, 0, s) := by
  unfold ladSec at *
  simp only [queueBind, Nat.not_le.2 hw, Nat.not_le.2 hg, hq, true_or, or_self, if_false, if_true]

/-! ### SBIND, R302 -/

theorem giveBack_zero (s : State) (member win : Nat) (gen : Byte) : giveBack s member win gen 0 = s := rfl

theorem askGone_of_none {s : State} {p : Asker → Bool} (h : ∀ k ∈ s.job.asks, p k.who = false) : askGone s p = s := by
  have same : (s.job.asks.map fun a => if p a.who then { a with who := .gone } else a) = s.job.asks := by
    conv_rhs => rw [← List.map_id s.job.asks]
    exact List.map_congr_left fun a ha => by simp [h a ha]
  rw [askGone, same]
  rfl

/-- R302: RSND_CFG with VALID 0 releases a sender that holds and awaits no credit. -/
theorem senderWrite_releases {s : State} {n : Nat} {w : Word} (valid : bit w.toNat 0 = false) (whole : bits w.toNat 61 3 = 0)
    (some_units : 1 ≤ bits w.toNat 15 12) (few : bits w.toNat 15 12 ≤ 3072) (hc : (getSender s n).credit = 0)
    (ha : ∀ k ∈ s.job.asks, k.who ≠ .sender n) :
    senderWrite s n w = (Code.ok, setSender s n { cfg := w, sends := (getSender s n).sends }) := by
  have idle : askGone s (fun a => a == .sender n) = s := askGone_of_none (by simpa using ha)
  have units : bits w.toNat 15 12 ≠ 0 := by omega
  simp only [senderWrite, sendCfg, valid, whole, units, Nat.not_lt.2 few, hc, idle, giveBack_zero, ne_eq, not_true_eq_false, or_self,
    Bool.false_and, Bool.false_eq_true, if_false]

theorem senderWrite_no_units {s : State} {n : Nat} {w : Word} (h : bits w.toNat 15 12 = 0) :
    senderWrite s n w = (Code.badArgument, s) := by
  simp only [senderWrite, sendCfg, h, true_or, or_true, if_true]

/-! ### The four operations at the program counter of a context of the running job -/

section
variable {s : State} {c : Ctx} {rd rs1 rs2 rs3 : GReg} (h : Sized s) (hj : s.jobc.st = 1)
include h hj

theorem wopen_opens {v : Nat} {w : Win} (hat : At s c (wordD 0x32 0 rd rs1 0 0) none) (fits : (greg s c rs1).toNat + 16 ≤ areaEnd c)
    (hv : leNat (Mem.readN s.cm (greg s c rs1).toNat 16) = v) (opens : Opens s v) (closed : (getWin s w).opened = false)
    (lower : ∀ u : Win, u < w → (getWin s u).opened = true) :
    exec (.wopen c rd rs1) s = .next (setWin
      (wrote s c rd (BitVec.ofNat 64 (w.val * 2 ^ 16 + ((getWin s w).gen + 1).toNat * 2 ^ 22)) 4) w (winOpened s v (getWin s w))) := by
  have block : leNat ((Mem.readN s.cm (greg s c rs1).toNat 16).take 16) = v := by
    rw [List.take_of_length_le (length_readN ..).le, hv]
  have result : Code.ok.toNat + (w + fld 6 ((getWin s w).gen + 1).toNat) * 2 ^ 16 =
      w * 2 ^ 16 + ((getWin s w).gen + 1).toNat * 2 ^ 22 := by
    have ok : Code.ok.toNat = 0 := rfl
    rw [ok, fld]
    omega
  rw [exec_wopen, ← result]
  exact next_syncOp h hat hj
    (.trans (by rw [gnat_moved h, cmOperand_within fits]) (winOpen_opens block (opens.moved c 4) closed lower)) rfl rfl

theorem wclose_begins (hat : At s c (wordD 0x32 1 rd rs1 rs2 0) none) (hw : (greg s c rs1).toNat < 64)
    (hg : (greg s c rs2).toNat < 256) (ho : (getWin s (greg s c rs1).toNat).opened = true)
    (hc : (getWin s (greg s c rs1).toNat).closing = false)
    (hgen : (getWin s (greg s c rs1).toNat).gen.toNat = (greg s c rs2).toNat)
    (here : winHere s (getWin s (greg s c rs1).toNat) = true) :
    ∃ t, exec (.wclose c rd rs1 rs2) s = .next t ∧ t.raler = (issued s c rd (ticketAfter s c) 0).raler ∧
      getWin t (greg s c rs1).toNat =
        { closeAwaited (getWin s (greg s c rs1).toNat) (opOf s c) with closing := true, closeAt := s.now } := by
  have closes := winCloseOp_closes (s := moved s c 4) hw hg ho hgen here (opOf s c)
  obtain ⟨hraler, hwin⟩ := winClose_awaited (s := moved s c 4) (h.win_lt hw) ho hc (opOf s c)
  have issue := (asyncOp_at (rd := rd) hat hj).trans
    (asyncIssue_accepted (f := fun o t => winCloseOp t o (gnat t c rs1) (gnat t c rs2)) h (ctxRuns_st hat.1)
      (by rw [gnat_moved h, gnat_moved h, closes]) hraler)
  exact ⟨_, congrArg Host.Outcome.next issue, rfl, hwin⟩

theorem wbind_binds (hat : At s c (wordD 0x32 2 rd rs1 rs2 rs3) none) (hw : (greg s c rs2).toNat < 64)
    (hg : (greg s c rs3).toNat < 256) (hq : (greg s c rs1).toNat < ladQueues (ladSec s))
    (hm : ladMember (ladSec s) (greg s c rs1).toNat < (jobPt s).elim 0 boxSize) :
    exec (.wbind c rd rs1 rs2 rs3) s = .next (setBind (wrote s c rd 0 4) (greg s c rs1).toNat
      { bound := true, win := (greg s c rs2).toNat, gen := BitVec.ofNat 8 (greg s c rs3).toNat
        member := ladMember (ladSec s) (greg s c rs1).toNat }) := by
  rw [exec_wbind]
  exact next_syncOp h hat hj
    (.trans (by rw [gnat_moved h, gnat_moved h, gnat_moved h]) (queueBind_binds (s := moved s c 4) hw hg hq hm)) rfl rfl

theorem wbind_beyond (hat : At s c (wordD 0x32 2 rd rs1 rs2 rs3) none) (hw : (greg s c rs2).toNat < 64)
    (hg : (greg s c rs3).toNat < 256) (hq : ladQueues (ladSec s) ≤ (greg s c rs1).toNat) :
    exec (.wbind c rd rs1 rs2 rs3) s = .next (wrote s c rd 0x0707 4) := by
  rw [exec_wbind]
  exact next_syncOp h hat hj
    (.trans (by rw [gnat_moved h, gnat_moved h, gnat_moved h]) (queueBind_beyond (s := moved s c 4) hw hg hq)) rfl rfl

/-- R302: SBIND ends as the write of RSND_CFG does. -/
theorem sbind_writes {st : Status} {u : State} (hat : At s c (wordD 0x32 3 rd rs1 rs2 0) none) (hn : (greg s c rs1).toNat < 64)
    (fits : (greg s c rs2).toNat + 8 ≤ areaEnd c)
    (written : senderWrite (moved s c 4) (greg s c rs1).toNat (BitVec.ofNat 64 (leNat (Mem.readN s.cm (greg s c rs2).toNat 8))) = (st, u))
    (hu : u.raler = (moved s c 4).raler) :
    exec (.sbind c rd rs1 rs2) s = .next { u with raler := (wrote s c rd (BitVec.ofNat 64 st.toNat) 4).raler } := by
  rw [exec_sbind]
  refine next_syncOp h hat hj (.trans ?_ (congrArg noRes written)) hu ?_
  · rw [gnat_moved h, gnat_moved h, cmOperand_within fits]
    exact if_neg (Nat.not_le.2 hn)
  · rw [Nat.zero_mul, Nat.add_zero]

end

/-! ### The obligation -/

/-- Settles O14: each clause is one outcome of WOPEN, WCLOSE, WBIND or SBIND. -/
theorem windowOperations : Obligations.WindowOperations := by
  intro s c rd rs1 rs2 rs3 h hj a b e area
  refine ⟨fun hat fits w whole units part valid takes kind flip within apart closed lower => ends_eq ?_,
    fun hat ha hb ho hc hgen here => ?_,
    fun hat _ hb he => ⟨fun hq hm => ends_eq (wbind_binds h hj hat hb he hq hm), fun hq => ends_eq (wbind_beyond h hj hat hb he hq)⟩,
    fun hat ha fits valid whole units few hc asks => ends_eq ?_, fun hat ha fits units => ends_eq ?_⟩
  · have clear : ∀ half, winsMeet s _ (openAt s (leNat (Mem.readN s.cm a 16)) half) _ = false
      | false => winsMeet_eq_false fun u hu here => apart u hu here _ List.mem_cons_self
      | true => winsMeet_eq_false fun u hu here => apart u hu here _ (List.mem_cons_of_mem _ List.mem_cons_self)
    exact wopen_opens h hj hat fits rfl ⟨whole, units, part, valid, takes, kind, flip, within, clear⟩ closed lower
  · obtain ⟨t, ht, hraler, hwin⟩ := wclose_begins h hj hat ha hb ho hc hgen here
    refine ⟨t, ht, congrArg Window.closing hwin, congrArg Window.closeAt hwin, congrArg Window.closeFor hwin, ?_⟩
    rw [greg_issued h hraler, Nat.zero_mul, Nat.add_zero]
  · have word : (BitVec.ofNat 64 (leNat (Mem.readN s.cm b 8))).toNat = leNat (Mem.readN s.cm b 8) := Nat.mod_eq_of_lt (by omega)
    refine sbind_writes h hj hat ha fits (senderWrite_releases ?_ ?_ ?_ ?_ hc asks) rfl
    · rw [word, ← testBit_eq_bit, valid]
    · rw [word, bits, whole, Nat.zero_mod]
    · rwa [word]
    · rwa [word]
  · have no_units : bits (BitVec.ofNat 64 (leNat (Mem.readN s.cm b 8))).toNat 15 12 = 0 := by
      rw [bits, BitVec.toNat_ofNat]
      omega
    exact sbind_writes h hj hat ha fits (senderWrite_no_units no_units) rfl

end Sys2Proof.Machine
end

section
/-! PROOF. The cells of the grid as a sparse table: writing a cell twice, and reading a cell after writing it. -/

namespace Sys2Proof

namespace Tbl

variable {α : Type} {d : α}

theorem insert_insert (t : List (Nat × α)) (k : Nat) (v w : α) : insert (insert t k v) k w = insert t k w := by
  induction t with
  | nil => simp [insert]
  | cons p t ih =>
    obtain ⟨j, u⟩ := p
    simp only [insert]
    split_ifs with eq lt
    · simp [insert]
    · simp [insert]
    · simp [insert, eq, lt, ih]

theorem erase_insert (t : List (Nat × α)) (k : Nat) (v : α) : erase (insert t k v) k = erase t k := by
  induction t with
  | nil => simp [insert, erase]
  | cons p t ih =>
    obtain ⟨j, u⟩ := p
    simp only [insert, erase]
    split_ifs with eq lt
    · simp [erase]
    · simp [erase]
    · simp [erase, eq, lt, ih]

variable [DecidableEq α]

/-- The entries above `k` list nothing for `k`. -/
theorem erase_above {t : List (Nat × α)} {lo k : Nat} (h : wfFrom d lo t = true) (hk : k < lo) : erase t k = t := by
  cases t with
  | nil => rfl
  | cons p t =>
    obtain ⟨j, u⟩ := p
    simp only [wfFrom, Bool.and_eq_true, decide_eq_true_eq] at h
    obtain ⟨⟨hj, -⟩, -⟩ := h
    simp only [erase]
    rw [if_neg (by omega), if_pos (by omega)]

theorem insert_above {t : List (Nat × α)} {lo k : Nat} (h : wfFrom d lo t = true) (hk : k < lo) (v : α) :
    insert t k v = (k, v) :: t := by
  cases t with
  | nil => rfl
  | cons p t =>
    obtain ⟨j, u⟩ := p
    simp only [wfFrom, Bool.and_eq_true, decide_eq_true_eq] at h
    obtain ⟨⟨hj, -⟩, -⟩ := h
    simp only [insert]
    rw [if_neg (by omega), if_pos (by omega)]

theorem erase_erase {t : List (Nat × α)} {lo : Nat} (h : wfFrom d lo t = true) (k : Nat) : erase (erase t k) k = erase t k := by
  induction t generalizing lo with
  | nil => rfl
  | cons p t ih =>
    obtain ⟨j, u⟩ := p
    simp only [wfFrom, Bool.and_eq_true] at h
    obtain ⟨-, ht⟩ := h
    simp only [erase]
    split_ifs with eq lt
    · exact erase_above ht (by omega)
    · simp [erase, eq, lt]
    · simp [erase, eq, lt, ih ht]

theorem insert_erase {t : List (Nat × α)} {lo : Nat} (h : wfFrom d lo t = true) (k : Nat) (v : α) :
    insert (erase t k) k v = insert t k v := by
  induction t generalizing lo with
  | nil => rfl
  | cons p t ih =>
    obtain ⟨j, u⟩ := p
    simp only [wfFrom, Bool.and_eq_true] at h
    obtain ⟨-, ht⟩ := h
    simp only [erase, insert]
    split_ifs with eq lt
    · exact insert_above ht (by omega) v
    · simp [insert, eq, lt]
    · simp [insert, eq, lt, ih ht]

theorem set_set {t : List (Nat × α)} (h : wf d t = true) (k : Nat) (v w : α) : set d (set d t k v) k w = set d t k w := by
  unfold set
  split_ifs
  · exact erase_erase h k
  · exact erase_insert t k v
  · exact insert_erase h k w
  · exact insert_insert t k v w

end Tbl

end Sys2Proof

namespace Sys2Proof.Machine

/-- The table of cells is in its canonical form: each cell is listed once, in order, and none that is as after reset. -/
abbrev CellsCanonical (s : State) : Prop := Tbl.wf {} s.job.grid.cells = true

theorem getCell_setCell {s : State} (h : CellsCanonical s) (c : Nat) (x : CellSt) : getCell (setCell s c x) c = x :=
  (Tbl.get_set h).trans (if_pos rfl)

theorem setCell_setCell {s : State} (h : CellsCanonical s) (c : Nat) (x y : CellSt) :
    setCell (setCell s c x) c y = setCell s c y := by
  have cells := Tbl.set_set (d := ({} : CellSt)) h c x y
  simp only [setCell, setGrid_setGrid, setGrid_grid, cells]

theorem cellsCanonical_setCell {s : State} (h : CellsCanonical s) (c : Nat) (x : CellSt) : CellsCanonical (setCell s c x) := Tbl.wf_set h

theorem getCell_setMu {s : State} (h : CellsCanonical s) (c : Nat) (m : MuSt) : getCell (setMu s c m) c = { getCell s c with mu := m } :=
  getCell_setCell h c _

theorem setMu_setMu {s : State} (h : CellsCanonical s) (c : Nat) (m n : MuSt) : setMu (setMu s c m) c n = setMu s c n := by
  rw [setMu, getCell_setMu h, setMu, setCell_setCell h, setMu]

end Sys2Proof.Machine
end

section
/-! PROOF. The generators and the flips of a memory unit (R93 to R101): what an access, a request and a flip do, one lemma for each
outcome, and O48. -/

namespace Sys2Proof.Machine

theorem exec_muGeneratorAccess_write (c : Cell) (check : Check) (s : State) :
    exec (.muGeneratorAccess c true check) s = .next (genWrite s c) := rfl

theorem exec_muGeneratorAccess_read (c : Cell) (check : Check) (s : State) :
    exec (.muGeneratorAccess c false check) s = .next (genRead s c check) := rfl

theorem exec_flipRequest (c : Cell) (s : State) : exec (.flipRequest c) s = .next (flipRequest s c) := rfl

theorem exec_flipTakeEffect (c : Cell) (s : State) : exec (.flipTakeEffect c) s = .next (flipTakeEffect s c) := rfl

/-! ### Faults of a memory unit, R90, R93 -/

theorem muFault_job {s : State} (h : s.jobc.st = 1) (c : Nat) (code : Status) (a : Nat) : (muFault s c code a).job = s.job := by
  rw [muFault, raiseJobFault_job (by simpa using h), noteMu_job]

theorem muFault_jobc {s : State} (h : s.jobc.st = 1) (c : Nat) (code : Status) (a : Nat) :
    (muFault s c code a).jobc = { s.jobc with st := 2, fault := code } := by
  rw [muFault, raiseJobFault_jobc (by simpa using h), noteMu_jobc]

/-- R90, R405: a read that meets an uncorrectable word stops a job without a checkpoint. -/
theorem muBadWord_jobc {s : State} (h : s.jobc.st = 1) (hk : s.job.ckpt = none) (ht : s.ras.testing = false) (c a : Nat) :
    (muBadWord s c a false).jobc = { s.jobc with st := 2, fault := 0x0309 } := by
  obtain ⟨hjobc, -, -⟩ := unitFault_stops (s := noteMu s Code.muUncorrectable c (a / bankBytes) a 0) (by simpa using h)
    (by simpa using hk) (by simpa using ht) c Code.muUncorrectable true false []
  simp only [muBadWord, Bool.false_and, Bool.false_eq_true, if_false, setMu_jobc, hjobc, noteMu_jobc]
  rfl

/-! ### What a flush of the coalescing buffer leaves, R97 -/

theorem bankPut_poison {m : MuSt} {word w : Nat} {bs : List (Option Byte)} (h : w ∈ (bankPut m word bs).poison) : w ∈ m.poison := by
  simp only [bankPut] at h
  split at h
  · exact List.mem_of_mem_filter h
  · exact h

theorem coalEvict_poison {m : MuSt} {word w : Nat} (h : w ∈ (coalEvict m word).poison) : w ∈ m.poison := by
  unfold coalEvict at h
  split at h
  · exact h
  · exact bankPut_poison h

theorem coalEvict_keeps_line {m : MuSt} {word : Nat} {l : CoalLine} (hl : l ∈ m.coal) (hw : l.word ≠ word) :
    l ∈ (coalEvict m word).coal := by
  unfold coalEvict
  split
  · exact hl
  · exact List.mem_filter.2 ⟨hl, by simpa using hw⟩

theorem coalEvict_redo (m : MuSt) (word : Nat) : (coalEvict m word).redo = m.redo := by
  unfold coalEvict
  split <;> rfl

/-- A flush gives each line that it names to `coalEvict`. -/
theorem coalFlush_induct {P : MuSt → Prop} (m : MuSt) (p : Nat → Bool) (init : P m)
    (evict : ∀ m w, p w = true → P m → P (coalEvict m w)) : P (coalFlush m p) := by
  have all : ∀ (ws : List Nat) (k : MuSt), P k → P (ws.foldl (fun k w => if p w then coalEvict k w else k) k) := by
    intro ws
    induction ws with
    | nil => exact fun k hk => hk
    | cons w ws ih =>
      intro k hk
      rw [List.foldl_cons]
      split
      · next hp => exact ih _ (evict k w hp hk)
      · exact ih _ hk
  exact all _ m init

theorem coalFlush_poison {m : MuSt} {p : Nat → Bool} {w : Nat} : w ∈ (coalFlush m p).poison → w ∈ m.poison :=
  coalFlush_induct (P := fun k => w ∈ k.poison → w ∈ m.poison) m p id fun _ _ _ ih h => ih (coalEvict_poison h)

theorem coalFlush_keeps_line {m : MuSt} {p : Nat → Bool} {l : CoalLine} (hl : l ∈ m.coal) (hp : p l.word = false) :
    l ∈ (coalFlush m p).coal :=
  coalFlush_induct (P := fun k => l ∈ k.coal) m p hl fun _ w hw ih =>
    coalEvict_keeps_line ih fun e => by rw [e, hw] at hp; exact absurd hp (by simp)

theorem coalFlush_redo (m : MuSt) (p : Nat → Bool) : (coalFlush m p).redo = m.redo :=
  coalFlush_induct (P := fun k => k.redo = m.redo) m p rfl fun k w _ ih => (coalEvict_redo k w).trans ih

/-- R90, R97: an access after which every line of an uncorrectable word is still in the buffer has met no such word. -/
theorem muSet_of_lines_kept {s : State} {c : Nat} {m : MuSt}
    (h : ∀ l ∈ (getCell s c).mu.coal, l.word ∈ m.poison → l ∈ m.coal) : muSet s c m = setMu s c m := by
  have clean : rmwBad (getCell s c).mu m = none := by
    rw [rmwBad, Option.map_eq_none_iff, List.find?_eq_none]
    intro l hl bad
    simp only [Bool.and_eq_true, Bool.not_eq_true', List.contains_eq_mem, decide_eq_true_eq, List.any_eq_false, beq_iff_eq] at bad
    obtain ⟨⟨-, poisoned⟩, gone⟩ := bad
    exact gone l (h l hl poisoned) rfl
  rw [muSet, clean]

/-! ### The write generator, R93, R94 -/

theorem leaving_of_no_wave {s : State} (h : s.job.churn.wave.active = false) (c : Nat) : leaving s c = false := by simp [leaving, h]

/-- The local input from which the write generator takes its entries. -/
abbrev wrKey (g : GenRec) : Nat := if g.net = 0 then locKey 0 6 else locKey 1 5

/-- R99: where the write generator of cell `c` writes its next element. -/
abbrev wrAddr (s : State) (c : Nat) : Nat :=
  let g := wrGen (getRec s c).mu
  let m := (getCell s c).mu
  regionBase (region (getRec s c).mu g.region) (beatHalf m g.region) + (genElem g m.wr.elem).toNat * genWidth g

section
variable {s : State} {c : Nat} {e : Entry} {rest : List Entry} (hr : jobRuns s = true) (hw : s.job.churn.wave.active = false)
  (hq : getQ (getCell s c) (wrKey (wrGen (getRec s c).mu)) = e :: rest) (hen : (wrGen (getRec s c).mu).enable = true)
  (hm : (wrGen (getRec s c).mu).mode ≠ 1) (hwait : (getCell s c).mu.wr.waits = false)
  (hdone : genDone (wrGen (getRec s c).mu) (getCell s c).mu.wr = false)
include hr hw hq hen hm hwait hdone

theorem genWrite_moves (hnot : genDone (wrGen (getRec s c).mu)
      (genStep (wrGen (getRec s c).mu) (region (getRec s c).mu (wrGen (getRec s c).mu).region).double (getCell s c).mu.wr) = false)
    (hel : 0 ≤ genElem (wrGen (getRec s c).mu) (getCell s c).mu.wr.elem)
    (fits : ((genElem (wrGen (getRec s c).mu) (getCell s c).mu.wr.elem).toNat + 1) * genWidth (wrGen (getRec s c).mu) ≤
      regionSize (region (getRec s c).mu (wrGen (getRec s c).mu).region))
    (ready : bankReady (getCell s c).mu (wrAddr s c) = true) :
    genWrite s c =
      let g := wrGen (getRec s c).mu
      let u := muPut (setCell s c (setQ (getCell s c) (wrKey g) rest)) c (wrAddr s c) (leBytes (genWidth g) e.data.toNat) true
      setMu u c { (getCell u c).mu with wr := genStep g (region (getRec s c).mu g.region).double (getCell s c).mu.wr } := by
  unfold wrAddr at ready
  simp only [genWrite, hq, hr, hen, hm, hwait, hdone, leaving_of_no_wave hw, hnot, ready, Int.not_lt.2 hel, Nat.not_lt.2 fits,
    Bool.not_true, Bool.or_self, Bool.and_false, Bool.false_eq_true, Bool.true_eq_false, or_self, if_false]
  exact muSet_of_lines_kept fun l hl _ => hl

/-- R93: an element outside the region is a precise fault; the entry has been taken. -/
theorem genWrite_outside (out : regionSize (region (getRec s c).mu (wrGen (getRec s c).mu).region) <
      ((genElem (wrGen (getRec s c).mu) (getCell s c).mu.wr.elem).toNat + 1) * genWidth (wrGen (getRec s c).mu)) :
    genWrite s c =
      muFault (setCell s c (setQ (getCell s c) (wrKey (wrGen (getRec s c).mu)) rest)) c Code.addrOutOfRegion (wrAddr s c) := by
  simp only [genWrite, hq, hr, hen, hm, hwait, hdone, leaving_of_no_wave hw, out, Bool.not_true, Bool.or_self, Bool.and_false,
    Bool.false_eq_true, or_true, if_false, if_true]

end

/-! ### The read generator, R93, R95 -/

/-- R93: the bytes of an entry on a network. -/
abbrev rdBytes (g : GenRec) : Nat := if g.net = 0 then 64 else 4

/-- R99: where the read generator of cell `c` reads its next element. -/
abbrev rdAddr (s : State) (c : Nat) : Nat :=
  let g := rdGen (getRec s c).mu
  let r := region (getRec s c).mu g.region
  let m := (getCell s c).mu
  regionBase r (if r.double then !beatHalf m g.region else false) + (genElem g m.rd.elem).toNat * rdBytes g

/-- R93: an element of the read generator lies in one word. -/
theorem element_in_word (r : Region) (h : Bool) (k : Nat) (g : GenRec) :
    (regionBase r h + k * rdBytes g + rdBytes g - 1) / 64 = (regionBase r h + k * rdBytes g) / 64 := by
  obtain ⟨b, hb⟩ : ∃ b, regionBase r h = b * 49152 := ⟨_, rfl⟩
  rw [hb, rdBytes]
  split <;> omega

/-- R97: the lines that stay in the buffer when one word is read. -/
theorem muRead_keeps_lines {m : MuSt} {a n : Nat} (word : (a + n - 1) / 64 = a / 64) (good : a / 64 ∉ m.poison) :
    ∀ l ∈ m.coal, l.word ∈ (muRead m a n).2.poison → l ∈ (muRead m a n).2.coal := by
  intro l hl bad
  have other : l.word ≠ a / 64 := fun e => good (e ▸ coalFlush_poison bad)
  refine coalFlush_keeps_line hl ?_
  simp only [word, Bool.and_eq_false_iff, decide_eq_false_iff_not]
  omega

section
variable {s : State} {c : Nat} (hr : jobRuns s = true) (hw : s.job.churn.wave.active = false)
  (hen : (rdGen (getRec s c).mu).enable = true) (hm : (rdGen (getRec s c).mu).mode = 0) (hwait : (getCell s c).mu.rd.waits = false)
  (hdone : genDone (rdGen (getRec s c).mu) (getCell s c).mu.rd = false)
  (room : (getWire (getCell s c) (inKey (rdGen (getRec s c).mu).net 5)).length +
    (getQ (getCell s c) (inKey (rdGen (getRec s c).mu).net 5)).length < qDepth c (rdGen (getRec s c).mu).net 5)
include hr hw hen hm hwait hdone room

theorem genRead_strided (check : Check) : genRead s c check =
    let g := rdGen (getRec s c).mu
    let p := (getCell s c).mu.rd
    let r := region (getRec s c).mu g.region
    let q := genStep g r.double p
    if genElem g p.elem < 0 ∨ regionSize r < ((genElem g p.elem).toNat + 1) * rdBytes g then muFault s c Code.addrOutOfRegion (rdAddr s c)
    else if bankReady (getCell s c).mu (rdAddr s c) = false then setCell s c (getCell s c)
    else genSend s c g (rdAddr s c) (genLast g p q) check fun m => { m with rd := q } := by
  have one_mode : ((0 : Nat) == 2) = false := rfl
  simp only [genRead, hr, hen, hm, hwait, hdone, leaving_of_no_wave hw, decide_eq_false (Nat.not_le.2 room), one_mode, Bool.not_true,
    Bool.or_self, Bool.and_false, Bool.false_and, Bool.false_eq_true, OfNat.zero_ne_ofNat, zero_ne_one, if_false]

theorem genRead_outside (out : regionSize (region (getRec s c).mu (rdGen (getRec s c).mu).region) <
      ((genElem (rdGen (getRec s c).mu) (getCell s c).mu.rd.elem).toNat + 1) * rdBytes (rdGen (getRec s c).mu)) (check : Check) :
    genRead s c check = muFault s c Code.addrOutOfRegion (rdAddr s c) := by
  rw [genRead_strided hr hw hen hm hwait hdone room]
  exact if_pos (.inr out)

theorem genRead_inside (hel : 0 ≤ genElem (rdGen (getRec s c).mu) (getCell s c).mu.rd.elem)
    (fits : ((genElem (rdGen (getRec s c).mu) (getCell s c).mu.rd.elem).toNat + 1) * rdBytes (rdGen (getRec s c).mu) ≤
      regionSize (region (getRec s c).mu (rdGen (getRec s c).mu).region))
    (ready : bankReady (getCell s c).mu (rdAddr s c) = true) (check : Check) :
    genRead s c check =
      let g := rdGen (getRec s c).mu
      let p := (getCell s c).mu.rd
      let q := genStep g (region (getRec s c).mu g.region).double p
      genSend s c g (rdAddr s c) (genLast g p q) check fun m => { m with rd := q } := by
  rw [genRead_strided hr hw hen hm hwait hdone room]
  exact (if_neg (not_or.2 ⟨Int.not_lt.2 hel, Nat.not_lt.2 fits⟩)).trans (if_neg (by rw [ready]; nofun))

end

/-- R93, R95: the word that is read leaves, and the generator advances. -/
theorem genSend_sends {s : State} {c a : Nat} {g : GenRec} (hm : g.mode = 0) (good : a / 64 ∉ (getCell s c).mu.poison)
    (word : (a + rdBytes g - 1) / 64 = a / 64) (last : Bool) (q : GenPos) :
    genSend s c g a last .clean (fun m => { m with rd := q }) =
      let v := muRead (getCell s c).mu a (rdBytes g)
      unitSend (setMu (noteRead s c a (rdBytes g)) c { v.2 with rd := q }) c g.net 5 [⟨BitVec.ofNat 512 (leNat v.1), last⟩] := by
  simp only [genSend, hm, List.contains_eq_mem, good, decide_false, Bool.false_eq_true, reduceCtorEq, if_false]
  rw [muSet_of_lines_kept]
  exact muRead_keeps_lines word good

theorem genSend_uncorrectable {s : State} {c a : Nat} (good : a / 64 ∉ (getCell s c).mu.poison) (g : GenRec) (last : Bool)
    (step : MuSt → MuSt) : genSend s c g a last .uncorrectable step = muBadWord s c a false := by
  simp [genSend, good]

/-! ### Requests for flips, R100 -/

theorem flipRequest_waits {s : State} {c : Nat} (h : (getCell s c).mu.flip ≠ 0) : flipRequest s c = s := by
  have pending : ((getCell s c).mu.flip != 0) = true := bne_iff_ne.2 h
  simp only [flipRequest, pending, Bool.or_true, if_true]

theorem flipRequest_of_op {s : State} {c : Nat} {m : FlipAsk} {ms : List FlipAsk} (hr : jobRuns s = true)
    (hf : (getCell s c).mu.flip = 0) (hm : (getCell s c).mu.flipQ = m :: ms)
    (first : getQ (getCell s c) (locKey 2 5) = [] ∨ m.behind = 0) :
    flipRequest s c = setMu s c { (getCell s c).mu with flip := m.regions, flipTok := m.repeats, flipQ := ms } := by
  have op : ((getQ (getCell s c) (locKey 2 5)).isEmpty || (getCell s c).mu.flipQ.head?.any fun p => p.behind == 0) = true := by
    rcases first with h | h <;> simp [hm, h]
  simp only [flipRequest, hr, hf, op, Bool.not_true, bne_self_eq_false, Bool.or_self, Bool.false_eq_true, if_false, if_true]
  rw [flipFromOp, hm]

/-- R100: a memory unit that has taken the token at the head of its control input as a request of the flips of `m`. -/
def tokenTaken (x : CellSt) (m : BitVec 8) (rest : List Entry) : CellSt :=
  { x with
    q := Tbl.set [] x.q (locKey 2 5) rest
    mu := { x.mu with flip := m, flipTok := true, flipQ := x.mu.flipQ.map fun p => { p with behind := p.behind - 1 } } }

theorem flipRequest_of_token {s : State} {c : Nat} {e : Entry} {rest : List Entry} (hr : jobRuns s = true)
    (hf : (getCell s c).mu.flip = 0) (later : ∀ p ∈ (getCell s c).mu.flipQ, p.behind ≠ 0)
    (hq : getQ (getCell s c) (locKey 2 5) = e :: rest) :
    flipRequest s c =
      let m := flipMask (getRec s c).mu (e.data.toNat % 256)
      let t := setCell s c (tokenTaken (getCell s c) m rest)
      if m = 0 then muFault t c Code.flipInvalid 0 else t := by
  have token : ((getQ (getCell s c) (locKey 2 5)).isEmpty || (getCell s c).mu.flipQ.head?.any fun p => p.behind == 0) = false := by
    cases asks : (getCell s c).mu.flipQ with
    | nil => simp [hq]
    | cons p ps => simpa [hq] using later p (by simp [asks])
  simp only [flipRequest, hr, hf, token, Bool.not_true, bne_self_eq_false, Bool.or_self, Bool.false_eq_true, if_false]
  rw [flipFromToken, hq]
  rfl

/-! ### A flip that waits, R99, R101 -/

theorem maskRegions_one (i : Fin 8) : maskRegions (1#8 <<< i.val) = [i.val] := by
  revert i
  decide

theorem genFree_of_ready {g : GenRec} {p : GenPos} {i : Nat} (h : g.enable = true → g.region = i → p.waits = true) (stops : Bool) :
    genFree g p i stops = true := by
  by_cases uses : g.enable = true ∧ g.region = i
  · simp [genFree, h uses.1 uses.2]
  · have : (g.enable && g.region == i) = false := by simpa using uses
    simp [genFree, this]

theorem genFree_of_busy {g : GenRec} {p : GenPos} {i : Nat} (hen : g.enable = true) (hg : g.region = i) (hw : p.waits = false)
    (hd : genDone g p = false) : genFree g p i false = false := by
  simp [genFree, hen, hg, hw, hd]

theorem flipTake_waits {s : State} {c i : Nat} (hi : i ∈ maskRegions (getCell s c).mu.flip) (h : flipReady s c i = false)
    (ready : Nat → Bool) : flipTake s c ready = ([], s) := by
  have held : ((maskRegions (getCell s c).mu.flip).all fun i => flipReady s c i && ready i) = false :=
    List.all_eq_false.2 ⟨i, hi, by simp [h]⟩
  simp only [flipTake, held, Bool.and_false, Bool.false_eq_true, if_false]

/-- R101: the flip waits for a generator that is in the midst of a nest. -/
theorem flipTakeEffect_waits {s : State} {c : Nat} {i : Fin 8} (hw : s.job.churn.wave.active = false)
    (hf : (getCell s c).mu.flip = 1#8 <<< i.val) (hen : (wrGen (getRec s c).mu).enable = true)
    (hg : (wrGen (getRec s c).mu).region = i) (hwait : (getCell s c).mu.wr.waits = false)
    (hdone : genDone (wrGen (getRec s c).mu) (getCell s c).mu.wr = false) : flipTakeEffect s c = s := by
  have busy : flipReady s c i = false := by
    simp only [flipReady, leaving_of_no_wave hw, genFree_of_busy hen hg hwait hdone, Bool.false_and]
  rw [flipTakeEffect, flipTake_waits (i := i) (by simp [hf, maskRegions_one]) busy]
  rfl

/-! ### A flip that takes effect, R101 -/

theorem foldl_idle {σ α : Type} {f : σ → α → σ} {s : σ} {l : List α} (h : ∀ a ∈ l, f s a = s) : l.foldl f s = s := by
  induction l with
  | nil => rfl
  | cons a l ih => rw [List.foldl_cons, h a List.mem_cons_self, ih fun b hb => h b (List.mem_cons_of_mem _ hb)]

/-- R101: only the memory unit's generators use region `i` of cell `c`: no window, stream, dispatch, collector or sender. -/
structure OnlyGenerators (s : State) (c i : Nat) : Prop where
  windows : winsOn s c i = []
  ladle : s.job.churn.tables.ladle = []
  senders : sendersOn s c i = []
  streams : ∀ k : Fin 4, (strDesc s (4 * c + k)).enable = false

section
variable {s : State} {c i : Nat}

theorem OnlyGenerators.setMu (h : OnlyGenerators s c i) (m : MuSt) : OnlyGenerators (setMu s c m) c i :=
  ⟨h.windows, h.ladle, h.senders, h.streams⟩

theorem OnlyGenerators.ready (h : OnlyGenerators s c i) : (strFlipReady s c i && ladFlipReady s c i && sendFlipReady s c i) = true := by
  have streams : strFlipReady s c i = true :=
    List.all_eq_true.2 fun k hk => by simp [h.streams ⟨k, List.mem_range.1 hk⟩]
  have none : ladDisps (ladSec s) = 0 ∧ ladColls (ladSec s) = 0 := by
    rw [ladSec, h.ladle]
    exact ⟨rfl, rfl⟩
  have coll : collFlipReady s c i = true := by simp [collFlipReady, collAt, none.2]
  simp [streams, ladFlipReady, none, coll, sendFlipReady, h.senders]

/-- R101: with nobody else at the region, a flip does nothing outside the memory unit. -/
theorem OnlyGenerators.flipped (h : OnlyGenerators s c i) (again : Bool) :
    sendFlipped (ladFlipped (strFlipped s c i) c i again) c i = s := by
  have streams : strFlipped s c i = s :=
    foldl_idle fun k hk => by simp [h.streams ⟨k, List.mem_range.1 hk⟩]
  have none : ladDisps (ladSec s) = 0 ∧ ladColls (ladSec s) = 0 := by
    rw [ladSec, h.ladle]
    exact ⟨rfl, rfl⟩
  have ladle : ladFlipped s c i again = s := by simp [ladFlipped, none]
  rw [streams, ladle, sendFlipped, h.senders]
  rfl

theorem OnlyGenerators.homeAnswers (h : OnlyGenerators s c i) : homeAnswers s c i = false := by
  have none : ladDisps s.job.churn.tables.ladle = 0 := by
    rw [h.ladle]
    rfl
  simp [Machine.homeAnswers, none]

end

/-- R101: a memory unit whose pending flip takes effect. -/
def flipTaken (m : MuSt) : MuSt :=
  { m with flip := 0, flipTok := false, opTook := if m.flipTok then m.opTook else m.opTook ++ [m.flip] }

/-- R99: a memory unit whose generators, by record `mu`, no longer wait for the flip of region `i`. -/
def gensRestarted (mu : List Byte) (m : MuSt) (i : Nat) : MuSt :=
  { m with
    wr := if (wrGen mu).region = i then { m.wr with waits := false } else m.wr
    rd := if (rdGen mu).region = i then { m.rd with waits := false } else m.rd }

/-- R101: a memory unit in which the halves of region `i` have exchanged their roles. -/
def halvesExchanged (m : MuSt) (i : Nat) : MuSt := { m with fillHalf := m.fillHalf ^^^ (1#8 <<< i), real := upd m.real i (· + 1) }

theorem flipTake_takes {s : State} {c : Nat} {i : Fin 8} (hr : jobRuns s = true) (hf : (getCell s c).mu.flip = 1#8 <<< i.val)
    (ack : (region (getRec s c).mu i).ack = false) (only : OnlyGenerators s c i)
    (hwr : (wrGen (getRec s c).mu).enable = true → (wrGen (getRec s c).mu).region = i → (getCell s c).mu.wr.waits = true)
    (hrd : (rdGen (getRec s c).mu).enable = true → (rdGen (getRec s c).mu).region = i → (getCell s c).mu.rd.waits = true)
    {ready : Nat → Bool} (others : ready i = true) :
    flipTake s c ready = ([i.val], flipRegion (setMu s c (flipTaken (getCell s c).mu)) c i) := by
  have free : flipReady s c i = true := by
    simp [flipReady, genFree_of_ready hwr, genFree_of_ready hrd, only.windows]
  have regions : maskRegions (getCell s c).mu.flip = [i.val] := by rw [hf, maskRegions_one]
  have no_acks : ([i.val].filter fun k => (region (getRec s c).mu k).ack).length = 0 := by simp [ack]
  simp only [flipTake, regions, hr, no_acks, List.all_cons, List.all_nil, free, others, only.homeAnswers, Bool.and_self, Bool.and_true,
    Bool.or_false, List.isEmpty_cons, Bool.not_false, beq_self_eq_true, Bool.true_or, if_true, List.foldl_cons, List.foldl_nil]
  rfl

theorem halvesSwap_of_onlyGenerators {s : State} {c i : Nat} (only : OnlyGenerators s c i) :
    halvesSwap s c i = setMu s c (halvesExchanged (getCell s c).mu i) := by
  have windows := fun m => (only.setMu m).windows
  simp only [halvesSwap, only.homeAnswers, windows, List.foldl_nil, Bool.false_eq_true, if_false]
  rfl

/-- R90, R97: a flush meets no uncorrectable word where the memory unit has none. -/
theorem muSet_flushed {s : State} {c : Nat} (good : (getCell s c).mu.poison = []) (p : Nat → Bool) (mu : List Byte) (i : Nat) :
    muSet s c (gensRestarted mu (coalFlush (getCell s c).mu p) i) = setMu s c (gensRestarted mu (coalFlush (getCell s c).mu p) i) :=
  muSet_of_lines_kept fun _ _ bad => absurd (coalFlush_poison bad) (by simp [good])

theorem flipRegion_without_ack {s : State} {c i : Nat} (ack : (region (getRec s c).mu i).ack = false) :
    flipRegion s c i =
      let mu := (getRec s c).mu
      let t := muSet s c (gensRestarted mu (coalFlush (getCell s c).mu (inRegion (region mu i))) i)
      if flipsOwed (getCell t c).mu i = 0 then halvesSwap t c i else flipAgain t c i := by
  simp only [flipRegion, ack, Bool.false_eq_true, if_false]
  rfl

/-- R101: the flip of a region that only the generators use, where no word is known to be uncorrectable. The table of cells must be in its
canonical form, since the cell is read again after each write. -/
theorem flipRegion_exchanges {s : State} {c i : Nat} (hs : CellsCanonical s) (ack : (region (getRec s c).mu i).ack = false)
    (only : OnlyGenerators s c i) (owed : flipsOwed (getCell s c).mu i = 0) (good : (getCell s c).mu.poison = []) :
    flipRegion s c i =
      let mu := (getRec s c).mu
      setMu s c (halvesExchanged (gensRestarted mu (coalFlush (getCell s c).mu (inRegion (region mu i))) i) i) := by
  have stands (mu : List Byte) (p : Nat → Bool) : flipsOwed (gensRestarted mu (coalFlush (getCell s c).mu p) i) i = 0 := by
    rw [flipsOwed, gensRestarted, coalFlush_redo]
    exact owed
  rw [flipRegion_without_ack ack]
  dsimp only
  rw [muSet_flushed good, getCell_setMu hs, if_pos (stands ..), halvesSwap_of_onlyGenerators (only.setMu _), getCell_setMu hs,
    setMu_setMu hs]

/-- R101: a flip takes effect: the lines of the region are flushed, its halves exchange their roles, and its generators go on. -/
theorem flipTakeEffect_exchanges {s : State} {c : Nat} {i : Fin 8} (hs : CellsCanonical s) (hr : jobRuns s = true)
    (hf : (getCell s c).mu.flip = 1#8 <<< i.val) (ack : (region (getRec s c).mu i).ack = false) (only : OnlyGenerators s c i)
    (hwr : (wrGen (getRec s c).mu).enable = true → (wrGen (getRec s c).mu).region = i → (getCell s c).mu.wr.waits = true)
    (hrd : (rdGen (getRec s c).mu).enable = true → (rdGen (getRec s c).mu).region = i → (getCell s c).mu.rd.waits = true)
    (owed : flipsOwed (getCell s c).mu i = 0) (good : (getCell s c).mu.poison = []) :
    flipTakeEffect s c =
      let mu := (getRec s c).mu
      let u := setMu s c (flipTaken (getCell s c).mu)
      setMu u c (halvesExchanged (gensRestarted mu (coalFlush (getCell u c).mu (inRegion (region mu i))) i) i) := by
  have exchanged := flipRegion_exchanges (s := setMu s c (flipTaken (getCell s c).mu)) (cellsCanonical_setCell hs _ _) ack (only.setMu _)
    (by rw [getCell_setMu hs]; exact owed) (by rw [getCell_setMu hs]; exact good)
  rw [flipTakeEffect, flipTake_takes hr hf ack only hwr hrd only.ready, exchanged]
  exact ((only.setMu _).setMu _).flipped _

/-! ### The obligation -/

/-- What the spec asks of a memory unit's generators and flips (R93 to R101) holds wherever the table of cells is in its canonical form;
`not_memoryUnits` shows that its last clause but one needs that. -/
theorem memoryUnits_of_cellsCanonical :
    ∀ (s : State) (c : Cell), CellsCanonical s → jobRuns s = true → s.job.churn.wave.active = false → s.job.ckpt = none →
      let x := getCell s c
      let mu := (getRec s c).mu
      (∀ (e : Entry) (rest : List Entry),
        let g := wrGen mu
        let r := region mu g.region
        let key := if g.net = 0 then locKey 0 6 else locKey 1 5
        let a := regionBase r (beatHalf x.mu g.region) + (genElem g x.mu.wr.elem).toNat * genWidth g
        let q := genStep g r.double x.mu.wr
        getQ x key = e :: rest → g.enable = true → g.mode ≠ 1 → x.mu.wr.waits = false → genDone g x.mu.wr = false →
          genDone g q = false →
          0 ≤ genElem g x.mu.wr.elem →
          (((genElem g x.mu.wr.elem).toNat + 1) * genWidth g ≤ regionSize r → bankReady x.mu a = true →
              Ends (.muGeneratorAccess c true .clean) s fun t =>
            let u := muPut (setCell s c (setQ x key rest)) c a (leBytes (genWidth g) e.data.toNat) true
            t = setMu u c { (getCell u c).mu with wr := q }) ∧
          (regionSize r < ((genElem g x.mu.wr.elem).toNat + 1) * genWidth g → Ends (.muGeneratorAccess c true .clean) s fun t =>
            t.jobc = { s.jobc with st := 2, fault := 0x0301 } ∧ getCell t c = getCell (setCell s c (setQ x key rest)) c)) ∧
      (let g := rdGen mu
        let r := region mu g.region
        let key := inKey g.net 5
        let n := if g.net = 0 then 64 else 4
        let a := regionBase r (if r.double then !beatHalf x.mu g.region else false) + (genElem g x.mu.rd.elem).toNat * n
        let q := genStep g r.double x.mu.rd
        g.enable = true → g.mode = 0 → x.mu.rd.waits = false → genDone g x.mu.rd = false → 0 ≤ genElem g x.mu.rd.elem →
          (getWire x key).length + (getQ x key).length < qDepth c g.net 5 →
          (((genElem g x.mu.rd.elem).toNat + 1) * n ≤ regionSize r → bankReady x.mu a = true → a / 64 ∉ x.mu.poison →
            Ends (.muGeneratorAccess c false .clean) s fun t =>
              let v := muRead x.mu a n
              t = unitSend (setMu (noteRead s c a n) c { v.2 with rd := q }) c g.net 5
                [⟨BitVec.ofNat 512 (leNat v.1), genLast g x.mu.rd q⟩]) ∧
          (regionSize r < ((genElem g x.mu.rd.elem).toNat + 1) * n → Ends (.muGeneratorAccess c false .clean) s fun t =>
            t.jobc = { s.jobc with st := 2, fault := 0x0301 } ∧ getCell t c = x) ∧
          (((genElem g x.mu.rd.elem).toNat + 1) * n ≤ regionSize r → bankReady x.mu a = true → a / 64 ∉ x.mu.poison →
            s.ras.testing = false →
            Ends (.muGeneratorAccess c false .uncorrectable) s fun t => t.jobc = { s.jobc with st := 2, fault := 0x0309 })) ∧
      (∀ (m : FlipAsk) (ms : List FlipAsk), x.mu.flip = 0 → x.mu.flipQ = m :: ms → getQ x (locKey 2 5) = [] ∨ m.behind = 0 →
        Ends (.flipRequest c) s fun t =>
          t = setCell s c { x with mu := { x.mu with flip := m.regions, flipTok := m.repeats, flipQ := ms } }) ∧
      (∀ (e : Entry) (rest : List Entry), x.mu.flip = 0 → (∀ p ∈ x.mu.flipQ, p.behind ≠ 0) → getQ x (locKey 2 5) = e :: rest →
        let m := flipMask mu (e.data.toNat % 256)
        (m ≠ 0 → Ends (.flipRequest c) s fun t =>
          t = setCell s c { x with
            q := Tbl.set [] x.q (locKey 2 5) rest
            mu := { x.mu with flip := m, flipTok := true, flipQ := x.mu.flipQ.map fun p => { p with behind := p.behind - 1 } } }) ∧
        (m = 0 → Ends (.flipRequest c) s fun t => t.jobc = { s.jobc with st := 2, fault := 0x030A })) ∧
      (x.mu.flip ≠ 0 → Ends (.flipRequest c) s fun t => t = s) ∧
      (∀ (i : Fin 8), x.mu.flip = 1#8 <<< i.val → (region mu i).ack = false → winsOn s c i = [] → s.job.churn.tables.ladle = [] →
          sendersOn s c i = [] → (∀ k : Fin 4, (strDesc s (4 * c + k)).enable = false) →
          ((wrGen mu).enable = true → (wrGen mu).region = i → x.mu.wr.waits = true) →
          ((rdGen mu).enable = true → (rdGen mu).region = i → x.mu.rd.waits = true) →
          flipsOwed x.mu i = 0 → x.mu.poison = [] → Ends (.flipTakeEffect c) s fun t =>
        let u := setMu s c { x.mu with
          flip := 0, flipTok := false, opTook := if x.mu.flipTok then x.mu.opTook else x.mu.opTook ++ [x.mu.flip] }
        let m := coalFlush (getCell u c).mu (inRegion (region mu i))
        t = setMu u c { m with
          fillHalf := m.fillHalf ^^^ (1#8 <<< i.val), real := upd m.real i (· + 1)
          wr := if (wrGen mu).region = i then { m.wr with waits := false } else m.wr
          rd := if (rdGen mu).region = i then { m.rd with waits := false } else m.rd }) ∧
      (∀ (i : Fin 8), x.mu.flip = 1#8 <<< i.val → (wrGen mu).enable = true → (wrGen mu).region = i → x.mu.wr.waits = false →
          genDone (wrGen mu) x.mu.wr = false → Ends (.flipTakeEffect c) s fun t => t = s) := by
  intro s c hs hr hw hk x mu
  have hst := jobRuns_st hr
  refine ⟨fun e rest hq hen hm hwait hdone hnot hel =>
      ⟨fun fits ready => ends_eq ?_, fun out => ⟨_, exec_muGeneratorAccess_write .., ?_⟩⟩,
    fun hen hm hwait hdone hel room => ⟨fun fits ready good => ends_eq ?_, fun out => ⟨_, exec_muGeneratorAccess_read .., ?_⟩,
      fun fits ready good ht => ⟨_, exec_muGeneratorAccess_read .., ?_⟩⟩,
    fun m ms hf hm first => ends_eq ?_,
    fun e rest hf later hq => ⟨fun some_region => ends_eq ?_, fun no_region => ⟨_, exec_flipRequest .., ?_⟩⟩,
    fun pending => ends_eq ?_, fun i hf ack wins ladle senders streams hwr hrd owed good => ends_eq ?_,
    fun i hf hen hg hwait hdone => ends_eq ?_⟩
  · rw [exec_muGeneratorAccess_write, genWrite_moves hr hw hq hen hm hwait hdone hnot hel fits ready]
  · rw [genWrite_outside hr hw hq hen hm hwait hdone out]
    exact ⟨muFault_jobc (by exact hst) .., getCell_congr (muFault_job (by exact hst) ..) c⟩
  · rw [exec_muGeneratorAccess_read, genRead_inside hr hw hen hm hwait hdone room hel fits ready,
      genSend_sends hm good (element_in_word ..)]
  · rw [genRead_outside hr hw hen hm hwait hdone room out]
    exact ⟨muFault_jobc hst .., getCell_congr (muFault_job hst ..) c⟩
  · rw [genRead_inside hr hw hen hm hwait hdone room hel fits ready, genSend_uncorrectable good]
    exact muBadWord_jobc hst hk ht ..
  · rw [exec_flipRequest, flipRequest_of_op hr hf hm first]
    rfl
  · rw [exec_flipRequest, flipRequest_of_token hr hf later hq]
    exact congrArg _ (if_neg some_region)
  · rw [flipRequest_of_token hr hf later hq]
    exact (congrArg State.jobc (if_pos no_region)).trans (muFault_jobc (by exact hst) ..)
  · rw [exec_flipRequest, flipRequest_waits pending]
  · rw [exec_flipTakeEffect, flipTakeEffect_exchanges hs hr hf ack ⟨wins, ladle, senders, streams⟩ hwr hrd owed good]
    rfl
  · rw [exec_flipTakeEffect, flipTakeEffect_waits hw hf hen hg hwait hdone]

/-- A cell in which the flip of region 0 is pending on a token's request, and which else is as after reset. -/
def flippingCell : CellSt := { mu := { flip := 1, flipTok := true } }

/-- A cell in which a replay has yet to meet a flip of region 0 again. -/
def owingCell : CellSt := { mu := { redo := [1, 0, 0, 0, 0, 0, 0, 0] } }

/-- A running job whose table of cells lists cell 0 twice. -/
def cellListedTwice : State :=
  { State.reset with
    jobc := { State.reset.jobc with st := 1 }
    job := { State.reset.job with grid := { cells := [(0, flippingCell), (0, owingCell)] } } }

/-- Refutes O48: the statement asks nothing of the table of cells. Where the table lists cell 0 twice, the flip that takes effect leaves the
first entry as after reset, which is not listed, so that the second shows in its place; it owes a flip, and the halves are not exchanged.
With a canonical table the statement holds: `memoryUnits_of_cellsCanonical`. -/
theorem not_memoryUnits : ¬ Obligations.MemoryUnits := by
  intro h
  obtain ⟨-, -, -, -, -, flips, -⟩ := h cellListedTwice 0 (by decide) rfl rfl
  obtain ⟨t, ht, exchanged⟩ := flips 0 rfl (by decide) (by decide) rfl (by decide) (by decide) (by decide) (by decide) (by decide) rfl
  rw [exec_flipTakeEffect] at ht
  injection ht with ht
  rw [← ht] at exchanged
  exact absurd (congrArg (fun t => (getCell t 0).mu.fillHalf) exchanged) (by decide)

end Sys2Proof.Machine
end

section
/-! PROOF. The operations on configurations (R144, R145, R154), on streams (R172, R173, R175, R178) and on flips (R100): what each operation
does, one lemma for each outcome, and O13. -/

namespace Sys2Proof.Machine

theorem exec_creg (c : Ctx) (rd rs1 : GReg) (s : State) : exec (.creg c rd rs1) s = execCreg c rd rs1 s := rfl

theorem exec_cload (c : Ctx) (rd rs1 : GReg) (s : State) : exec (.cload c rd rs1) s = execCload c rd rs1 s := rfl

theorem exec_cswap (c : Ctx) (rd : GReg) (s : State) : exec (.cswap c rd) s = execCswap c rd s := rfl

theorem exec_crel (c : Ctx) (rd rs1 : GReg) (s : State) : exec (.crel c rd rs1) s = execCrel c rd rs1 s := rfl

theorem exec_arm (c : Ctx) (rd rs1 : GReg) (s : State) : exec (.arm c rd rs1) s = execArm c rd rs1 s := rfl

theorem exec_rearm (c : Ctx) (rd rs1 rs2 rs3 : GReg) (imm : Option (BitVec 32)) (s : State) :
    exec (.rearm c rd rs1 rs2 rs3 imm) s = execRearm c rd rs1 rs2 rs3 imm s := rfl

theorem exec_resume (c : Ctx) (rd rs1 : GReg) (s : State) : exec (.resume c rd rs1) s = execResume c rd rs1 s := rfl

theorem exec_sbase (c : Ctx) (rd rs1 rs2 : GReg) (s : State) : exec (.sbase c rd rs1 rs2) s = execSbase c rd rs1 rs2 s := rfl

theorem exec_flip (c : Ctx) (rd rs1 rs2 : GReg) (s : State) : exec (.flip c rd rs1 rs2) s = execFlip c rd rs1 rs2 s := rfl

/-! ### Operations of the running job, R329, R330 -/

/-- R329, R330: a synchronous operation with no result, of a unit that leaves `u`, ends in `u` with its status in `rd`. -/
theorem next_syncOp_status {s u : State} {c : Ctx} {rd op sub d s1 s2 s3 : Nat} {st : Status} {f : State → Status × Nat × State}
    (h : Sized s) (hat : At s c (wordD op sub d s1 s2 s3) none) (hj : s.jobc.st = 1) (hf : f (moved s c 4) = (st, 0, u))
    (hu : u.raler = (moved s c 4).raler) :
    (.next (syncOp s c rd (encD op sub d s1 s2 s3) f) : Host.Outcome State Fault Refusal) =
      .next { u with raler := (wrote s c rd (BitVec.ofNat 64 st.toNat) 4).raler } :=
  next_syncOp h hat hj hf hu (by rw [Nat.zero_mul, Nat.add_zero])

/-- R329: an asynchronous operation that its unit accepts, leaving `u`, ends in `u` with its ticket and result `r` in `rd`. -/
theorem next_asyncOp_accepted {s t u : State} {c : Ctx} {rd r op sub d s1 s2 s3 : Nat} {f : OpRef → State → Status × Nat × State}
    (h : Sized s) (hat : At s c (wordD op sub d s1 s2 s3) none) (hj : s.jobc.st = 1)
    (hf : f (opOf s c) (moved s c 4) = (Code.ok, r, u)) (hu : u.raler = (moved s c 4).raler)
    (ht : { u with raler := (issued s c rd (ticketAfter s c) r).raler } = t) :
    (.next (asyncOp s c rd (encD op sub d s1 s2 s3) f) : Host.Outcome State Fault Refusal) = .next t := by
  rw [encD_word, asyncOp_at hat hj, asyncIssue_accepted h (ctxRuns_st hat.1) hf hu, ht]

/-- R329: an asynchronous operation that its unit refuses with `st` writes that status, and nothing else is done. -/
theorem next_asyncOp_refused {s : State} {c : Ctx} {rd op sub d s1 s2 s3 : Nat} {st : Status}
    {f : OpRef → State → Status × Nat × State} (h : Sized s) (hat : At s c (wordD op sub d s1 s2 s3) none)
    (hj : s.jobc.st = 1) (hs : st ≠ Code.ok)
    (hf : f (opOf s c) (moved s c 4) = (st, 0, moved s c 4)) :
    (.next (asyncOp s c rd (encD op sub d s1 s2 s3) f) : Host.Outcome State Fault Refusal) =
      .next (wrote s c rd (BitVec.ofNat 64 st.toNat) 4) := by
  rw [encD_word, asyncOp_at hat hj, asyncIssue_refused h (ctxRuns_st hat.1) hs hf]

/-! ### The image table, R144, R154 -/

theorem getImg_setImg {s : State} {i : Nat} (h : i < s.job.churn.images.length) (v : ImgSlot) : getImg (setImg s i v) i = v := by
  simp [getImg, setImg, setChurn, nth, h]

theorem getImg_setImg_ne {s : State} {i j : Nat} (h : i ≠ j) (v : ImgSlot) : getImg (setImg s i v) j = getImg s j := by
  simp [getImg, setImg, setChurn, nth, h]

theorem Sized.img_lt {s : State} (h : Sized s) {i : Nat} (hi : i < 64) : i < s.job.churn.images.length := by
  obtain ⟨-, -, -, -, -, -, -, -, ⟨-, images, -⟩, -⟩ := h
  omega

/-- R447: the free choice is one of the candidates. -/
theorem nth_choose_mem {l : List Nat} (h : l ≠ []) (s : State) : nth 0 l (choose s l.length).1 ∈ l := by
  have below : (choose s l.length).1 < l.length := Nat.mod_lt _ (List.length_pos_iff.2 h)
  rw [nth, List.getD_eq_getElem _ _ below]
  exact List.getElem_mem below

/-- What a registration at `addr` for operation `o` puts into slot `i`: a slot that is checking. -/
structure Registering (o : OpRef) (addr i : Nat) (v : ImgSlot) : Prop where
  st : v.st = 1
  addr : v.addr = addr
  forOp : v.forOp = { o with imm := BitVec.ofNat 16 i }

/-- R144, R447: a registration takes one of the free slots, by the model's choice. -/
theorem imgRegister_registers {s : State} {addr : Nat} (below : addr < 2 ^ 48) (aligned : addr % 4096 = 0)
    (free : ∃ i, i < 64 ∧ (getImg s i).st = 0) (o : OpRef) :
    ∃ i < 64, (getImg s i).st = 0 ∧ ∃ v, Registering o addr i v ∧
      imgRegister s o addr = (Code.ok, i, setImg { s with free := s.free + 1 } i v) := by
  have some_free : ((List.range 64).filter fun i => (getImg s i).st == 0) ≠ [] := by
    obtain ⟨i, hi, hst⟩ := free
    exact List.ne_nil_of_mem (List.mem_filter.2 ⟨List.mem_range.2 hi, by simp [hst]⟩)
  obtain ⟨in_table, is_free⟩ := List.mem_filter.1 (nth_choose_mem some_free s)
  have legal : ¬ (2 ^ 48 ≤ addr ∨ addr % 4096 ≠ 0) := by omega
  refine ⟨_, List.mem_range.1 in_table, by simpa using is_free, ?slot, ?registering, ?registers⟩
  case registers =>
    rw [imgRegister, if_neg legal, if_neg (by simpa using some_free)]
    rfl
  case registering => exact ⟨rfl, rfl, rfl⟩

theorem imgRelease_failed {s : State} {i : Nat} (hi : i < 64) (failed : (getImg s i).st = 3) :
    imgRelease s i = (Code.ok, setImg s i {}) := by
  simp [imgRelease, Nat.not_le.2 hi, failed]

theorem imgRelease_checking {s : State} {i : Nat} (hi : i < 64) (checking : (getImg s i).st = 1) :
    imgRelease s i = (Code.busy, s) := by
  simp [imgRelease, Nat.not_le.2 hi, checking]

/-! ### Loads and swaps, R145, R154 -/

/-- R145: a load of a registered image into an EMPTY shadow begins. -/
theorem shadowLoad_begins {s : State} {i : Nat} (hi : i < 64) (registered : (getImg s i).st = 2) (empty : s.job.churn.shadow.st = 0)
    (bare : s.job.churn.shadow.recs = []) (still : s.job.churn.wave.active = false) (o : OpRef) :
    shadowLoad s o i = (Code.ok, setChurn s { s.job.churn with
      shadow := { st := 1, slot := i, forOp := o, waiting := s.job.churn.shadow.waiting } }) := by
  have dropped : dropShadow s = setChurn s { s.job.churn with shadow := { waiting := s.job.churn.shadow.waiting } } := by
    rw [dropShadow, bare]
    rfl
  simp [shadowLoad, Nat.not_le.2 hi, registered, empty, still, dropped, setChurn]

theorem shadowLoad_unregistered {s : State} {i : Nat} (hi : i < 64) (unregistered : (getImg s i).st ≠ 2) (o : OpRef) :
    shadowLoad s o i = (Code.notRegistered, s) := by
  rw [shadowLoad, if_neg (Nat.not_le.2 hi), if_pos unregistered]

/-- R154: a swap of a READY shadow begins. -/
theorem swap_begins {s : State} (ready : s.job.churn.shadow.st = 2) (alone : s.job.churn.shadow.waiting = none)
    (still : s.job.churn.wave.active = false) (sound : footprintBad s s.job.churn.shadow.recs = none) (o : OpRef) :
    swap s o = (Code.ok, beginSwap s o) := by
  simp [swap, ready, alone, still, sound]

theorem swap_empty {s : State} (empty : s.job.churn.shadow.st = 0) (o : OpRef) : swap s o = (Code.notLoaded, s) := by
  rw [swap, if_pos empty]

/-! ### What a transfer meets, R109, R175: it does not depend on the contexts -/

theorem bankZeroDone_job_congr {s t : State} (h : t.job = s.job) (c b : Nat) : (bankZeroDone t c b).job = (bankZeroDone s c b).job := by
  have same := getCell_congr h c
  by_cases zeroes : (getCell s c).mu.zeroing.getLsbD b = true
  · rw [bankZeroDone_ends zeroes, bankZeroDone_ends (by rwa [same])]
    simp only [setMu, setCell, setGrid, getRec, same, h]
    rfl
  · rw [Bool.not_eq_true] at zeroes
    rw [bankZeroDone_idle zeroes, bankZeroDone_idle (by rwa [same]), h]

theorem bankSettle_job_congr {s t : State} (h : t.job = s.job) (c a n : Nat) : (bankSettle t c a n).job = (bankSettle s c a n).job :=
  List.foldl_rel (r := fun t s : State => t.job = s.job) h fun b _ _ _ same => bankZeroDone_job_congr same c b

theorem muBad_congr {s t : State} (h : t.job = s.job) (c a n : Nat) : muBad t c a n = muBad s c a n := by
  rw [muBad, getCell_congr h, muBad]

theorem strMeet_moved (s : State) (c : Ctx) (n d k : Nat) : strMeet (moved s c n) d k = strMeet s d k := by
  have same (cell m : Nat) : muBad (bankSettle (moved s c n) cell m 64) cell m 64 = muBad (bankSettle s cell m 64) cell m 64 :=
    muBad_congr (bankSettle_job_congr (s := s) (t := moved s c n) rfl ..) ..
  simp only [strMeet, same]
  rfl

/-! ### Streams and flips, R100, R172, R173, R175 -/

theorem strArm_arms {s : State} {d : Nat} (enabled : (strDesc s d).enable = true) (idle : (getStr s d).st = 0 ∨ (getStr s d).st = 4) :
    strArm s d = (Code.ok, setStr s d (strArmed s.now ((getStr s d).addr, (getStr s d).off) (getStr s d))) := by
  simp [strArm, enabled, idle]

theorem strArm_busy {s : State} {d : Nat} (enabled : (strDesc s d).enable = true) (h0 : (getStr s d).st ≠ 0)
    (h4 : (getStr s d).st ≠ 4) : strArm s d = (Code.busy, s) := by
  simp [strArm, enabled, h0, h4]

/-- R173: the re-arms that are accepted: of a persistent descriptor in force, with an ADDR and a MU_OFFSET of whole words in range. -/
structure Rearms (s : State) (d addr : Nat) (off : Option Nat) : Prop where
  enabled : (strDesc s d).enable = true
  persistent : (strDesc s d).persist = true
  addrAligned : addr % 64 = 0
  addrBelow : addr < 2 ^ 48
  offAligned : off.getD 0 % 64 = 0
  offBelow : off.getD 0 < 2 ^ 21

theorem Rearms.moved {s : State} {d addr : Nat} {off : Option Nat} (h : Rearms s d addr off) (c : Ctx) (n : Nat) :
    Rearms (moved s c n) d addr off :=
  ⟨h.enabled, h.persistent, h.addrAligned, h.addrBelow, h.offAligned, h.offBelow⟩

theorem Rearms.accepted {s : State} {d addr : Nat} {off : Option Nat} (h : Rearms s d addr off) :
    (!(strDesc s d).enable || !(strDesc s d).persist || addr % 64 != 0 || off.getD 0 % 64 != 0 || decide (2 ^ 48 ≤ addr) ||
      decide (2 ^ 21 ≤ off.getD 0)) = false := by
  simpa [h.enabled, h.persistent, h.addrAligned, h.offAligned] using And.intro h.addrBelow h.offBelow

/-- R173: a re-arm of an idle descriptor arms it. -/
theorem strRearm_arms {s : State} {d addr : Nat} {off : Option Nat} (h : Rearms s d addr off) (idle : (getStr s d).st = 0) :
    strRearm s d addr off = (Code.ok, setStr s d (strArmed s.now (addr, off.getD (getStr s d).off) (getStr s d))) := by
  simp only [strRearm, h.accepted, idle, Bool.false_eq_true, if_false, if_true]

/-- R173: a re-arm of a descriptor at work is held as its shadow. -/
theorem strRearm_shadows {s : State} {d addr : Nat} {off : Option Nat} (h : Rearms s d addr off) (working : (getStr s d).st ≠ 0)
    (room : (getStr s d).shadow = none) :
    strRearm s d addr off =
      (Code.ok, setStr s d { getStr s d with shadow := some (addr, off.getD (getStr s d).off) }) := by
  simp only [strRearm, h.accepted, working, room, Bool.false_eq_true, if_false]

/-- R175: a halted stream whose page has come runs on. -/
theorem strResume_resumes {s : State} {d : Nat} (halted : (getStr s d).st = 3) (meets : strMeet s d (getStr s d).pos = .word) :
    strResume s d = (Code.ok, setStr s d { getStr s d with st := 2, quiet := true }) := by
  simp [strResume, halted, meets]

theorem strResume_not_halted {s : State} {d : Nat} (h : (getStr s d).st ≠ 3) : strResume s d = (Code.badArgument, s) := by
  simp [strResume, h]

theorem flipOp_queues {s : State} {cell r : Nat} (hc : cell < 512) (hr : r < 8)
    (h : (region (getRec s cell).mu r).valid = true ∧ (region (getRec s cell).mu r).double = true) :
    flipOp s cell r = (Code.ok, 0, flipAsk s cell (1#8 <<< r)) := by
  simp [flipOp, Nat.not_le.2 hc, Nat.not_le.2 hr, h]

theorem flipOp_invalid {s : State} {cell r : Nat} (hc : cell < 512) (hr : r < 8)
    (h : ¬ ((region (getRec s cell).mu r).valid = true ∧ (region (getRec s cell).mu r).double = true)) :
    flipOp s cell r = (Code.flipInvalid, 0, s) := by
  have invalid : (!((region (getRec s cell).mu r).valid && (region (getRec s cell).mu r).double)) = true := by
    rwa [Bool.not_eq_true', Bool.and_eq_false_iff, ← Bool.not_eq_true, ← Bool.not_eq_true, ← not_and_or]
  have legal : ¬ (512 ≤ cell ∨ 8 ≤ r) := by omega
  rw [flipOp, if_neg legal, if_pos invalid]

/-! ### The operations at the program counter of a context of the running job -/

section
variable {s : State} {c : Ctx} {rd rs1 rs2 rs3 : GReg} (h : Sized s) (hj : s.jobc.st = 1)
include h hj

/-- R144: CREG ends with one free slot registering, and its number issued. -/
theorem creg_registers (hat : At s c (wordD 0x30 0 rd rs1 0 0) none) (below : (greg s c rs1).toNat < 2 ^ 48)
    (aligned : (greg s c rs1).toNat % 4096 = 0) (free : ∃ i, i < 64 ∧ (getImg s i).st = 0) :
    ∃ i < 64, (getImg s i).st = 0 ∧ ∃ v, Registering (opOf s c) (greg s c rs1).toNat i v ∧
      exec (.creg c rd rs1) s = .next (setImg { issued s c rd (ticketAfter s c) i with free := s.free + 1 } i v) := by
  obtain ⟨i, hi, is_free, v, registering, registers⟩ :=
    imgRegister_registers (s := moved s c 4) below aligned free (opOf s c)
  refine ⟨i, hi, is_free, v, registering, ?_⟩
  rw [exec_creg]
  exact next_asyncOp_accepted h hat hj (.trans (by rw [gnat_moved h]) registers) rfl rfl

theorem cload_begins (hat : At s c (wordD 0x30 1 rd rs1 0 0) none) (hi : (greg s c rs1).toNat < 64)
    (registered : (getImg s (greg s c rs1).toNat).st = 2) (empty : s.job.churn.shadow.st = 0)
    (bare : s.job.churn.shadow.recs = []) (still : s.job.churn.wave.active = false) :
    exec (.cload c rd rs1) s = .next (setChurn (issued s c rd (ticketAfter s c) 0) { s.job.churn with
      shadow := { st := 1, slot := (greg s c rs1).toNat, forOp := opOf s c, waiting := s.job.churn.shadow.waiting } }) := by
  rw [exec_cload]
  exact next_asyncOp_accepted h hat hj
    (.trans (by rw [gnat_moved h]) (congrArg noRes (shadowLoad_begins (s := moved s c 4) hi registered empty bare still (opOf s c))))
    rfl rfl

theorem cload_unregistered (hat : At s c (wordD 0x30 1 rd rs1 0 0) none) (hi : (greg s c rs1).toNat < 64)
    (unregistered : (getImg s (greg s c rs1).toNat).st ≠ 2) : exec (.cload c rd rs1) s = .next (wrote s c rd 0x0112 4) := by
  rw [exec_cload]
  exact next_asyncOp_refused (st := Code.notRegistered) h hat hj (by decide)
    (.trans (by rw [gnat_moved h]) (congrArg noRes (shadowLoad_unregistered (s := moved s c 4) hi unregistered (opOf s c))))

theorem cswap_begins (hat : At s c (wordD 0x30 2 rd 0 0 0) none) (ready : s.job.churn.shadow.st = 2)
    (alone : s.job.churn.shadow.waiting = none) (still : s.job.churn.wave.active = false)
    (sound : footprintBad s s.job.churn.shadow.recs = none) :
    exec (.cswap c rd) s = .next (beginSwap (issued s c rd (ticketAfter s c) 0) (opOf s c)) := by
  rw [exec_cswap]
  exact next_asyncOp_accepted h hat hj (congrArg noRes (swap_begins (s := moved s c 4) ready alone still sound (opOf s c))) rfl rfl

theorem cswap_empty (hat : At s c (wordD 0x30 2 rd 0 0 0) none) (empty : s.job.churn.shadow.st = 0) :
    exec (.cswap c rd) s = .next (wrote s c rd 0x0113 4) := by
  rw [exec_cswap]
  exact next_asyncOp_refused (st := Code.notLoaded) h hat hj (by decide)
    (congrArg noRes (swap_empty (s := moved s c 4) empty (opOf s c)))

theorem crel_failed (hat : At s c (wordD 0x30 3 rd rs1 0 0) none) (hi : (greg s c rs1).toNat < 64)
    (failed : (getImg s (greg s c rs1).toNat).st = 3) :
    exec (.crel c rd rs1) s = .next (setImg (wrote s c rd 0 4) (greg s c rs1).toNat {}) := by
  rw [exec_crel]
  exact next_syncOp_status h hat hj
    (.trans (by rw [gnat_moved h]) (congrArg noRes (imgRelease_failed (s := moved s c 4) hi failed))) rfl

theorem crel_checking (hat : At s c (wordD 0x30 3 rd rs1 0 0) none) (hi : (greg s c rs1).toNat < 64)
    (checking : (getImg s (greg s c rs1).toNat).st = 1) : exec (.crel c rd rs1) s = .next (wrote s c rd 0x0004 4) := by
  rw [exec_crel]
  exact next_syncOp_status h hat hj
    (.trans (by rw [gnat_moved h]) (congrArg noRes (imgRelease_checking (s := moved s c 4) hi checking))) rfl

/-- R172: ARM ends as its stream's arm does. -/
theorem arm_ends {st : Status} {u : State} (hat : At s c (wordD 0x31 0 rd rs1 0 0) none) (hd : (greg s c rs1).toNat < 2048)
    (arms : strArm (moved s c 4) (greg s c rs1).toNat = (st, u)) (hu : u.raler = (moved s c 4).raler) :
    exec (.arm c rd rs1) s = .next { u with raler := (wrote s c rd (BitVec.ofNat 64 st.toNat) 4).raler } := by
  rw [exec_arm]
  exact next_syncOp_status h hat hj (by rw [gnat_moved h, if_neg (Nat.not_le.2 hd), arms, noRes]) hu

/-- R173: REARM without an extension word keeps MU_OFFSET, and ends as its stream's re-arm does. -/
theorem rearm_ends {st : Status} {u : State} (hat : At s c (wordD 0x31 1 rd rs1 rs2 0) none) (hd : (greg s c rs1).toNat < 2048)
    (rearms : strRearm (moved s c 4) (greg s c rs1).toNat (greg s c rs2).toNat none = (st, u)) (hu : u.raler = (moved s c 4).raler) :
    exec (.rearm c rd rs1 rs2 0 none) s = .next { u with raler := (wrote s c rd (BitVec.ofNat 64 st.toNat) 4).raler } := by
  rw [exec_rearm]
  exact next_syncOp_status h hat hj (by simp [gnat_moved h, Nat.not_le.2 hd, rearms, noRes]) hu

/-- R173: REARM with the extension word 1 gives MU_OFFSET too, and ends as its stream's re-arm does. -/
theorem rearm_offset_ends {st : Status} {u : State} (hat : At s c (wordD 0x31 1 rd rs1 rs2 rs3 + 2 ^ 25) (some 1))
    (hd : (greg s c rs1).toNat < 2048)
    (rearms : strRearm (moved s c 8) (greg s c rs1).toNat (greg s c rs2).toNat (some (greg s c rs3).toNat) = (st, u))
    (hu : u.raler = (moved s c 8).raler) :
    exec (.rearm c rd rs1 rs2 rs3 (some 1)) s = .next { u with raler := (wrote s c rd (BitVec.ofNat 64 st.toNat) 8).raler } := by
  have words : encRearm rd rs1 rs2 rs3 (some 1) = some (wordD 0x31 1 rd rs1 rs2 rs3 + 2 ^ 25, some 1) := rfl
  rw [exec_rearm, execRearm, words, syncOp_at (st := st) (r := 0) (u := u) h hat hj _ hu, Nat.zero_mul, Nat.add_zero]
  · rfl
  · simp [len, gnat_moved h, Nat.not_le.2 hd, rearms, noRes]

/-- R175: RESUME ends as its stream's resumption does. -/
theorem resume_ends {st : Status} {u : State} (hat : At s c (wordD 0x31 2 rd rs1 0 0) none) (hd : (greg s c rs1).toNat < 2048)
    (resumes : strResume (moved s c 4) (greg s c rs1).toNat = (st, u)) (hu : u.raler = (moved s c 4).raler) :
    exec (.resume c rd rs1) s = .next { u with raler := (wrote s c rd (BitVec.ofNat 64 st.toNat) 4).raler } := by
  rw [exec_resume]
  exact next_syncOp_status h hat hj (by rw [gnat_moved h, if_neg (Nat.not_le.2 hd), resumes, noRes]) hu

theorem sbase_sets (hat : At s c (wordD 0x33 4 rd rs1 rs2 0) none) (hb : (greg s c rs1).toNat < 16) (hp : (greg s c rs2).toNat < 2 ^ 27) :
    exec (.sbase c rd rs1 rs2) s = .next { wrote s c rd 0 4 with
      job := { s.job with sbase := s.job.sbase.set (greg s c rs1).toNat (greg s c rs2).toNat } } := by
  have legal : ¬ (16 ≤ (greg s c rs1).toNat ∨ 2 ^ 27 ≤ (greg s c rs2).toNat) := by omega
  rw [exec_sbase]
  refine next_syncOp_status (st := Code.ok) (u := { moved s c 4 with
    job := { s.job with sbase := s.job.sbase.set (greg s c rs1).toNat (greg s c rs2).toNat } }) h hat hj ?_ rfl
  rw [gnat_moved h, gnat_moved h]
  exact if_neg legal

/-- R100: FLIP ends as the request that it queues. -/
theorem flip_ends {st : Status} {u : State} (hat : At s c (wordD 0x31 3 rd rs1 rs2 0) none)
    (asks : flipOp (moved s c 4) (greg s c rs1).toNat (greg s c rs2).toNat = (st, 0, u)) (hu : u.raler = (moved s c 4).raler) :
    exec (.flip c rd rs1 rs2) s = .next { u with raler := (wrote s c rd (BitVec.ofNat 64 st.toNat) 4).raler } := by
  rw [exec_flip]
  exact next_syncOp_status h hat hj (.trans (by rw [gnat_moved h, gnat_moved h]) asks) hu

end

/-! ### The obligation -/

/-- Settles O13: each clause is one outcome of an operation on configurations, on streams or on flips. -/
theorem configurationAndStreamOperations : Obligations.ConfigurationAndStreamOperations := by
  constructor
  · intro s c rd rs1 h hj a ch n
    refine ⟨fun hat below aligned free => ?_,
      fun hat ha registered empty bare still => ends_eq (cload_begins h hj hat ha registered empty bare still),
      fun hat ha unregistered => ends_eq (cload_unregistered h hj hat ha unregistered),
      fun hat ready alone still sound => ends_eq ?_,
      fun hat empty => ends_eq (cswap_empty h hj hat empty),
      fun hat ha failed => ends_eq (crel_failed h hj hat ha failed),
      fun hat ha checking => ends_eq (crel_checking h hj hat ha checking)⟩
    · obtain ⟨i, hi, is_free, v, ⟨st, addr, forOp⟩, ends⟩ := creg_registers h hj hat below aligned free
      have written := getImg_setImg (s := { issued s c rd (ticketAfter s c) i with free := s.free + 1 }) (h.img_lt hi) v
      refine ⟨_, ends, i, List.mem_range.2 hi, is_free, ?_, ?_, ?_, fun j _ hj => getImg_setImg_ne hj.symm v, rfl⟩
      · rw [written, st]
      · rw [written, addr]
      · rw [written, forOp]
    · rw [cswap_begins h hj hat ready alone still sound]
      simp only [alone]
      rfl
  · intro s c rd rs1 rs2 rs3 h hj d b x put
    refine ⟨fun hat hd enabled idle => ends_eq (arm_ends h hj hat hd (strArm_arms enabled idle) rfl),
      fun hat hd enabled h0 h4 => ends_eq (arm_ends h hj hat hd (strArm_busy enabled h0 h4) rfl),
      fun hat hd enabled persistent aligned below =>
        have rearms : Rearms s d b none := ⟨enabled, persistent, aligned, below, rfl, by decide⟩
        ⟨fun idle => ends_eq (rearm_ends h hj hat hd (strRearm_arms (rearms.moved c 4) idle) rfl),
          fun working room => ends_eq (rearm_ends h hj hat hd (strRearm_shadows (rearms.moved c 4) working room) rfl)⟩,
      fun hat hd enabled persistent aligned below offAligned offBelow idle => ends_eq ?_,
      fun hat hd halted meets =>
        have meets_moved : strMeet (moved s c 4) d x.pos = .word := (strMeet_moved ..).trans meets
        ends_eq (resume_ends h hj hat hd (strResume_resumes (s := moved s c 4) halted meets_moved) rfl),
      fun hat hd running => ends_eq (resume_ends h hj hat hd (strResume_not_halted (s := moved s c 4) running) rfl),
      fun hat hd hb => ends_eq (sbase_sets h hj hat hd hb),
      fun hat hd hb => ⟨fun double => ends_eq (flip_ends h hj hat (flipOp_queues hd hb double) rfl),
        fun single => ends_eq (flip_ends h hj hat (flipOp_invalid hd hb single) rfl)⟩⟩
    have rearms : Rearms s d b (some (greg s c rs3).toNat) := ⟨enabled, persistent, aligned, below, offAligned, offBelow⟩
    exact rearm_offset_ends h hj hat hd (strRearm_arms (rearms.moved c 8) idle) rfl

end Sys2Proof.Machine
end

section
/-! PROOF. ADMIT and CANCEL (R218, R219, R224, R254): what a decision reads, what an admission writes, and O56. -/

namespace Sys2Proof.Machine

theorem exec_admitRequest (c : Ctx) (rd rs1 rs2 : GReg) (s : State) :
    exec (.admitRequest c rd rs1 rs2) s = execAdmitRequest c rd rs1 rs2 s := rfl

theorem exec_cancel (c : Ctx) (rd rs1 rs2 : GReg) (s : State) : exec (.cancel c rd rs1 rs2) s = execCancel c rd rs1 rs2 s := rfl

/-! ### A decision reads no context, R219 -/

theorem devSpan_moved (s : State) (c : Ctx) (n f a k : Nat) : devSpan (moved s c n) f a k = devSpan s f a k := by
  induction f generalizing a k with
  | zero => rfl
  | succ f ih =>
    simp only [devSpan, ih]
    rfl

theorem promptTokens_moved (s : State) (c : Ctx) (n : Nat) (d : List Byte) (i k : Nat) :
    promptTokens (moved s c n) d i k = promptTokens s d i k := by
  simp only [promptTokens, devAll, devSpan_moved]
  rfl

theorem matchBlocks_moved (s : State) (c : Ctx) (n v b : Nat) (parent : List Byte) (ts : List (List Nat)) :
    matchBlocks (moved s c n) v b parent ts = matchBlocks s v b parent ts := by
  induction ts generalizing parent with
  | nil => rfl
  | cons t ts ih =>
    simp only [matchBlocks, ih]
    rfl

theorem reuseOf_moved (s : State) (c : Ctx) (n : Nat) (d : List Byte) : reuseOf (moved s c n) d = reuseOf s d := by
  simp only [reuseOf, promptTokens_moved, matchBlocks_moved]
  rfl

theorem decideReq_moved (s : State) (c : Ctx) (n : Nat) (d : List Byte) : decideReq (moved s c n) d = decideReq s d := by
  simp only [decideReq, reuseOf_moved]
  rfl

/-! ### Records for a host slot, R349 -/

/-- R349: a slot after a record has been posted to it: the record waits or is in the ring, or is counted as lost. -/
def recordPosted (now : Nat) (h : HostSlot) (r : List Byte) : HostSlot :=
  if !h.present || !h.crEnable || decide (4096 ≤ h.buf.length) then { h with lost := h.lost + 1 }
  else crFill now { h with buf := h.buf ++ [r] }

theorem postRecord_eq (s : State) (n : Nat) (r : List Byte) :
    postRecord s n r = setHost s n (recordPosted s.now (getHost s n) r) := (apply_ite (setHost s n) _ _ _).symm

/-- R219: a refusal is counted and recorded; a record of ADMISSION_CLOSED names the time of reopening (R228). -/
theorem refuse_eq (s : State) (host : Nat) (d : List Byte) (c : Status) :
    refuse s host d c = { s with
      adm := { s.adm with refused := s.adm.refused + 1 }
      hosts := s.hosts.set host (recordPosted s.now (getHost s host) (recordBytes (dTag d) 1 c.toNat s.now
        (2 ^ 320 * (if c = Code.admissionClosed then (getSvc s (dSvc d)).ctrl.toNat / 2 % 2 ^ 40 else 0)))) } := by
  rw [refuse, postRecord_eq, fld, Nat.mul_comm]
  rfl

/-! ### ADMIT, R163, R219, R224 -/

/-- R163: the decision alone can make ADMIT wait. -/
theorem admitDesc_eq_none_iff {s : State} {d : List Byte} {host : Nat} :
    admitDesc s d host = none ↔ descBad d = false ∧ decideReq s d = .waits := by
  unfold admitDesc
  cases descBad d with
  | true => simp
  | false =>
    simp only [Bool.false_eq_true, if_false, true_and]
    cases decideReq s d with
    | lacks code => split_ifs <;> simp
    | _ => simp

theorem setDeciding_none {s : State} (h : s.adm.deciding = none) : setDeciding s none = s := by
  rw [setDeciding, ← h]
  rfl

theorem mayDecide_of_none {s : State} (h : s.adm.deciding = none) (x : Deciding) : mayDecide s x = true := by simp [mayDecide, h]

theorem atInstr_at {s : State} {c : Ctx} {op sub rd rs1 rs2 rs3 : Nat} (h : At s c (wordD op sub rd rs1 rs2 rs3) none) :
    atInstr s c (encD op sub rd rs1 rs2 rs3) = true := by
  obtain ⟨runs, words⟩ := h
  rw [encD_word, atInstr, Option.elim_some, runs, words, beq_self_eq_true, Bool.and_self]

theorem noJob_of_runs {s : State} (h : s.jobc.st = 1) : noJob s = false := by simp [noJob, h]

/-! ### What an admission writes, R219 -/

/-- What an admission may write before the request itself: services, pool blocks and sequence entries, the tiers, the store's
adapter slots, and the choices it takes. -/
def Prepared (s t : State) : Prop :=
  ∃ svcs blocks seqs tiers sep free,
    t = { s with adm := { s.adm with svcs := svcs, blocks := blocks, seqs := seqs }, tiers := tiers, sep := sep, free := free }

namespace Prepared

theorem refl (s : State) : Prepared s s := ⟨_, _, _, _, _, _, rfl⟩

theorem trans {s t u : State} (h : Prepared s t) (k : Prepared t u) : Prepared s u := by
  obtain ⟨_, _, _, _, _, _, rfl⟩ := h
  obtain ⟨_, _, _, _, _, _, rfl⟩ := k
  exact ⟨_, _, _, _, _, _, rfl⟩

theorem now {s t : State} (h : Prepared s t) : t.now = s.now := by
  obtain ⟨_, _, _, _, _, _, rfl⟩ := h
  rfl

theorem jobc {s t : State} (h : Prepared s t) : t.jobc = s.jobc := by
  obtain ⟨_, _, _, _, _, _, rfl⟩ := h
  rfl

theorem foldl {α : Type} {f : State → α → State} (h : ∀ s a, Prepared s (f s a)) (l : List α) (s : State) : Prepared s (l.foldl f s) := by
  induction l generalizing s with
  | nil => exact refl s
  | cons a l ih => exact (h s a).trans (ih _)

theorem setFrame (s : State) (vat : Bool) (f : Nat) (v : FState) : Prepared s (setFrame s vat f v) := by
  cases vat <;> exact ⟨_, _, _, _, _, _, rfl⟩

theorem choose_setFrame (s : State) (n : Nat) (vat : Bool) (f : Nat) (v : FState) :
    Prepared s (Machine.setFrame (choose s n).2 vat f v) := trans ⟨_, _, _, _, _, _, rfl⟩ (setFrame _ vat f v)

theorem takeFrame {s t : State} {vat : Bool} {p f : Nat} (h : takeFrame s vat p = some (f, t)) : Prepared s t := by
  simp only [Machine.takeFrame] at h
  split at h
  · split at h
    · cases h
    · cases h
      exact choose_setFrame ..
  · split at h
    · cases h
    · cases h
      exact choose_setFrame ..

theorem mapPage {s t : State} {p tier job : Nat} {aside : Bool} (h : mapPage s p tier job aside = some t) : Prepared s t := by
  simp only [Machine.mapPage] at h
  split at h
  · cases h
    exact ⟨_, _, _, _, _, _, rfl⟩
  · obtain ⟨⟨f, u⟩, taken, rfl⟩ := Option.map_eq_some_iff.1 h
    exact (takeFrame taken).trans ⟨_, _, _, _, _, _, rfl⟩

theorem mapRun {s t : State} {p n tier job : Nat} {aside : Bool} (h : mapRun s p n tier job aside = some t) : Prepared s t := by
  induction n generalizing s p with
  | zero =>
    cases h
    exact refl _
  | succ n ih =>
    simp only [Machine.mapRun] at h
    split at h
    · cases h
    · next mapped => exact (mapPage mapped).trans (ih h)

end Prepared

/-- R219, R220: the request that an admission enters. -/
structure Enters (s : State) (host : Nat) (d : List Byte) (g : Grant) (r : Req) : Prop where
  svc : r.svc = dSvc d
  slot : r.slot = g.slot
  host : r.host = host
  job : r.job = s.jobc.id
  desc : r.desc = d
  ended : r.ended = none
  base : r.base = s.now
  due : r.due = s.now + g.ttft

/-- R219, R225: an admission that restores no page prepares what the request holds, enters it, and posts its record. -/
theorem admitGrant_enters {s : State} {d : List Byte} {g : Grant} (host : Nat) (resident : g.absent = []) :
    ∃ t r promised reused collisions bytes, Prepared s t ∧ Enters s host d g r ∧
      admitGrant s host d g = postRecord (setAdm t { t.adm with
        reqs := t.adm.reqs ++ [r], admitted := t.adm.admitted + 1, promised := promised, reused := reused, collisions := collisions })
        host bytes := by
  unfold admitGrant
  extract_lets v x adp version s1 s2 s3 s4 s5 start s6 r s7 s8
  rw [resident]
  have mapped : Prepared s s2 := by
    refine .trans (t := s1) ⟨_, _, _, _, _, _, rfl⟩ ?_
    cases run : mapRun s1 (x.slotBase g.slot) g.pages x.tier s1.jobc.id true with
    | none => simpa only [s2, run] using .refl s1
    | some t => simpa only [s2, run, Option.getD_some] using Prepared.mapRun run
  have shared : Prepared s s4 := mapped.trans (.trans (t := s3) ⟨_, _, _, _, _, _, rfl⟩ (.foldl (fun _ _ => ⟨_, _, _, _, _, _, rfl⟩) _ _))
  have bound : Prepared s s5 := by
    refine shared.trans ?_
    simp only [s5]
    clear_value adp
    split
    · exact .refl _
    · exact ⟨_, _, _, _, _, _, rfl⟩
  have entered : Prepared s s6 := by
    refine bound.trans ?_
    simp only [s6]
    split
    · exact .refl _
    · split <;> exact ⟨_, _, _, _, _, _, rfl⟩
  have enters : Enters s host d g r :=
    ⟨rfl, rfl, rfl, congrArg JobCtl.id entered.jobc, rfl, rfl, entered.now, congrArg (· + g.ttft) entered.now⟩
  exact ⟨s6, r, _, _, _, _, entered, enters, rfl⟩

section
variable {s : State} {c : Ctx} {rd rs1 rs2 : GReg} {host : Slot} {d : List Byte}
  (hs : Sized s) (hj : s.jobc.st = 1) (hat : At s c (wordD 0x35 0 rd rs1 rs2 0) none)
  (operand : cmOperand s c (greg s c rs1).toNat 64 = some d) (slot : (greg s c rs2).toNat = host) (free : s.adm.deciding = none)
include hj hat operand slot free

/-- R163: where no other decision waits, ADMIT waits where its own does, and acts where it does not. -/
theorem admitOp_eq : admitOp s c rd rs1 rs2 =
    if (admitDesc s d host).isNone then setDeciding s (some (.ctx c (getCtx s c).prog))
    else admitAct s c rd host (encD 0x35 0 rd rs1 rs2 0) d := by
  have legal : ¬ 4 ≤ host.val := by omega
  have undecided : (s.adm.deciding == some (.ctx c (getCtx s c).prog)) = false := by rw [free]; rfl
  cases bad : descBad d with
  | true =>
    have acts : admitDesc s d host ≠ none := by simp [admitDesc_eq_none_iff, bad]
    simp [admitOp, atInstr_at hat, gnat, operand, noJob_of_runs hj, legal, bad, slot, acts]
  | false =>
    simp only [admitOp, atInstr_at hat, gnat, operand, noJob_of_runs hj, legal, bad, mayDecide_of_none free, undecided, setDeciding_none free,
      slot, Bool.not_true, Bool.false_eq_true, if_false, Bool.false_or, decide_false]
    cases admitDesc s d host <;> rfl

/-- R163: ADMIT has not acted while its decision waits for zeroed frames, and holds up every other decision. -/
theorem admitRequest_waits (good : descBad d = false) (waits : decideReq s d = .waits) :
    exec (.admitRequest c rd rs1 rs2) s =
      .next { s with adm := { s.adm with deciding := some (.ctx c (getCtx s c).prog) } } := by
  rw [exec_admitRequest, execAdmitRequest, admitOp_eq hj hat operand slot free, admitDesc_eq_none_iff.2 ⟨good, waits⟩]
  rfl

include hs

/-- R219, R330: ADMIT of a descriptor that is decided: its status, QUEUED and SEQ reach `rd`. -/
theorem admitRequest_decided {st : Status} {queued : Bool} {seq : Nat} {u : State}
    (decided : admitDesc (moved s c 4) d host = some (st, queued, seq, u)) (hu : u.raler = (moved s c 4).raler) :
    exec (.admitRequest c rd rs1 rs2) s = .next { u with
      raler := (wrote s c rd (BitVec.ofNat 64 (st.toNat + (flg 0 queued + fld 1 seq) * 2 ^ 16)) 4).raler } := by
  have acts : admitDesc s d host ≠ none := by
    rw [Ne, admitDesc_eq_none_iff, ← decideReq_moved s c 4, ← admitDesc_eq_none_iff, decided]
    nofun
  rw [exec_admitRequest, execAdmitRequest, admitOp_eq hj hat operand slot free, if_neg (by simpa using acts)]
  exact next_syncOp (st := st) (r := flg 0 queued + fld 1 seq) (u := u) hs hat hj (by rw [decided]) hu rfl

/-- R219: a request that is refused is counted and recorded, and `rd` holds the status of the refusal. -/
theorem admitRequest_refused {code : Status}
    (decided : admitDesc (moved s c 4) d host = some (code, false, 0, refuse (moved s c 4) host d code)) :
    exec (.admitRequest c rd rs1 rs2) s = .next { wrote s c rd (code.setWidth 64) 4 with
      adm := { s.adm with refused := s.adm.refused + 1 }
      hosts := (postRecord { s with adm := { s.adm with refused := s.adm.refused + 1 } } host (recordBytes (dTag d) 1 code.toNat s.now
        (2 ^ 320 * if code = Code.admissionClosed then (getSvc s (dSvc d)).ctrl.toNat / 2 % 2 ^ 40 else 0))).hosts } := by
  rw [refuse_eq] at decided
  have status : code.toNat + (flg 0 false + fld 1 0) * 2 ^ 16 = code.toNat := rfl
  rw [admitRequest_decided hs hj hat operand slot free decided rfl, postRecord_eq, status, BitVec.ofNat_toNat]
  rfl

/-- R224: a request that lacks only a slot or a set-aside joins the pending list. -/
theorem admitRequest_queued {p : List Pend}
    (decided : admitDesc (moved s c 4) d host = some (Code.ok, true, 0, setAdm (moved s c 4) { s.adm with pending := p })) :
    exec (.admitRequest c rd rs1 rs2) s = .next { wrote s c rd (BitVec.ofNat 64 (2 ^ 16)) 4 with adm := { s.adm with pending := p } } := by
  rw [admitRequest_decided hs hj hat operand slot free decided rfl]
  rfl

/-- R219, R225: ADMIT of a request that can be served and restores no page admits it in one step. -/
theorem admitRequest_admits {g : Grant} (good : descBad d = false) (admits : decideReq s d = .admits g) (resident : g.absent = []) :
    Ends (.admitRequest c rd rs1 rs2) s fun t =>
      let r := t.adm.reqs.getLast?
      greg t c rd = (if rd = 0 then 0 else BitVec.ofNat 64 (2 ^ 17 * g.seq.getD 0)) ∧
      t.adm.admitted = s.adm.admitted + 1 ∧ t.adm.reqs.dropLast = s.adm.reqs ∧
      r.map (fun r => (r.svc, r.slot, r.host, r.job)) = some (dSvc d, g.slot, host.val, s.jobc.id) ∧
      r.map (fun r => (r.desc, r.ended)) = some (d, none) ∧
      r.map (fun r => (r.base, r.due)) = some (s.now, s.now + g.ttft) ∧
      (∀ i : Ctx, i ≠ c → getCtx t i = getCtx s i) ∧
      t = { s with
        adm := t.adm, tiers := t.tiers, sep := t.sep, hosts := t.hosts, raler := { s.raler with ctx := t.raler.ctx }, free := t.free } := by
  have decided : admitDesc (moved s c 4) d host = some (Code.ok, false, g.seq.getD 0, admitGrant (moved s c 4) host d g) := by
    simp [admitDesc, good, decideReq_moved, admits]
  obtain ⟨_, r, _, _, _, _, ⟨_, _, _, _, _, _, rfl⟩, ⟨svc, slot_, host_, job, desc, ended, base, due⟩, granted⟩ :=
    admitGrant_enters (s := moved s c 4) host resident
  rw [granted, postRecord_eq] at decided
  have result : Code.ok.toNat + (flg 0 false + fld 1 (g.seq.getD 0)) * 2 ^ 16 = 2 ^ 17 * g.seq.getD 0 := by
    change 0 + (0 + g.seq.getD 0 * 2 ^ 1) * 2 ^ 16 = 2 ^ 17 * g.seq.getD 0
    omega
  have newest : (s.adm.reqs ++ [r]).getLast? = some r := List.getLast?_concat
  refine ⟨_, admitRequest_decided hs hj hat operand slot free decided rfl, ?_, rfl, List.dropLast_concat, ?_, ?_, ?_, ?_, rfl⟩
  · rw [result]
    exact greg_wrote hs c rd _ 4
  · exact (congrArg (Option.map _) newest).trans (by rw [Option.map_some, svc, slot_, host_, job]; rfl)
  · exact (congrArg (Option.map _) newest).trans (by rw [Option.map_some, desc, ended])
  · exact (congrArg (Option.map _) newest).trans (by rw [Option.map_some, base, due]; rfl)
  · exact fun i other => getCtx_setCtx_ne fun same => other (Fin.ext same.symm)

end

/-! ### CANCEL, R254 -/

/-- R254: a tag that no open request has is answered at once; a pending request of that tag leaves the list with its record. -/
theorem cancelReq_pending {s : State} {p : Pend} {tag : Word} {host : Nat} (pending : s.adm.pending = [p]) (owner : p.host = host)
    (tagged : dTag p.desc = tag.toNat) (idle : s.adm.reqs = []) (c : Nat) :
    cancelReq s c tag host = (some Code.cancelled, true, noteRecent (postRecord (setAdm s { s.adm with pending := [] }) host
      (recordBytes (dTag p.desc) 3 Code.cancelled.toNat s.now 0)) host tag) := by
  simp [cancelReq, pending, owner, tagged, idle]

/-- R254: where nothing is pending CANCEL takes nothing off the list. -/
theorem setAdm_pending_nil {s : State} (pending : s.adm.pending = []) : setAdm s { s.adm with pending := [] } = s := by
  rw [← pending]
  rfl

theorem cancelReq_none {s : State} (pending : s.adm.pending = []) (idle : s.adm.reqs = []) (c : Nat) (tag : Word) (host : Nat) :
    cancelReq s c tag host =
      (some (if (getHost s host).recent.contains tag then Code.alreadyComplete else Code.unknownRequest), false, s) := by
  simp only [cancelReq, pending, List.filter_nil, setAdm_pending_nil pending]
  simp [idle]

/-- R254: an open request is marked for the context, which waits for it. -/
theorem cancelReq_open {s : State} {r : Req} {tag : Word} {host : Nat} (pending : s.adm.pending = []) (opened : s.adm.reqs = [r])
    (owner : r.host = host) (tagged : r.tag = tag) (runs : r.ended = none) (c : Nat) :
    cancelReq s c tag host = (none, false, setAdm s { s.adm with reqs := [{ r with cancels := r.cancels ++ [c] }] }) := by
  conv_lhs => simp only [cancelReq, pending, List.filter_nil, setAdm_pending_nil pending]
  have mine : (r.host == host && r.tag == tag && r.ended.isNone) = true := by simp [owner, tagged, runs]
  simp only [opened, mine, List.filter_cons, List.filter_nil, List.map_cons, List.map_nil, List.foldl_nil, List.isEmpty_cons,
    List.isEmpty_nil, Bool.not_true, Bool.false_eq_true, if_true, if_false]

theorem ctxBlock_moved {s u : State} {c : Ctx} {n : Nat} (hu : u.raler = (moved s c n).raler) (w : CtxWait) :
    ctxBlock u c w = { u with raler := (setCtx s c { getCtx (moved s c n) c with st := 2, waits := w }).raler } := by
  have contexts : (ctxBlock u c w).raler = (ctxBlock (moved s c n) c w).raler := by simp only [ctxBlock, setCtx, getCtx, hu]
  have blocked : ctxBlock (moved s c n) c w = setCtx s c { getCtx (moved s c n) c with st := 2, waits := w } := setCtx_setCtx ..
  rw [← blocked, ← contexts]
  rfl

theorem map_cancels_of_unasked {l : List Req} {c : Nat} (h : ∀ r ∈ l, c ∉ r.cancels) :
    l.map (fun r => { r with cancels := r.cancels.filter (· != c) }) = l := by
  refine (List.map_congr_left fun r hr => ?_).trans (List.map_id l)
  have kept : r.cancels.filter (· != c) = r.cancels :=
    List.filter_eq_self.2 fun x hx => bne_iff_ne.2 fun same => h r hr (same ▸ hx)
  rw [kept]
  rfl

section
variable {s : State} {c : Ctx} {rd rs1 rs2 : GReg} {host : Slot}
  (hs : Sized s) (hj : s.jobc.st = 1) (hat : At s c (wordD 0x35 2 rd rs1 rs2 0) none) (slot : (greg s c rs2).toNat = host)
  (unasked : ∀ r ∈ s.adm.reqs, c.val ∉ r.cancels)
include hs hj hat slot unasked

/-- R254: CANCEL by a context that no request names acts on the requests as they are. -/
theorem exec_cancel_eq {answer : Option Status} {got : Bool} {u : State}
    (acts : cancelReq (moved s c 4) c (greg s c rs1) host = (answer, got, u)) :
    exec (.cancel c rd rs1 rs2) s = .next (answer.elim (ctxBlock u c (.cancel rd got)) fun code => putResult u c rd code.toNat) := by
  have legal : ¬ 4 ≤ host.val := by omega
  have same : setAdm (moved s c 4) { (moved s c 4).adm with
      reqs := (moved s c 4).adm.reqs.map fun r => { r with cancels := r.cancels.filter (· != c.val) } } = moved s c 4 := by
    rw [map_cancels_of_unasked (l := (moved s c 4).adm.reqs) unasked]
    rfl
  rw [exec_cancel, execCancel, runInstr_atD hat, greg_moved hs, gnat_moved hs, slot, cancelOp, noJob_of_runs (s := moved s c 4) hj]
  simp only [Bool.false_eq_true, if_false, legal, same, acts]
  cases answer <;> rfl

/-- R254: CANCEL of a tag that no open request has answers at once. -/
theorem cancel_answers {code : Status} {got : Bool} {u : State}
    (acts : cancelReq (moved s c 4) c (greg s c rs1) host = (some code, got, u)) (hu : u.raler = (moved s c 4).raler) :
    exec (.cancel c rd rs1 rs2) s = .next { u with raler := (wrote s c rd (BitVec.ofNat 64 code.toNat) 4).raler } := by
  rw [exec_cancel_eq hs hj hat slot unasked acts]
  exact congrArg _ (putResult_moved hs (ctxRuns_st hat.1) hu)

/-- R254: CANCEL of a tag that an open request has waits. -/
theorem cancel_waits {got : Bool} {u : State} (acts : cancelReq (moved s c 4) c (greg s c rs1) host = (none, got, u))
    (hu : u.raler = (moved s c 4).raler) : exec (.cancel c rd rs1 rs2) s = .next { u with
      raler := (setCtx s c { getCtx (moved s c 4) c with st := 2, waits := .cancel rd got }).raler } := by
  rw [exec_cancel_eq hs hj hat slot unasked acts]
  exact congrArg _ (ctxBlock_moved hu _)

end

/-! ### The obligation -/

/-- Settles O56: each clause is one outcome of the decision on a descriptor, or of the search for a tag. -/
theorem admissionOperations : Obligations.AdmissionOperations := by
  intro s c rd rs1 rs2 h d hs hj counted tag
  refine ⟨fun hat operand slot free => ⟨fun g good admits resident => admitRequest_admits hs hj hat operand slot free good admits resident,
      fun code good lacks queue room => ends_eq (admitRequest_queued hs hj hat operand slot free ?_),
      fun code good lacks queue full => ends_eq ?_,
      fun good waits => ends_eq (admitRequest_waits hj hat operand slot free good waits),
      fun code good refused => ends_eq (admitRequest_refused hs hj hat operand slot free ?_),
      fun bad => ends_eq ?_, fun _ closed => ?_, fun _ suspended => ?_⟩,
    fun hat slot unasked => ⟨fun p pending owner tagged idle => ends_eq ?_,
      fun r pending opened owner tagged runs => ends_eq ?_, fun pending idle => ends_eq ?_⟩⟩
  · have room' : ¬ 1024 ≤ (moved s c 4).adm.pending.length := Nat.not_le.2 room
    simp only [admitDesc, good, decideReq_moved, lacks, queue, room', Bool.not_true, Bool.false_eq_true, if_false]
    rfl
  · have full' : 1024 ≤ (moved s c 4).adm.pending.length := full
    have decided : admitDesc (moved s c 4) d h = some (Code.pendingFull, false, 0, refuse (moved s c 4) h d Code.pendingFull) := by
      simp only [admitDesc, good, decideReq_moved, lacks, queue, full', Bool.not_true, Bool.false_eq_true, if_false, if_true]
    rw [admitRequest_refused hs hj hat operand slot free decided, if_neg (by decide), Nat.mul_zero]
    rfl
  · simp only [admitDesc, good, decideReq_moved, refused, Bool.false_eq_true, if_false]
  · have decided : admitDesc (moved s c 4) d h = some (Code.badArgument, false, 0, refuse (moved s c 4) h d Code.badArgument) := by
      simp only [admitDesc, bad, if_true]
    rw [admitRequest_refused hs hj hat operand slot free decided, if_neg (by decide), Nat.mul_zero]
    rfl
  · simp [decideReq, closed]
    rfl
  · simp [decideReq, suspended]
    rfl
  · rw [cancel_answers hs hj hat slot unasked (cancelReq_pending (s := moved s c 4) pending owner tagged idle c) (by rw [postRecord_eq]; rfl),
      postRecord_eq, postRecord_eq]
    rfl
  · rw [cancel_waits hs hj hat slot unasked (cancelReq_open (s := moved s c 4) pending opened owner tagged runs c) rfl]
    rfl
  · rw [cancel_answers hs hj hat slot unasked (cancelReq_none (s := moved s c 4) pending idle c (greg s c rs1) h) rfl]
    have known : (getHost (moved s c 4) h).recent.contains (greg s c rs1) = (getHost s h).recent.contains tag := rfl
    rw [known]
    cases (getHost s h).recent.contains tag <;> rfl

end Sys2Proof.Machine
end

section
/-! PROOF. What a fault of the job, a unit fault and an access of an MU leave as they are (R90, R182, R353, R403), of what streams and
requests rest on. -/

namespace Sys2Proof.Machine

/-! ### Faults of the job, R334, R353 -/

/-- What interrupts, events and ended programs may write: control memory, contexts, host slots, the job's control, windows and saved
jobs. -/
def Signalled (s t : State) : Prop :=
  ∃ cm raler hosts jobc wins saved,
    t = { s with cm := cm, raler := raler, hosts := hosts, jobc := jobc, wins := wins, saved := saved }

namespace Signalled

theorem refl (s : State) : Signalled s s := ⟨_, _, _, _, _, _, rfl⟩

theorem trans {s t u : State} (h : Signalled s t) (k : Signalled t u) : Signalled s u := by
  obtain ⟨_, _, _, _, _, _, rfl⟩ := h
  obtain ⟨_, _, _, _, _, _, rfl⟩ := k
  exact ⟨_, _, _, _, _, _, rfl⟩

theorem foldl {α : Type} {f : State → α → State} (h : ∀ s a, Signalled s (f s a)) (l : List α) (s : State) : Signalled s (l.foldl f s) := by
  induction l generalizing s with
  | nil => exact refl s
  | cons a l ih => exact (h s a).trans (ih _)

section
variable {s t : State} (h : Signalled s t)
include h

theorem job : t.job = s.job := by
  obtain ⟨_, _, _, _, _, _, rfl⟩ := h
  rfl

theorem adm : t.adm = s.adm := by
  obtain ⟨_, _, _, _, _, _, rfl⟩ := h
  rfl

theorem tiers : t.tiers = s.tiers := by
  obtain ⟨_, _, _, _, _, _, rfl⟩ := h
  rfl

theorem recs : t.recs = s.recs := by
  obtain ⟨_, _, _, _, _, _, rfl⟩ := h
  rfl

end

theorem ite {p : Prop} [Decidable p] {s t u : State} (h : Signalled s t) (k : Signalled s u) : Signalled s (if p then t else u) := by
  split
  · exact h
  · exact k

theorem cmWrite (s : State) (a : Nat) (d : List Byte) : Signalled s (cmWrite s a d) := ⟨_, _, _, _, _, _, rfl⟩

theorem raler (s : State) (r : Raler) : Signalled s { s with raler := r } := ⟨_, _, _, _, _, _, rfl⟩

theorem interrupt (s : State) (v : Nat) : Signalled s (interrupt s v) := ⟨_, _, _, _, _, _, rfl⟩

theorem pqEnd (s : State) (q : Nat) (i : BitVec 32) (a b : Status) (pc : Nat) : Signalled s (pqEnd s q i a b pc) := by
  unfold Machine.pqEnd
  exact ite (((cmWrite ..).trans (raler ..)).trans (interrupt ..)) ((cmWrite ..).trans (raler ..))

theorem endProgram (s : State) (c : Nat) (a b : Status) : Signalled s (endProgram s c a b) := by
  unfold Machine.endProgram
  extract_lets x s1
  exact ite (refl s) (.trans (t := s1) ⟨_, _, _, _, _, _, rfl⟩ (pqEnd ..))

theorem raiseAll (s : State) (cs : List Nat) (b : Nat) (r : Word) : Signalled s (raiseAll s cs b r) :=
  foldl (fun _ _ => ⟨_, _, _, _, _, _, rfl⟩) cs s

theorem opDone (s : State) (o : OpRef) (code : Status) : Signalled s (opDone s o code) := by
  unfold Machine.opDone
  extract_lets x r
  exact ite (refl s) (ite ⟨_, _, _, _, _, _, rfl⟩ ⟨_, _, _, _, _, _, rfl⟩)

theorem raiseJobFault (s : State) (code : Status) : Signalled s (raiseJobFault s code) := by
  unfold Machine.raiseJobFault
  extract_lets was op ctl s1 s2 s3
  have faulted : Signalled s s1 := ⟨_, _, _, _, _, _, rfl⟩
  have ended : Signalled s s3 := (faulted.trans (foldl (fun s c => endProgram s c Code.jobFaulted 0) jobCtxs s1)).trans (raiseAll ..)
  exact ite (ite (ended.trans (.trans (t := suspendWins s3 s3.jobc.id false) ⟨_, _, _, _, _, _, rfl⟩ (opDone ..))) ended) (refl s)

end Signalled

/-- STR_FAULT (Table 8.8): a record, and its interrupt. -/
theorem noteStr_eq (s : State) (code : Status) (sched : Bool) (index pos addr : Nat) :
    noteStr s code sched index pos addr = { s with
      recs := { s.recs with str := recNote s.recs.str code (fld 17 index + flg 30 sched + fld 31 pos) addr }
      hosts := (noteStr s code sched index pos addr).hosts } := recIrq_eq _ _

section
variable (s : State) (code : Status) (sched : Bool) (index pos addr : Nat)

@[simp] theorem noteStr_job : (noteStr s code sched index pos addr).job = s.job := by rw [noteStr_eq]
@[simp] theorem noteStr_jobc : (noteStr s code sched index pos addr).jobc = s.jobc := by rw [noteStr_eq]
@[simp] theorem noteStr_tiers : (noteStr s code sched index pos addr).tiers = s.tiers := by rw [noteStr_eq]

theorem noteStr_str : (noteStr s code sched index pos addr).recs.str =
    recNote s.recs.str code (fld 17 index + flg 30 sched + fld 31 pos) addr := by rw [noteStr_eq]

end

/-! ### Unit faults, R403, R405 -/

/-- `t` has the job, the requests and STR_FAULT of `s`. -/
structure StreamsStand (s t : State) : Prop where
  job : t.job = s.job
  adm : t.adm = s.adm
  str : t.recs.str = s.recs.str

namespace StreamsStand

theorem refl (s : State) : StreamsStand s s := ⟨rfl, rfl, rfl⟩

theorem trans {s t u : State} (h : StreamsStand s t) (k : StreamsStand t u) : StreamsStand s u :=
  ⟨k.job.trans h.job, k.adm.trans h.adm, k.str.trans h.str⟩

theorem of_signalled {s t : State} (h : Signalled s t) : StreamsStand s t := ⟨h.job, h.adm, congrArg Records.str h.recs⟩

section
variable {s t : State} (h : StreamsStand s t)
include h

theorem recIrq (r : Rec) : StreamsStand s (recIrq t r) := by
  rw [recIrq_eq]
  exact ⟨h.job, h.adm, h.str⟩

theorem noteGrid (code : Status) (c u n p : Nat) (d : List Nat) : StreamsStand s (noteGrid t code c u n p d) := by
  unfold Machine.noteGrid
  apply recIrq
  exact ⟨h.job, h.adm, h.str⟩

theorem noteMu (code : Status) (c b a w : Nat) (d : List Nat) : StreamsStand s (noteMu t code c b a w d) := by
  unfold Machine.noteMu
  apply recIrq
  exact ⟨h.job, h.adm, h.str⟩

theorem noteUnit (code : Status) (c u why : Nat) (i m : Bool) (lost : Nat) (d : List Nat) :
    StreamsStand s (noteUnit t code c u why i m lost d) := by
  unfold Machine.noteUnit
  apply recIrq
  exact ⟨h.job, h.adm, h.str⟩

theorem raiseJobFault (code : Status) : StreamsStand s (raiseJobFault t code) := h.trans (of_signalled (.raiseJobFault ..))

theorem spare (c u : Nat) (code : Status) (injected held : Bool) :
    StreamsStand s (if injected then t else if held then shiftPair t c code else failPair t c u) := by
  cases injected with
  | true => exact h
  | false =>
    cases held with
    | true => exact ⟨h.job, h.adm, h.str⟩
    | false =>
      apply noteGrid
      exact ⟨h.job, h.adm, h.str⟩

theorem muFault (c : Nat) (code : Status) (a : Nat) : StreamsStand s (muFault t c code a) := (h.noteMu ..).raiseJobFault _

end

end StreamsStand

/-- R403, R405: a unit fault is counted and recorded; then it waits, stops the job, or is answered by a replay from the checkpoint. -/
theorem unitFault_cases (s : State) (c : Nat) (code : Status) (inMu injected : Bool) (d : List Nat) :
    StreamsStand s (unitFault s c code inMu injected d) ∨
    ∃ t k counts, StreamsStand s t ∧ s.job.ckpt = some k ∧
      unitFault s c code inMu injected d = chargeInterruption { restoreCkpt t k with counts := counts } := by
  unfold unitFault
  split
  · exact .inl ⟨rfl, rfl, rfl⟩
  · unfold unitFaultNow
    extract_lets pu held why runs lost s1 counts s2 s3 s4
    have counted : StreamsStand s s2 := ⟨rfl, rfl, rfl⟩
    have recorded : StreamsStand s s4 := (counted.spare ..).noteUnit ..
    split
    · exact .inl recorded
    · split
      · exact .inl (recorded.raiseJobFault _)
      · split
        · exact .inl recorded
        · next k held => exact .inr ⟨s4, k, _, recorded, recorded.job ▸ held, rfl⟩

/-! ### A replay keeps the requests, R277, R403 -/

theorem setPort_adm (s : State) (p : Nat) (x : PortSt) : (setPort s p x).adm = s.adm := by
  unfold setPort
  exact (apply_ite State.adm _ _ _).trans (ite_self _)

theorem sendFrame_adm (s : State) (e : PtEntry) (dst : Nat) (b : Body) : (sendFrame s e dst b).adm = s.adm := by
  obtain h | ⟨r, h⟩ | ⟨p, q, h⟩ := sendFrame_cases s e dst b
  · rw [h]
  · rw [h]
    rfl
  · rw [h, portQueue, setPort_adm]

theorem notify_adm (s : State) (part dst : Nat) (b : Body) : (notify s part dst b).adm = s.adm := by
  unfold notify
  split
  · rfl
  · split
    · exact sendFrame_adm ..
    · rfl

theorem returnCredits_adm (s : State) (part dst win : Nat) (gen : Byte) (n : Nat) : (returnCredits s part dst win gen n).adm = s.adm := by
  suffices h : ∀ m s n, (returnCreditsIn m s part dst win gen n).adm = s.adm from h _ s n
  intro m
  induction m with
  | zero => exact fun _ _ => rfl
  | succ m ih =>
    intro s n
    unfold returnCreditsIn
    split
    · rfl
    · rw [ih, notify_adm]

theorem replayReturns_adm (s : State) (was : Ladle) : (replayReturns s was).adm = s.adm := by
  unfold replayReturns
  extract_lets part l ret s1 s2
  have halves : s1.adm = s.adm := foldl_keeps State.adm (fun _ _ => foldl_keeps State.adm
    (fun _ _ => foldl_keeps State.adm (fun _ _ => returnCredits_adm ..) _ _) _ _) _ s
  have answers : s2.adm = s1.adm := foldl_keeps State.adm (fun _ _ => foldl_keeps State.adm (fun _ _ => returnCredits_adm ..) _ _) _ s1
  have sends : ∀ senders : List Sender, (senders.foldl (fun s x =>
      ret s (bits x.cfg.toNat 27 8) (bits x.cfg.toNat 35 6) (BitVec.ofNat 8 (bits x.cfg.toNat 41 8)) x.credit) s2).adm = s2.adm :=
    fun senders => foldl_keeps State.adm (fun _ _ => returnCredits_adm ..) senders s2
  exact (sends _).trans (answers.trans halves)

theorem restoreCkpt_adm (s : State) (k : Ckpt) : (restoreCkpt s k).adm = s.adm := replayReturns_adm s k.lad

/-- R399: a unit fault brings no request: it is charged to those that are open. -/
theorem unitFault_reqs {s : State} (idle : s.adm.reqs = []) (c : Nat) (code : Status) (inMu injected : Bool) (d : List Nat) :
    (unitFault s c code inMu injected d).adm.reqs = [] := by
  obtain stand | ⟨t, k, counts, stand, -, replay⟩ := unitFault_cases s c code inMu injected d
  · rw [stand.adm, idle]
  · have restored : (restoreCkpt t k).adm.reqs = [] := by rw [restoreCkpt_adm, stand.adm, idle]
    rw [replay, chargeInterruption, restored]
    rfl

/-! ### Accesses of an MU, R90, R97, R109 -/

/-- Nothing that a stream's access writes breaks `P`: the tiers and their caches, a cell's MU, the job's marks for a replay, the counts,
and an uncorrectable word. -/
structure KeptByAccess (P : State → Prop) : Prop where
  tiers {s : State} (t : Tiers) : P s → P { s with tiers := t }
  setMu {s : State} (c : Nat) (m : MuSt) : P s → P (setMu s c m)
  counts {s : State} (k : Counts) : P s → P { s with counts := k }
  hazard {s : State} (r : Nat) : P s → P (hazard s r)
  banksRead {s : State} (t : List (Nat × BitVec 32)) : P s → P { s with job := { s.job with banksRead := t } }
  badWord {s : State} (c a : Nat) : P s → P (muBadWord s c a true)

namespace KeptByAccess

variable {P : State → Prop} (kept : KeptByAccess P) {s : State} (h : P s)
include kept h

theorem bankZeroDone (c b : Nat) : P (bankZeroDone s c b) := by
  unfold Machine.bankZeroDone
  extract_lets m
  split
  · exact h
  · exact kept.counts _ (kept.setMu _ _ h)

theorem bankSettle (c a n : Nat) : P (bankSettle s c a n) := by
  unfold Machine.bankSettle
  induction banksOver a n generalizing s with
  | nil => exact h
  | cons b l ih => exact ih (kept.bankZeroDone h c b)

theorem muSet (c : Nat) (m : MuSt) : P (muSet s c m) := by
  unfold Machine.muSet
  split
  · exact kept.setMu _ _ h
  · exact kept.badWord _ _ (kept.setMu _ _ h)

theorem muGet (c a n : Nat) : P (muGet s c a n).2 := kept.banksRead _ (kept.muSet h _ _)

theorem muPut (c a : Nat) (data : List Byte) (gen : Bool) : P (muPut s c a data gen) := by
  refine kept.muSet ?_ _ _
  unfold noteWrite
  extract_lets b e old
  split
  · exact kept.hazard _ (kept.bankSettle h ..)
  · exact kept.bankSettle h ..

theorem devWrite (a : Nat) (data : List Byte) : P (devWrite s a data) := by
  unfold Machine.devWrite
  split
  · exact h
  · extract_lets s1 t
    split <;> exact kept.tiers _ (kept.tiers _ h)

theorem cacheRead (die mode a pinWays : Nat) (fresh : Bool) : P (cacheRead s die mode a pinWays fresh) := by
  unfold Machine.cacheRead
  dsimp only
  split
  · exact kept.tiers _ h
  · split
    · exact kept.tiers _ h
    · split <;> exact kept.tiers _ (kept.tiers _ h)

/-- R170: one word moved by a stream. -/
theorem strWord (d k : Nat) : P (strWord s d k) := by
  unfold Machine.strWord
  extract_lets c r a v w s1
  split
  · exact kept.devWrite (kept.muGet (kept.bankSettle h ..) ..) ..
  · refine kept.muPut ?_ ..
    simp only [s1]
    split
    · exact kept.cacheRead h ..
    · exact h

theorem strWords (d k n : Nat) : P (strWords s d k n) := by
  induction n generalizing s k with
  | zero => exact h
  | succ n ih => exact ih (kept.strWord h d k) _

end KeptByAccess

theorem hazard_reqs (s : State) (r : Nat) : (hazard s r).adm = s.adm := by
  unfold hazard
  exact (apply_ite State.adm _ _ _).trans (ite_self _)

/-- A stream brings no request: of faults too (R399). -/
theorem keptByAccess_noReqs : KeptByAccess fun s => s.adm.reqs = [] where
  tiers _ h := h
  setMu _ _ h := h
  counts _ h := h
  hazard r h := by rw [hazard_reqs, h]
  banksRead _ h := h
  badWord c a h := by
    unfold muBadWord
    split
    · rw [((StreamsStand.refl _).muFault ..).adm, h]
    · exact unitFault_reqs (by rw [((StreamsStand.refl _).noteMu ..).adm, h]) ..

/-- Without a checkpoint no access changes a stream or STR_FAULT. -/
structure StreamsKept (ss : List (Nat × Stream)) (r : Rec) (s : State) : Prop where
  streams : s.job.streams = ss
  ckpt : s.job.ckpt = none
  str : s.recs.str = r

theorem StreamsKept.of_stand {ss : List (Nat × Stream)} {r : Rec} {s t : State} (h : StreamsKept ss r s) (k : StreamsStand s t) :
    StreamsKept ss r t :=
  ⟨by rw [k.job, h.streams], by rw [k.job, h.ckpt], by rw [k.str, h.str]⟩

theorem keptByAccess_streamsKept (ss : List (Nat × Stream)) (r : Rec) : KeptByAccess (StreamsKept ss r) where
  tiers _ h := ⟨h.streams, h.ckpt, h.str⟩
  setMu _ _ h := ⟨h.streams, h.ckpt, h.str⟩
  counts _ h := ⟨h.streams, h.ckpt, h.str⟩
  hazard r h := by
    unfold hazard
    split
    · exact ⟨h.streams, h.ckpt, h.str⟩
    · exact h
  banksRead _ h := ⟨h.streams, h.ckpt, h.str⟩
  badWord {s} c a h := by
    unfold muBadWord
    extract_lets s1 s2 m
    split
    · exact h.of_stand ((StreamsStand.refl _).muFault ..)
    · have noted : StreamsKept ss r s1 := h.of_stand ((StreamsStand.refl _).noteMu ..)
      have faulted : StreamsKept ss r s2 := by
        obtain stand | ⟨_, k, _, -, held, -⟩ := unitFault_cases s1 c Code.muUncorrectable true false []
        · exact noted.of_stand stand
        · rw [noted.ckpt] at held
          cases held
      exact ⟨faulted.streams, faulted.ckpt, faulted.str⟩

end Sys2Proof.Machine
end

section
/-! PROOF. Moves, frames, the schedule and the streams (R161, R163, R170 to R175, R179, R182): one lemma for each outcome, and O54. -/

namespace Sys2Proof.Machine

theorem exec_pageMoveComplete (page : Nat) (s : State) :
    exec (.pageMoveComplete page) s = .next (recheckFreed s (pageMoveComplete s page)) := rfl

theorem exec_frameZeroDone (vat : Bool) (f : Nat) (s : State) : exec (.frameZeroDone vat f) s =
    .next (if (waitingSvc (frameZeroDone s vat f)).isEmpty then frameZeroDone s vat f else recheckAll (frameZeroDone s vat f)) := rfl

theorem exec_prefetchLate (k : Fin 8192) (s : State) : exec (.prefetchLate k) s = .next (prefetchLate s k) := rfl

theorem exec_tierUncorrectable (sched : Bool) (i : Nat) (a : BitVec 48) (s : State) :
    exec (.tierUncorrectable sched i a) s = .next (tierUncorrectable s sched i a.toNat) := rfl

theorem exec_streamTransferStart (d : Desc) (s : State) : exec (.streamTransferStart d) s = .next (strStart s d) := rfl

theorem exec_streamTransferComplete (d : Desc) (s : State) :
    exec (.streamTransferComplete d) s = .next (streamTransferComplete s d) := rfl

theorem exec_streamHaltedAbsent (d : Desc) (s : State) : exec (.streamHaltedAbsent d) s = .next (strHalt s d) := rfl

/-! ### Streams: what a transfer meets, R170, R175 -/

theorem getStr_setStr {s : State} {d : Nat} {v : Stream} (h : v ≠ {}) : getStr (setStr s d v) d = v := by
  simp only [getStr, setStr, Tbl.set, if_neg h, Tbl.get_insert, if_true]

theorem setStr_setStr {s : State} {d : Nat} {v w : Stream} (hv : v ≠ {}) (hw : w ≠ {}) : setStr (setStr s d v) d w = setStr s d w := by
  simp only [setStr, Tbl.set, if_neg hv, if_neg hw, Tbl.insert_insert]

theorem bankSettle_setStr (s : State) (d : Nat) (v : Stream) (c a n : Nat) :
    bankSettle (setStr s d v) c a n = setStr (bankSettle s c a n) d v := by
  refine List.foldl_hom (setStr · d v) fun s b => ?_
  cases h : (getCell s c).mu.zeroing.getLsbD b with
  | false => rw [bankZeroDone_idle h, bankZeroDone_idle (s := setStr s d v) h]
  | true =>
    rw [bankZeroDone_ends h, bankZeroDone_ends (s := setStr s d v) h]
    rfl

/-- R170: what a transfer meets rests on its ADDR and its MU_OFFSET. -/
theorem strMeet_setStr {s : State} {d : Nat} {v : Stream} (h : v ≠ {}) (addr : v.addr = (getStr s d).addr)
    (off : v.off = (getStr s d).off) (k : Nat) : strMeet (setStr s d v) d k = strMeet s d k := by
  have place : strMu (setStr s d v) d k = strMu s d k := by
    simp only [strMu, getStr_setStr h, off]
    rfl
  have inside : strInside (setStr s d v) d k = strInside s d k := by
    simp only [strInside, getStr_setStr h, off]
    rfl
  have bad (c a : Nat) : muBad (setStr (bankSettle s c a 64) d v) c a 64 = muBad (bankSettle s c a 64) c a 64 := rfl
  simp only [strMeet, place, inside, getStr_setStr h, addr, bankSettle_setStr, bad]
  rfl

/-- R170: a transfer stops at the first word that it cannot move. -/
theorem strStop_eq {s : State} {d k n m : Nat} (from_ : k ≤ m) (upto : m ≤ k + n) (words : ∀ j < m, k ≤ j → strMeet s d j = .word)
    (stop : m < k + n → strMeet s d m ≠ .word) : strStop s d k n = m := by
  induction n generalizing k with
  | zero => exact Nat.le_antisymm from_ upto
  | succ n ih =>
    unfold strStop
    obtain rfl | later := Nat.eq_or_lt_of_le from_
    · rw [if_neg (stop (by omega))]
    · rw [if_pos (words k later le_rfl)]
      exact ih later (by omega) (fun j below above => words j below (by omega)) (fun below => stop (by omega))

/-! ### Streams: a transfer starts, R174 -/

/-- R174: a stream whose transfer has started. -/
def strStarted (x : Stream) : Stream := { x with st := 2, pos := 0, quiet := false, ran := true }

theorem strStarted_ne (x : Stream) : strStarted x ≠ {} := fun h => absurd (congrArg Stream.st h) (by decide : 2 ≠ 0)

theorem strMeet_started (s : State) (d k : Nat) : strMeet (setStr s d (strStarted (getStr s d))) d k = strMeet s d k :=
  strMeet_setStr (strStarted_ne _) rfl rfl k

theorem strStart_begins {s : State} {d : Nat} (ready : strCanStart s d = true) (turn : strTurn s d = true)
    (meets : strMeet s d 0 = .word ∨ strMeet s d 0 = .absent) : strStart s d = setStr s d (strStarted (getStr s d)) := by
  have starts : (strCanStart s d && strTurn s d) = true := by rw [ready, turn, Bool.and_self]
  have same := strMeet_started s d 0
  unfold strStarted at same
  rw [strStart, if_pos starts]
  simp only [same]
  obtain h | h := meets <;> rw [h] <;> rfl

theorem strStart_waits {s : State} {d : Nat} (h : strCanStart s d = false) : strStart s d = s := by simp [strStart, h]

/-- R174, R175: a transfer whose first page is unmapped faults the job as it starts. -/
theorem strStart_unmapped {s : State} {d : Nat} (ready : strCanStart s d = true) (turn : strTurn s d = true)
    (meets : strMeet s d 0 = .unmapped) :
    ∃ a, strStart s d = raiseJobFault (noteStr (setStr s d (strStarted (getStr s d))) Code.unmappedAddress false d 0 a) Code.unmappedAddress := by
  have starts : (strCanStart s d && strTurn s d) = true := by rw [ready, turn, Bool.and_self]
  have same := strMeet_started s d 0
  have again : setStr (setStr s d (strStarted (getStr s d))) d { getStr (setStr s d (strStarted (getStr s d))) d with pos := 0 } =
      setStr s d (strStarted (getStr s d)) := by
    rw [getStr_setStr (strStarted_ne _)]
    exact setStr_setStr (strStarted_ne _) (strStarted_ne _)
  refine ⟨(strAddr (strDesc s d) (getStr (setStr s d (strStarted (getStr s d))) d).addr 0).toNat % 2 ^ 48, ?_⟩
  have faults : strStart s d = strFault (setStr s d (strStarted (getStr s d))) d 0 := by
    rw [strStart, if_pos starts]
    unfold strStarted at same ⊢
    simp only [same, meets]
  rw [faults, strFault]
  simp only [again, same, meets]
  rfl

/-! ### Streams: a transfer completes or halts, R170, R172, R175 -/

theorem treeTrigger_of_no_reqs {s : State} (idle : s.adm.reqs = []) (d : Nat) : treeTrigger s d = s := by
  have none_at (v k : Nat) : buildVerify s v k = s := by simp [buildVerify, reqAt, idle]
  refine foldl_idle fun v _ => ?_
  dsimp only
  split
  · exact foldl_idle fun k _ => none_at v k
  · rfl

theorem skTrigger_of_no_reqs {s : State} (idle : s.adm.reqs = []) (d : Nat) : skTrigger s d = s :=
  foldl_idle fun v _ => by simp [idle]

theorem strComplete_idle {s : State} {d : Nat} (h : (getStr s d).st ≠ 2) : strComplete s d = (false, s) := by simp [strComplete, h]

theorem streamTransferComplete_of_not_completed {s t : State} {d : Nat} (h : strComplete s d = (false, t)) :
    streamTransferComplete s d = t := by simp [streamTransferComplete, h]

theorem strStop_absent {s : State} {d k : Nat} (below : k < strTotal (strDesc s d)) (reached : (getStr s d).pos ≤ k)
    (words : ∀ j < k, (getStr s d).pos ≤ j → strMeet s d j = .word) (absent : strMeet s d k = .absent) :
    strStop s d (getStr s d).pos (strTotal (strDesc s d) - (getStr s d).pos) = k :=
  strStop_eq reached (by omega) words fun _ => by rw [absent]; nofun

section
variable {s : State} {d : Nat} (runs : jobRuns s = true) (transfers : (getStr s d).st = 2)
include runs transfers

/-- R170, R172: a transfer all of whose words can be moved moves them and completes. -/
theorem strComplete_completes (words : ∀ k < strTotal (strDesc s d), (getStr s d).pos ≤ k → strMeet s d k = .word)
    (within : (getStr s d).pos ≤ strTotal (strDesc s d)) (quiet : (strDesc s d).event = false) :
    let u := strWords s d (getStr s d).pos (strTotal (strDesc s d) - (getStr s d).pos)
    strComplete s d = (true, setStr u d (strDone u.now (strHeld u d) (strDesc s d) (getStr u d))) := by
  have all : strStop s d (getStr s d).pos (strTotal (strDesc s d) - (getStr s d).pos) = strTotal (strDesc s d) :=
    strStop_eq within (by omega) words (by omega)
  simp only [strComplete, runs, transfers, all, quiet, bne_self_eq_false, Bool.not_true, Bool.or_false, Bool.false_eq_true, if_false,
    Nat.lt_irrefl]

variable {k : Nat} (below : k < strTotal (strDesc s d)) (reached : (getStr s d).pos ≤ k)
  (words : ∀ j < k, (getStr s d).pos ≤ j → strMeet s d j = .word) (absent : strMeet s d k = .absent)
include below reached words absent

theorem strComplete_absent : strComplete s d = (false, s) := by
  simp only [strComplete, runs, transfers, strStop_absent below reached words absent, below, absent, bne_self_eq_false,
    Bool.not_true, Bool.or_false, Bool.false_eq_true, if_false, if_true]

/-- R175: a transfer that reaches an ABSENT page halts there; the halt is recorded and raised, but for a resumption that did not move. -/
theorem strHalt_halts :
    let u := strWords s d (getStr s d).pos (k - (getStr s d).pos)
    let v := setStr u d { getStr u d with st := 3, pos := k, quiet := false }
    strHalt s d = if (getStr s d).quiet && k == (getStr s d).pos then v else
      raiseAll (noteStr v Code.streamHaltedAbsent false d (64 * k % 2 ^ 21) (strAddr (strDesc s d) (getStr s d).addr k).toNat) jobCtxs 0
        (evRecord Code.streamHaltedAbsent 0 d) := by
  simp only [strHalt, runs, transfers, strStop_absent below reached words absent, below, absent, bne_self_eq_false,
    Bool.not_true, Bool.or_false, Bool.false_eq_true, and_self, if_false, if_true]

end

/-! ### Requests and moves that wait for frames, R161, R163, R224 -/

theorem recheckAll_of_none_pending {s : State} (h : s.adm.pending = []) : recheckAll s = s :=
  foldl_idle fun v _ => by rw [h, List.length_nil, recheck]

theorem recheckFreed_of_none_pending {s : State} (was : State) (h : s.adm.pending = []) : recheckFreed was s = s := by
  simp only [recheckFreed, recheckAll_of_none_pending h, ite_self]

theorem kickMoves_of_none {s : State} (h : s.tiers.moves = []) : kickMoves s = s := by
  simp [kickMoves, h, dropMoves]

/-- R398: nothing of the tiers is poisoned. -/
theorem anyPoison_eq_false {s : State} (near : s.tiers.badNear = []) (vat : s.tiers.badVat = []) (slots : s.tiers.lostSlots = [])
    (alive : s.ras.failedStacks = 0) : anyPoison s = false := by simp [anyPoison, near, vat, slots, alive]

theorem moveFault_clean {s : State} (h : anyPoison s = false) (m : Move) (vat : Bool) (f : Nat) : moveFault s m vat f = s := by
  simp [moveFault, moveBad, h]

theorem freeFrame_frees {s : State} {vat : Bool} {f : Nat} (h : frameSt s vat f ≠ .retired) :
    freeFrame s vat f = setFrame s vat f .zeroing := if_neg h

/-- R161, R163: the page of a completed move rests in the other tier, and the frame it read is being zeroed. -/
def moveSwitched (s : State) (page : Nat) (vat : Bool) (f g : Nat) : State :=
  setFrame (setPage (copyFrame (cacheDrop s page) vat f (!vat) g) page
    { getPage s page with st := if vat then .near g else .vat g }) vat f .zeroing

/-- A completed move writes the tiers alone. -/
theorem moveSwitched_eq (s : State) (page : Nat) (vat : Bool) (f g : Nat) :
    moveSwitched s page vat f g = { s with tiers := (moveSwitched s page vat f g).tiers } := by cases vat <;> rfl

theorem moveSwitched_moves (s : State) (page : Nat) (vat : Bool) (f g : Nat) :
    (moveSwitched s page vat f g).tiers.moves = s.tiers.moves := by cases vat <;> rfl

/-- R161, R182: the last chunk of the one move that there is, where nothing is poisoned. -/
theorem pageMoveComplete_switches {s : State} {page f g : Nat} {vat : Bool} {m : Move} (clean : anyPoison s = false)
    (moving : (getPage s page).st = .moving vat f (!vat) g) (only : s.tiers.moves = [m]) (its : m.page = page) (started : m.started = true)
    (bare : m.forOp = none) (kept : frameSt s vat f ≠ .retired) :
    pageMoveComplete s page = { s with
      tiers := { (moveSwitched s page vat f g).tiers with moves := [] }
      job := { s.job with sched := { s.job.sched with moves := s.job.sched.moves + 1 } } } := by
  have found : s.tiers.moves.find? (fun m => m.page == page && m.started) = some m := by simp [only, its, started]
  have unhurt : moveFault (cacheDrop s page) m vat f = cacheDrop s page := moveFault_clean (s := cacheDrop s page) clean m vat f
  have freed : freeFrame (setPage (copyFrame (cacheDrop s page) vat f (!vat) g) page
      { getPage s page with st := if (!vat) = true then .vat g else .near g }) vat f = moveSwitched s page vat f g := by
    cases vat <;> exact freeFrame_frees kept
  have erased : (moveSwitched s page vat f g).tiers.moves.erase m = [] := by rw [moveSwitched_moves, only, List.erase_cons_head]
  simp only [pageMoveComplete, moving, found, unhurt, clean, Bool.false_eq_true, if_false, bare, moveOpDone, freed, erased]
  rw [kickMoves_of_none rfl, moveSwitched_eq]

theorem pageMoveComplete_of_none {s : State} (h : s.tiers.moves = []) (page : Nat) : pageMoveComplete s page = s := by
  unfold pageMoveComplete
  split
  · rw [h]
    rfl
  · rfl

/-- R161, R163: what a completed move leaves, of the tiers and of the job. -/
theorem pageMoveComplete_ends {s : State} {page f g : Nat} {vat : Bool} {m : Move} (clean : anyPoison s = false) (pending : s.adm.pending = [])
    (moving : (getPage s page).st = .moving vat f (!vat) g) (only : s.tiers.moves = [m]) (its : m.page = page) (started : m.started = true)
    (bare : m.forOp = none) (kept : frameSt s vat f ≠ .retired) :
    exec (.pageMoveComplete page) s = .next { s with
      tiers := { (moveSwitched s page vat f g).tiers with moves := [] }
      job := { s.job with sched := { s.job.sched with moves := s.job.sched.moves + 1 } } } := by
  rw [exec_pageMoveComplete, pageMoveComplete_switches clean moving only its started bare kept]
  exact congrArg Host.Outcome.next (recheckFreed_of_none_pending s pending)

/-- R163: a near frame whose zeroing ends is free and zero. -/
theorem frameZeroDone_near {s : State} {f : Nat} (zeroing : frameSt s false f = .zeroing) (still : s.tiers.moves = [])
    (clean : s.tiers.badNear = []) : frameZeroDone s false f = { s with tiers := { s.tiers with
      nearF := Tbl.set .free s.tiers.nearF f .free, near := Mem.zero s.tiers.near (f * pageBytes) pageBytes } } := by
  rw [frameZeroDone, if_pos zeroing]
  simp only [Bool.false_and, Bool.false_eq_true, if_false, setFrame, cure, clean, List.filter_nil]
  exact kickMoves_of_none still

/-- R163: a Vat frame whose zeroing ends, once the Vat has been zeroed after a bring-up, is free and zero. -/
theorem frameZeroDone_vat {s : State} {f : Nat} (zeroing : frameSt s true f = .zeroing) (still : s.tiers.moves = [])
    (clean : s.tiers.badVat = []) (zeroed : s.boot.vatZeroed = true) : frameZeroDone s true f = { s with tiers := { s.tiers with
      vatF := Tbl.set .free s.tiers.vatF f .free, vat := Mem.zero s.tiers.vat (f * pageBytes) pageBytes
      cured := (cure s.tiers true (f * pageBytes) pageBytes).cured } } := by
  rw [frameZeroDone, if_pos zeroing]
  simp only [setFrame, if_true, zeroed, Bool.not_true, Bool.and_false, Bool.false_and, Bool.false_eq_true, if_false, cure, clean, List.filter_nil]
  exact kickMoves_of_none still

theorem frameZeroDone_of_not_zeroing {s : State} {vat : Bool} {f : Nat} (h : frameSt s vat f ≠ .zeroing) : frameZeroDone s vat f = s :=
  if_neg h

/-- R163: where no request is pending, none waits for a frame. -/
theorem exec_frameZeroDone_of_none_pending {s : State} {vat : Bool} {f : Nat} (h : (frameZeroDone s vat f).adm.pending = []) :
    exec (.frameZeroDone vat f) s = .next (frameZeroDone s vat f) := by
  rw [exec_frameZeroDone, recheckAll_of_none_pending h, ite_self]

/-! ### The schedule and uncorrectable reads, R179, R182 -/

theorem prefetchLate_records {s : State} {k : Nat} {e : Due} (runs : jobRuns s = true) (due : s.job.sched.due = [e]) (its : e.entry = k)
    (late : e.before ≤ s.job.sched.count) : prefetchLate s k =
      noteStr (setSched s { s.job.sched with due := [], late := s.job.sched.late + 1 }) Code.prefetchLate true k 0 (e.page * pageBytes) := by
  simp [prefetchLate, runs, due, its, late]

theorem prefetchLate_of_none_late {s : State} {k : Nat} (h : ∀ e ∈ s.job.sched.due, e.entry ≠ k ∨ s.job.sched.count < e.before) :
    prefetchLate s k = s := by
  have intime : ∀ e ∈ s.job.sched.due, (e.entry == k && decide (e.before ≤ s.job.sched.count)) = false := fun e he =>
    Bool.and_eq_false_iff.2 ((h e he).imp (fun other => beq_eq_false_iff_ne.2 other) fun early => decide_eq_false (Nat.not_le.2 early))
  have none_late : s.job.sched.due.filter (fun e => e.entry == k && decide (e.before ≤ s.job.sched.count)) = [] :=
    List.filter_eq_nil_iff.2 fun e he => by simp [intime e he]
  have all_kept : s.job.sched.due.filter (fun e => !(e.entry == k && decide (e.before ≤ s.job.sched.count))) = s.job.sched.due :=
    List.filter_eq_self.2 fun e he => by simp [intime e he]
  simp only [prefetchLate, none_late, all_kept, List.foldl_nil, List.length_nil, Nat.add_zero]
  exact ite_self _

/-- R182: an uncorrectable word that a page operation reads faults the running job, and is recorded. -/
theorem tierUncorrectable_faults {s : State} (runs : jobRuns s = true) (i a : Nat) : tierUncorrectable s false i a =
    raiseJobFault (noteStr s Code.tierUncorrectable false (i % 8192) 0 a) Code.tierUncorrectable := by
  rw [tierUncorrectable, if_pos runs]

/-- R179: the late mark of a schedule's entry records the entry in STR_FAULT. -/
theorem prefetchLate_str {s : State} {k : Nat} {e : Due} (runs : jobRuns s = true) (due : s.job.sched.due = [e]) (its : e.entry = k)
    (late : e.before ≤ s.job.sched.count) : prefetchLate s k = { s with
      job := { s.job with sched := { s.job.sched with due := [], late := s.job.sched.late + 1 } }
      recs := { s.recs with str := recNote s.recs.str Code.prefetchLate (2 ^ 17 * k + 2 ^ 30) (e.page * pageBytes) }
      hosts := (prefetchLate s k).hosts } := by
  have fields : fld 17 k + flg 30 true + fld 31 0 = 2 ^ 17 * k + 2 ^ 30 := by
    simp only [fld, flg, if_true, Nat.zero_mul, Nat.add_zero, Nat.mul_comm]
  conv_lhs => rw [prefetchLate_records runs due its late, noteStr_eq, fields]
  rw [prefetchLate_records runs due its late]
  rfl

/-- R175, R182: a fault that STR_FAULT records stops the job, which it otherwise leaves as it is. -/
theorem strFaulted_stops (runs : s.jobc.st = 1) (code : Status) (sched : Bool) (index pos addr : Nat) :
    let t := raiseJobFault (noteStr s code sched index pos addr) code
    t.jobc = { s.jobc with st := 2, fault := code } ∧ t.job = s.job ∧ t.tiers = s.tiers ∧
      t.recs.str = recNote s.recs.str code (fld 17 index + flg 30 sched + fld 31 pos) addr := by
  intro t
  have still : (noteStr s code sched index pos addr).jobc.st = 1 := by rw [noteStr_jobc, runs]
  have heard : Signalled (noteStr s code sched index pos addr) t := .raiseJobFault ..
  exact ⟨by rw [raiseJobFault_jobc still, noteStr_jobc], by rw [heard.job, noteStr_job], by rw [heard.tiers, noteStr_tiers],
    by rw [heard.recs, noteStr_str]⟩

/-! ### What a completion and a halt of a stream leave, R172, R175 -/

/-- R172: a stream that no replay repeats is re-armed with its shadow if it is persistent and has one, and is otherwise idle or done. -/
theorem strDone_once {x : Stream} (once : x.again = []) (now : Nat) (r : StrRec) : strDone now false r x =
    if r.persist then (match x.shadow with
      | none => { x with st := 0, pos := 0 }
      | some v => { x with st := 1, pos := 0, addr := v.1, off := v.2, shadow := none, took := x.took ++ [v], ready := now })
    else { x with st := 4, pos := 0 } := by
  rw [strDone, once]
  cases r.persist with
  | false => rfl
  | true => cases x.shadow <;> rfl

section
variable {s : State} {d : Nat} (runs : jobRuns s = true) (transfers : (getStr s d).st = 2)
include runs transfers

/-- R170, R172: where no request is open, a transfer that completes wakes none. -/
theorem streamTransferComplete_completes (words : ∀ k < strTotal (strDesc s d), (getStr s d).pos ≤ k → strMeet s d k = .word)
    (within : (getStr s d).pos ≤ strTotal (strDesc s d)) (quiet : (strDesc s d).event = false) (idle : s.adm.reqs = []) :
    let u := strWords s d (getStr s d).pos (strTotal (strDesc s d) - (getStr s d).pos)
    streamTransferComplete s d = setStr u d (strDone u.now (strHeld u d) (strDesc s d) (getStr u d)) := by
  intro u
  have none_open (v : Stream) : (setStr u d v).adm.reqs = [] := keptByAccess_noReqs.strWords idle ..
  rw [streamTransferComplete, strComplete_completes runs transfers words within quiet]
  simp only [if_true]
  rw [treeTrigger_of_no_reqs (none_open _), skTrigger_of_no_reqs (none_open _)]

variable {k : Nat} (below : k < strTotal (strDesc s d)) (reached : (getStr s d).pos ≤ k)
  (words : ∀ j < k, (getStr s d).pos ≤ j → strMeet s d j = .word) (absent : strMeet s d k = .absent) (bare : s.job.ckpt = none)
include below reached words absent bare

/-- R175: a halt leaves the stream at the word that it stopped at. -/
theorem strHalt_streams : (strHalt s d).job.streams = Tbl.set {} s.job.streams d { getStr s d with st := 3, pos := k, quiet := false } := by
  obtain ⟨streams, -, -⟩ := (keptByAccess_streamsKept s.job.streams s.recs.str).strWords ⟨rfl, bare, rfl⟩ d (getStr s d).pos
    (k - (getStr s d).pos)
  rw [strHalt_halts runs transfers below reached words absent]
  generalize strWords s d (getStr s d).pos (k - (getStr s d).pos) = u at streams
  have halted : (setStr u d { getStr u d with st := 3, pos := k, quiet := false }).job.streams =
      Tbl.set {} s.job.streams d { getStr s d with st := 3, pos := k, quiet := false } := by simp only [setStr, getStr, streams]
  split
  · exact halted
  · rw [raiseAll_job, noteStr_job, halted]

/-- R175: the record of a halt, which names the stream and the offset in its page. -/
theorem strHalt_str (moved : (getStr s d).quiet = false) : ∃ a, (strHalt s d).recs.str =
    recNote s.recs.str Code.streamHaltedAbsent (fld 17 d + flg 30 false + fld 31 (64 * k % 2 ^ 21)) a := by
  obtain ⟨-, -, str⟩ := (keptByAccess_streamsKept s.job.streams s.recs.str).strWords ⟨rfl, bare, rfl⟩ d (getStr s d).pos
    (k - (getStr s d).pos)
  refine ⟨(strAddr (strDesc s d) (getStr s d).addr k).toNat, ?_⟩
  simp only [strHalt_halts runs transfers below reached words absent, moved, Bool.false_and, Bool.false_eq_true, if_false, raiseAll_recs,
    noteStr_str, setStr, str]

end

/-! ### The obligation -/

/-- Settles O54: a move or a zeroing that ends is one write of the tiers, as nothing waits for the frame it frees; a fault or a late mark
is its record and its signals; and a transfer's accesses bring no request and, without a checkpoint, change no stream. -/
theorem tiersAndStreams : Obligations.TiersAndStreams := by
  refine ⟨fun s page vat f g _ near far slots alive pending => ⟨fun m moving only its started bare kept => ?move, fun still => ?still,
    fun zeroing still => ?near, fun zeroing still zeroed => ?vat, fun busy => ?other, fun k e runs due its late => ?late,
    fun k intime => ?intime, fun a runs => ?bad⟩,
    fun s d runs => ⟨fun ready turn meets => ?starts, fun ready turn meets => ?unmapped, fun waits => ?waits,
    fun transfers words within quiet idle => ?completes, fun once => ?done, fun idle => ?idle,
    fun k below transfers reached words absent free bare => ?halts, fun k below transfers reached words absent => ?absent⟩⟩
  case move =>
    refine ⟨_, pageMoveComplete_ends (anyPoison_eq_false near far slots alive) pending moving only its started bare kept, ?_⟩
    cases vat with
    | true => exact ⟨rfl, rfl, rfl, rfl, fun _ => ⟨rfl, rfl, rfl, rfl⟩, nofun, rfl⟩
    | false => exact ⟨rfl, rfl, rfl, rfl, nofun, fun _ => ⟨rfl, rfl, rfl, rfl⟩, rfl⟩
  case still =>
    refine ends_eq ?_
    rw [exec_pageMoveComplete, pageMoveComplete_of_none still, recheckFreed_of_none_pending s pending]
  case near =>
    have freed := frameZeroDone_near zeroing still near
    exact ends_eq ((exec_frameZeroDone_of_none_pending (by rw [freed, pending])).trans (congrArg _ freed))
  case vat =>
    have freed := frameZeroDone_vat zeroing still far zeroed
    exact ⟨_, (exec_frameZeroDone_of_none_pending (by rw [freed, pending])).trans (congrArg _ freed), rfl, rfl, rfl⟩
  case other =>
    have same := frameZeroDone_of_not_zeroing busy
    exact ends_eq ((exec_frameZeroDone_of_none_pending (by rw [same, pending])).trans (congrArg _ same))
  case late =>
    exact ⟨_, (exec_prefetchLate k s).trans (congrArg _ (prefetchLate_str runs due its late)), rfl, rfl, rfl⟩
  case intime => exact ends_eq ((exec_prefetchLate k s).trans (congrArg _ (prefetchLate_of_none_late intime)))
  case bad =>
    obtain ⟨stops, job, tiers, str⟩ := strFaulted_stops (jobRuns_st runs) Code.tierUncorrectable false (g % 8192) 0 a.toNat
    refine ⟨_, (exec_tierUncorrectable false g a s).trans (congrArg _ (tierUncorrectable_faults runs g a.toNat)), stops, job, tiers, ?_⟩
    rw [str, fld, fld, flg, Nat.mul_comm]
    rfl
  case starts => exact ends_eq ((exec_streamTransferStart d s).trans (congrArg _ (strStart_begins ready turn meets)))
  case unmapped =>
    obtain ⟨a, faults⟩ := strStart_unmapped ready turn meets
    obtain ⟨stops, job, -, -⟩ := strFaulted_stops (s := setStr s d (strStarted (getStr s d))) (jobRuns_st runs) Code.unmappedAddress false d 0 a
    exact ⟨_, (exec_streamTransferStart d s).trans (congrArg _ faults), stops, job⟩
  case waits => exact ends_eq ((exec_streamTransferStart d s).trans (congrArg _ (strStart_waits waits)))
  case completes =>
    exact ends_eq ((exec_streamTransferComplete d s).trans (congrArg _ (streamTransferComplete_completes runs transfers words within quiet idle)))
  case done => exact strDone_once once s.now (strDesc s d)
  case idle => exact ends_eq ((exec_streamTransferComplete d s).trans
    (congrArg _ (streamTransferComplete_of_not_completed (strComplete_idle idle))))
  case halts =>
    refine ⟨_, exec_streamHaltedAbsent d s, strHalt_streams runs transfers below reached words absent bare, fun moved => ?_⟩
    obtain ⟨a, str⟩ := strHalt_str runs transfers below reached words absent bare moved
    have code : Code.streamHaltedAbsent.toNat = 0x0310 := rfl
    rw [str, recNote_of_free free, code]
    simp only [fld, flg, Bool.false_eq_true, if_false, Nat.add_zero, Nat.mul_comm (2 ^ _), ← Nat.add_assoc]
  case absent => exact ends_eq ((exec_streamTransferComplete d s).trans
    (congrArg _ (streamTransferComplete_of_not_completed (strComplete_absent runs transfers below reached words absent))))

end Sys2Proof.Machine
end

section
/-! PROOF. The Cellar (R232, R235 to R237, R240, R242): the registers that the owner writes, what a copy into the pool writes when it
completes, the re-arm of a slot map, and O58. -/

namespace Sys2Proof.Machine

theorem exec_csKvareaWrite (n : Slot) (v : Svc) (value : Word) (s : State) :
    exec (.csKvareaWrite n v value) s = hostReg s n (0x901008 + 0x40 * v) value.toNat := rfl

theorem exec_csPoolWrite (n : Slot) (v : Svc) (value : Word) (s : State) :
    exec (.csPoolWrite n v value) s = hostReg s n (0x901000 + 0x40 * v) value.toNat := rfl

theorem exec_release (n : Slot) (q : Fin 4096) (s : State) : exec (.release n q) s = hostReg s n 0x900028 (1 + fld 2 q) := rfl

theorem exec_dropPrefix (n : Slot) (v : Svc) (s : State) : exec (.dropPrefix n v) s = hostReg s n 0x900028 (2 + fld 14 v) := rfl

theorem exec_blockCopyComplete (i : Nat) (s : State) : exec (.blockCopyComplete i) s = .next (blockCopyComplete s i) := rfl

theorem exec_slotMapRearm (v : Svc) (k : Win) (w : MapDesc) (s : State) :
    exec (.slotMapRearm v k w) s = .next (slotMapRearm s v k (mapKind w)) := rfl

/-! ### Registers of the Cellar that the owner writes, R445, Tables 11.5 and 11.6 -/

/-- R445: an RWO register takes the owner's write of a value that sets no reserved bit. -/
theorem hostReg_takes {s : State} {n : Slot} {off v mask : Nat} (h : OwnerAnswers s n) (hp : RegisterPlace off)
    (hat : (regAt s true off).isSome = true) (hk : regKind off = some (true, mask)) (hv : v &&& mask = v) :
    hostReg s n off v = .next (slotNote (regDo s n off v) n 0 off) := by
  obtain ⟨answers, owns⟩ := h
  rw [hostReg, hostWrite_register v answers hp, regWrite_may hat hk (may_of_owns fun _ => owns), hv, reservedNote_inMask hv]

/-- The offset of CS_POOL of a service, Table 11.6. -/
abbrev csPoolAt (v : Svc) : Nat := 0x901000 + 0x40 * v.val

/-- The offset of CS_KVAREA of a service, Table 11.6. -/
abbrev csKvareaAt (v : Svc) : Nat := 0x901008 + 0x40 * v.val

theorem registerPlace_cs (v : Svc) : RegisterPlace (csPoolAt v) ∧ RegisterPlace (csKvareaAt v) := by
  have := v.isLt
  unfold RegisterPlace csPoolAt csKvareaAt
  omega

theorem regAt_cs (s : State) (v : Svc) :
    (regAt s true (csPoolAt v)).isSome = true ∧ (regAt s true (csKvareaAt v)).isSome = true := by
  fin_cases v <;> exact ⟨rfl, rfl⟩

theorem regKind_cs : ∀ v : Svc, regKind (csPoolAt v) = some (true, ones 47) ∧ regKind (csKvareaAt v) = some (true, ones 32) := by decide

theorem regDo_cs (s : State) (n : Nat) (v : Svc) (w : Word) :
    regDo s n (csPoolAt v) w.toNat = poolWrite s v w ∧ regDo s n (csKvareaAt v) w.toNat = kvAreaWrite s v w := by
  have value : BitVec.ofNat 64 w.toNat = w := by rw [BitVec.ofNat_toNat, BitVec.setWidth_eq]
  constructor
  · refine Eq.trans ?_ (congrArg (poolWrite s v) value)
    fin_cases v <;> rfl
  · refine Eq.trans ?_ (congrArg (kvAreaWrite s v) value)
    fin_cases v <;> rfl

section
variable {s : State} {n : Slot} (h : OwnerAnswers s n)
include h

theorem exec_csPoolWrite_takes (v : Svc) {w : Word} (hw : w.toNat < 2 ^ 47) :
    exec (.csPoolWrite n v w) s = .next (slotNote (poolWrite s v w) n 0 (csPoolAt v)) := by
  rw [exec_csPoolWrite, hostReg_takes h (registerPlace_cs v).1 (regAt_cs s v).1 (regKind_cs v).1 (and_ones_of_lt hw), (regDo_cs ..).1]

theorem exec_csKvareaWrite_takes (v : Svc) {w : Word} (hw : w.toNat < 2 ^ 32) :
    exec (.csKvareaWrite n v w) s = .next (slotNote (kvAreaWrite s v w) n 0 (csKvareaAt v)) := by
  rw [exec_csKvareaWrite, hostReg_takes h (registerPlace_cs v).2 (regAt_cs s v).2 (regKind_cs v).2 (and_ones_of_lt hw), (regDo_cs ..).2]

/-- R445: a command below bit 18 sets no reserved bit of CEL_CMD. -/
theorem hostReg_celCmd {w : Nat} (hw : w < 2 ^ 18) :
    hostReg s n 0x900028 w = .next (slotNote (celCmdWrite s (BitVec.ofNat 64 w)) n 0 0x900028) := by
  have unreserved : w &&& (ones 18 + fld 32 (ones 16)) = w := by
    have within : ones 18 &&& (ones 18 + fld 32 (ones 16)) = ones 18 := by decide
    rw [← and_ones_of_lt hw, Nat.and_assoc, within]
  exact hostReg_takes h (by decide) rfl (by decide) unreserved

end

/-! ### The key-value area and the pool of a service, R235, R236, R257 -/

theorem and_mask_of_lt {w mask : Word} {k : Nat} (hm : mask.toNat = 2 ^ k - 1) (hw : w.toNat < 2 ^ k) : w &&& mask = w :=
  BitVec.eq_of_toNat_eq (by rw [BitVec.toNat_and, hm, Nat.and_two_pow_sub_one_of_lt_two_pow hw])

theorem getSvc_of_forall {P : Service → Prop} {s : State} (h : ∀ y ∈ s.adm.svcs, P y) (h0 : P {}) (v : Nat) : P (getSvc s v) := by
  rw [getSvc, nth, List.getD_eq_getElem?_getD]
  cases hv : s.adm.svcs[v]? with
  | none => exact h0
  | some y => exact h y (List.mem_of_getElem? hv)

section
variable {s : State} {v : Nat} {w : Word}

theorem kvAreaWrite_locked (h : svcLocked s v = true) : kvAreaWrite s v w = (some Code.busy, s) := by simp [kvAreaWrite, h]

theorem poolWrite_locked (h : svcLocked s v = true) : poolWrite s v w = (some Code.busy, s) := by simp [poolWrite, h]

section
variable {a sh n : Nat} (unlocked : svcLocked s v = false) (bare : svcHolds s v = false) (page : bits w.toNat 0 27 = a)
include unlocked bare page

/-- R235: an area of 64 slots of 2^SPAN pages, aligned to its size, is placed where no service has an area or a pool. -/
theorem kvAreaWrite_places (span : bits w.toNat 27 5 = sh) (low : w.toNat < 2 ^ 32) (least : 10 ≤ sh) (most : sh ≤ 20)
    (aligned : a % (64 * 2 ^ sh) = 0) (alone : ∀ y ∈ s.adm.svcs, y.areaSet = false ∧ y.poolPages = 0) :
    kvAreaWrite s v w = (none, setSvc s v { getSvc s v with area := w, areaSet := true }) := by
  have apart (t : Nat) := getSvc_of_forall (P := fun y => y.areaSet = false ∧ y.poolPages = 0) alone ⟨rfl, rfl⟩ t
  have kept : w &&& 0xFFFFFFFF = w := and_mask_of_lt rfl low
  simp only [kvAreaWrite, unlocked, bare, page, span, kept]
  simp [apart, aligned, Nat.not_lt.2 least, Nat.not_lt.2 most]

/-- R235: a span of fewer than 2^10 or more than 2^20 pages, or an area not aligned to its size, is refused. -/
theorem kvAreaWrite_refuses (span : bits w.toNat 27 5 = sh) (illegal : sh < 10 ∨ 20 < sh ∨ a % (64 * 2 ^ sh) ≠ 0) :
    kvAreaWrite s v w = (some Code.badArgument, s) := by
  have refused (clash : Prop) : sh < 10 ∨ 20 < sh ∨ a % (64 * 2 ^ sh) ≠ 0 ∨ clash := by tauto
  simp only [kvAreaWrite, unlocked, bare, page, span, refused, Bool.or_self, Bool.false_eq_true, if_false, if_true]

/-- R236: a pool whose pages are all mapped is placed. -/
theorem poolWrite_places (pages : bits w.toNat 27 20 = n) (low : w.toNat < 2 ^ 47)
    (mapped : ∀ i < n, (getPage s (a + i)).st ≠ .unmapped) : poolWrite s v w = (none, setSvc s v { getSvc s v with pool := w }) := by
  have kept : w &&& 0x7FFFFFFFFFFF = w := and_mask_of_lt rfl low
  simp only [poolWrite, unlocked, bare, page, pages, kept]
  simpa using mapped

/-- R236: a pool with an unmapped page, such as its first, is refused. -/
theorem poolWrite_unmapped (pages : bits w.toNat 27 20 = n) (some_page : n ≠ 0) (unmapped : (getPage s a).st = .unmapped) :
    poolWrite s v w = (some Code.pageState, s) := by
  have met : ∃ i < n, (getPage s (a + i)).st = .unmapped := ⟨0, Nat.pos_of_ne_zero some_page, unmapped⟩
  simp only [poolWrite, unlocked, bare, page, pages]
  simpa using met

end

end

/-! ### CEL_CMD, R232, R240 -/

theorem celCmdWrite_release {w : Word} (op : bits w.toNat 0 2 = 1) (s : State) :
    let r := releaseSeq s (bits w.toNat 2 12)
    celCmdWrite s w = (none, setAdm r.2 { r.2.adm with cmd := BitVec.ofNat 64 (w.toNat % 2 ^ 18 + fld 32 r.1.toNat) }) := if_pos op

theorem celCmdWrite_dropPrefix {w : Word} (op : bits w.toNat 0 2 = 2) (s : State) :
    let t := dropPrefix s (bits w.toNat 14 4)
    celCmdWrite s w = (none, setAdm t { t.adm with cmd := BitVec.ofNat 64 (w.toNat % 2 ^ 18 + fld 32 Code.ok.toNat) }) := by
  have other : bits w.toNat 0 2 ≠ 1 := by omega
  exact (if_neg other).trans (if_pos op)

section
variable {s : State} {n : Slot} (h : OwnerAnswers s n)
include h

/-- R232: RELEASE leaves what `releaseSeq` leaves, with its status in CEL_CMD. -/
theorem exec_release_takes (q : Fin 4096) {st : Status} {u : State} {m : Nat} (releases : releaseSeq s q = (st, u))
    (answer : 1 + 4 * q.val + 2 ^ 32 * st.toNat = m) :
    exec (.release n q) s = .next (setAdm u { u.adm with cmd := BitVec.ofNat 64 m }) := by
  have := q.isLt
  have command : 1 + fld 2 q = 1 + 4 * q.val := by unfold fld; omega
  have value : (BitVec.ofNat 64 (1 + 4 * q.val)).toNat = 1 + 4 * q.val := Nat.mod_eq_of_lt (by omega)
  have op : bits (1 + 4 * q.val) 0 2 = 1 := by unfold bits; omega
  have entry : bits (1 + 4 * q.val) 2 12 = q := by unfold bits; omega
  have low : (1 + 4 * q.val) % 2 ^ 18 = 1 + 4 * q.val := Nat.mod_eq_of_lt (by omega)
  rw [exec_release, command, hostReg_celCmd h (by omega), celCmdWrite_release (by rw [value, op]), slotNote_of_none rfl, value, entry, low,
    releases, fld, Nat.mul_comm (BitVec.toNat _), answer]

/-- R240: DROP_PREFIX leaves what `dropPrefix` leaves, and OK in CEL_CMD. -/
theorem exec_dropPrefix_takes (v : Svc) :
    exec (.dropPrefix n v) s = .next (setAdm s { (dropPrefix s v).adm with cmd := BitVec.ofNat 64 (2 + 2 ^ 14 * v.val) }) := by
  have := v.isLt
  have command : 2 + fld 14 v = 2 + 2 ^ 14 * v.val := by unfold fld; omega
  have value : (BitVec.ofNat 64 (2 + 2 ^ 14 * v.val)).toNat = 2 + 2 ^ 14 * v.val := Nat.mod_eq_of_lt (by omega)
  have op : bits (2 + 2 ^ 14 * v.val) 0 2 = 2 := by unfold bits; omega
  have svc : bits (2 + 2 ^ 14 * v.val) 14 4 = v := by unfold bits; omega
  have low : (2 + 2 ^ 14 * v.val) % 2 ^ 18 + fld 32 Code.ok.toNat = 2 + 2 ^ 14 * v.val := Nat.mod_eq_of_lt (by omega)
  rw [exec_dropPrefix, command, hostReg_celCmd h (by omega), celCmdWrite_dropPrefix (by rw [value, op]), slotNote_of_none rfl, value, svc,
    low]
  rfl

end

theorem releaseSeq_resident {s : State} {q : Nat} (resident : (getSeq s q).st = 2) (own : (getSeq s q).pool = []) :
    releaseSeq s q = (Code.ok, setAdm s { s.adm with seqs := Tbl.erase s.adm.seqs q }) := by
  rw [releaseSeq, if_neg (not_not.2 resident), freeSeq, own]
  rfl

theorem releaseSeq_busy {s : State} {q : Nat} (h : (getSeq s q).st ≠ 2) : releaseSeq s q = (Code.sequenceBusy, s) := if_pos h

/-! ### Device memory and admission are apart -/

theorem setAdm_setAdm (s : State) (x y : Adm) : setAdm (setAdm s x) y = setAdm s y := rfl

theorem devSpan_setAdm (s : State) (x : Adm) (f a n : Nat) : devSpan (setAdm s x) f a n = devSpan s f a n := by
  induction f generalizing a n with
  | zero => rfl
  | succ f ih =>
    simp only [devSpan, ih]
    rfl

theorem devWrite_setAdm (s : State) (x : Adm) (a : Nat) (bs : List Byte) : devWrite (setAdm s x) a bs = setAdm (devWrite s a bs) x := by
  have same : devLoc (setAdm s x) a = devLoc s a := rfl
  unfold devWrite
  rw [same]
  split
  · rfl
  · dsimp only
    split <;> rfl

theorem devStore_setAdm (s : State) (x : Adm) (a : Nat) (bs : List Byte) : devStore (setAdm s x) a bs = setAdm (devStore s a bs) x := by
  suffices h : ∀ f s a bs, devPut (setAdm s x) f a bs = setAdm (devPut s f a bs) x from h _ s a bs
  intro f
  induction f with
  | zero => exact fun _ _ _ => rfl
  | succ f ih =>
    intro s a bs
    unfold devPut
    split
    · rfl
    · dsimp only
      rw [devWrite_setAdm, ih]

theorem devWrite_now (s : State) (a : Nat) (bs : List Byte) : (devWrite s a bs).now = s.now := by
  unfold devWrite
  split
  · rfl
  · dsimp only
    split <;> rfl

theorem devStore_now (s : State) (a : Nat) (bs : List Byte) : (devStore s a bs).now = s.now := by
  suffices h : ∀ f s a bs, (devPut s f a bs).now = s.now from h _ s a bs
  intro f
  induction f with
  | zero => exact fun _ _ _ => rfl
  | succ f ih =>
    intro s a bs
    unfold devPut
    split
    · rfl
    · rw [ih, devWrite_now]

/-! ### A copy into the pool, R237, R240 -/

theorem blockCopyComplete_none {s : State} {i : Nat} (h : s.adm.copies[i]? = none) : blockCopyComplete s i = s := by
  rw [blockCopyComplete, h]

/-- R240: a block with a hash stays in the pool. -/
theorem settleBlock_indexed {s : State} {b : PBlock} {hash : List Byte} (blocks : s.adm.blocks = [b]) (indexed : b.hash = some hash)
    (job v i : Nat) : settleBlock s job v i = s := by
  unfold settleBlock
  split
  · rfl
  · next x found =>
    have only : x = b := by
      have member := List.mem_of_find?_eq_some found
      rwa [blocks, List.mem_singleton] at member
    rw [if_neg (by simp [only, indexed])]

theorem modBlock_only {s : State} {b : PBlock} {job v i : Nat} (blocks : s.adm.blocks = [b])
    (named : b.job = job ∧ b.svc = v ∧ b.idx = i) (f : PBlock → PBlock) :
    modBlock s job v i f = setAdm s { s.adm with blocks := [f b] } := by
  simp [modBlock, blocks, named]

theorem poolReady_setAdm (s : State) {x : Adm} (same : x.svcs = s.adm.svcs) (v i : Nat) : poolReady (setAdm s x) v i = poolReady s v i := by
  simp only [poolReady, getSvc, setAdm, same]
  rfl

/-- Admission once its only copy has left the list, for its only block `b`, which is no longer busy. -/
def copyTaken (a : Adm) (b : PBlock) : Adm := { a with copies := [], blocks := [{ b with busy := false }] }

/-- R237, R240: the one copy outstanding completes into the one block: its bytes are written and the block is published. -/
theorem blockCopyComplete_publishes {s : State} {c : BCopy} {b : PBlock} {hash : List Byte} (held : jobHeld s = true)
    (copies : s.adm.copies = [c]) (blocks : s.adm.blocks = [b]) (job : c.job = s.jobc.id) (live : c.orphan = false)
    (hashed : c.hash = some hash) (named : b.job = c.job ∧ b.svc = c.svc ∧ b.idx = c.idx) (fresh : b.hash = none)
    (ready : poolReady s c.svc c.idx = true) :
    let x := getSvc s c.svc
    blockCopyComplete s 0 =
      setAdm (devStore s (poolAddr x c.idx) (devAll s (x.slotBase c.slot * pageBytes + c.own * x.blockBytes) (c.n * x.kvBytes)))
        { s.adm with
          copies := [], published := s.adm.published + 1, blocks := [{ b with busy := false, hash := some hash, last := s.now }] } := by
  intro x
  have entry : s.adm.copies[0]? = some c := by rw [copies]; rfl
  have here : ¬ (c.job != s.jobc.id || !jobHeld s) = true := by simp [job, held]
  unfold blockCopyComplete
  rw [entry]
  dsimp -zeta only
  rw [if_neg here]
  extract_lets _ taken freed y _ _ _ stored adm counted indexed
  have freed_eq : freed = setAdm s (copyTaken s.adm b) := by
    refine (modBlock_only (s := taken) blocks named _).trans ?_
    simp only [taken, copies]
    rfl
  have ready_still : ¬ (!poolReady freed c.svc c.idx) = true := by
    simp [freed_eq, poolReady_setAdm s (x := copyTaken s.adm b) rfl, ready]
  have same_service : y = x := by simp only [y, freed_eq]; rfl
  have stored_eq : stored = setAdm (devStore s (poolAddr x c.idx)
      (devAll s (x.slotBase c.slot * pageBytes + c.own * x.blockBytes) (c.n * x.kvBytes))) (copyTaken s.adm b) := by
    simp only [stored, same_service, freed_eq, devAll, devSpan_setAdm, devStore_setAdm]
  have only_block : stored.adm.blocks = [{ b with busy := false }] := by rw [stored_eq]; rfl
  have indexed_eq : indexed = modBlock counted c.job c.svc c.idx fun b => { b with hash := some hash, last := counted.now } := by
    simp only [indexed, hashed]
    rw [only_block, if_neg (by simp [fresh]), if_neg (by simp [fresh])]
  rw [live, if_neg Bool.false_ne_true, if_neg ready_still, indexed_eq, modBlock_only (s := counted) only_block named,
    settleBlock_indexed rfl rfl]
  simp only [counted, adm, stored_eq, setAdm_now, devStore_now, setAdm_setAdm]
  rfl

/-! ### The re-arm of a slot map, R241, R242 -/

/-- R242: the one re-arm that waits arms an idle descriptor, and waits no longer. -/
theorem slotMapRearm_arms {s : State} {r : Req} {v k w at_ d : Nat} (runs : jobRuns s = true) (reqs : s.adm.reqs = [r])
    (named : r.svc = v ∧ r.slot = k) (job : r.job = s.jobc.id) (waiting : r.rearms = [(w, at_)]) (none_issued : r.issued = [])
    (map_read : readable s ((getSvc s v).mapAddr + 64 * k) 64 = true) (desc : bits (slotEntry s v k) (16 * w) 11 = d)
    (accepted : Rearms s d at_ none) (idle : (getStr s d).st = 0) (bare : (getStr s d).shadow = none) :
    slotMapRearm s v k w =
      setAdm (setStr s d (strArmed s.now (at_, (getStr s d).off) (getStr s d))) { s.adm with reqs := [{ r with rearms := [] }] } := by
  have at_slot : reqAt s v k = some r := by simp [reqAt, reqs, named]
  have live : (r.job != s.jobc.id || !jobRuns s) = false := by simp [job, runs]
  have armed : strArmed s.now (at_, (getStr s d).off) (getStr s d) ≠ {} := fun h => absurd (congrArg Stream.st h) (by decide : 1 ≠ 0)
  have shadow : (strArmed s.now (at_, (getStr s d).off) (getStr s d)).shadow = none := bare
  simp only [slotMapRearm, at_slot, waiting, List.find?_cons, beq_self_eq_true, live, map_read, desc, bare, strRearm_arms accepted idle,
    getStr_setStr armed, Option.getD_none, shadow]
  simp [modReq, reqs, named, setAdm, waiting, none_issued]

/-! ### The obligation -/

/-- Settles O58: a register of a service and CEL_CMD take the owner's write, and each outcome of that write is one lemma above; a copy that
completes and a re-arm that is issued write device memory or one stream, and the Cellar's tables. -/
theorem cellar : Obligations.Cellar := by
  intro s n v q k value _ x e put a sh
  have page : bits value.toNat 0 27 = a := bits_low ..
  have span : bits value.toNat 27 5 = sh := rfl
  refine ⟨fun owner low unlocked bare => ⟨fun least most aligned alone => ?area, fun illegal => ?areaRefused⟩,
    fun owner low unlocked bare => ⟨fun mapped => ?pool, fun some_page unmapped => ?poolRefused⟩,
    fun owner locked low => ⟨?areaLocked, ?poolLocked⟩, fun owner resident own => ?released, fun owner busy => ?notReleased,
    fun owner => ends_eq (exec_dropPrefix_takes owner v),
    fun c b hash held copies blocks job svc live hashed bjob bsvc bidx fresh ready => ?published, fun idle => ?idle,
    fun r w at_ runs reqs svc slot job waiting none_issued map_read enabled persistent aligned below idle bare => ?rearmed⟩
  case area =>
    refine ends_eq ?_
    rw [exec_csKvareaWrite_takes owner v low, kvAreaWrite_places unlocked bare page span low least most aligned alone, slotNote_of_none rfl]
    rfl
  case areaRefused =>
    refine ends_eq ?_
    rw [exec_csKvareaWrite_takes owner v low, kvAreaWrite_refuses unlocked bare page span illegal, slotNote_of_some rfl]
    rfl
  case pool =>
    have pages : bits value.toNat 27 20 = value.toNat / 2 ^ 27 := Nat.mod_eq_of_lt (by omega)
    refine ends_eq ?_
    rw [exec_csPoolWrite_takes owner v low, poolWrite_places unlocked bare page pages low mapped, slotNote_of_none rfl]
    rfl
  case poolRefused =>
    have pages : bits value.toNat 27 20 = value.toNat / 2 ^ 27 := Nat.mod_eq_of_lt (by omega)
    refine ends_eq ?_
    rw [exec_csPoolWrite_takes owner v low, poolWrite_unmapped unlocked bare page pages some_page unmapped, slotNote_of_some rfl]
    rfl
  case areaLocked =>
    refine ends_eq ?_
    rw [exec_csKvareaWrite_takes owner v low, kvAreaWrite_locked locked, slotNote_of_some rfl]
    rfl
  case poolLocked =>
    refine ends_eq ?_
    rw [exec_csPoolWrite_takes owner v (by omega), poolWrite_locked locked, slotNote_of_some rfl]
    rfl
  case released => exact ends_eq (exec_release_takes owner q (releaseSeq_resident resident own) (Nat.add_zero _))
  case notReleased => exact ends_eq (exec_release_takes owner q (releaseSeq_busy busy) rfl)
  case published =>
    have named : b.job = c.job ∧ b.svc = c.svc ∧ b.idx = c.idx := ⟨bjob, bsvc.trans svc.symm, bidx⟩
    have published := blockCopyComplete_publishes held copies blocks job live hashed named fresh (by rwa [svc])
    rw [svc] at published
    exact ends_eq ((exec_blockCopyComplete 0 s).trans (congrArg _ published))
  case idle => exact ends_eq ((exec_blockCopyComplete 0 s).trans (congrArg _ (blockCopyComplete_none (by rw [idle]; rfl))))
  case rearmed =>
    have accepted : Rearms s _ at_ none := ⟨enabled, persistent, aligned, below, rfl, by decide⟩
    have rearmed := slotMapRearm_arms runs reqs ⟨svc, slot⟩ job waiting none_issued map_read rfl accepted idle bare
    exact ends_eq ((exec_slotMapRearm v k w s).trans (congrArg _ rearmed))

end Sys2Proof.Machine
end

section
/-! PROOF. What the Ladle sends (R264, R265, R273): what a read of an MU leaves as it is, one lemma for each outcome of a dispatch's and
of a collector's send, and O51. -/

namespace Sys2Proof.Machine

theorem exec_ladleRowSend (d : Fin 16) (s : State) : exec (.ladleRowSend d) s = .next (ladleRowSend s d) := rfl

theorem exec_ladleAnswerSend (c : Fin 64) (s : State) : exec (.ladleAnswerSend c) s = .next (ladleAnswerSend s c) := rfl

/-! ### A read of an MU that returns bytes keeps the Ladle, R90, R109 -/

theorem bankZeroDone_lad (s : State) (c b : Nat) : (bankZeroDone s c b).job.lad = s.job.lad := by
  unfold bankZeroDone
  extract_lets m m'
  exact (apply_ite (fun t : State => t.job.lad) _ _ _).trans (ite_self _)

theorem bankSettle_lad (s : State) (c a n : Nat) : (bankSettle s c a n).job.lad = s.job.lad :=
  foldl_keeps (fun t : State => t.job.lad) (fun t b => bankZeroDone_lad t c b) _ s

theorem not_poisoned_of_muBad_none {s : State} {c a n w : Nat} (h : muBad s c a n = none) (lo : a / 64 ≤ w) (hi : w ≤ (a + n - 1) / 64) :
    w ∉ (getCell s c).mu.poison := by
  rw [muBad, List.find?_eq_none] at h
  have clean := h w (List.mem_map.2 ⟨w - a / 64, List.mem_range.2 (by omega), by omega⟩)
  simpa using clean

/-- R90, R97: the lines that a read flushes are of the words that it reads, none of which is uncorrectable. -/
theorem muSet_muRead {s : State} {c a n : Nat} (h : muBad s c a n = none) :
    muSet s c (muRead (getCell s c).mu a n).2 = setMu s c (muRead (getCell s c).mu a n).2 := by
  refine muSet_of_lines_kept fun l hl bad => coalFlush_keeps_line hl (Bool.eq_false_iff.2 fun within => ?_)
  simp only [Bool.and_eq_true, decide_eq_true_eq] at within
  exact not_poisoned_of_muBad_none h within.1 within.2 (coalFlush_poison bad)

theorem muTry_lad {s u : State} {c a n : Nat} {bs : List Byte} (h : muTry s c a n = (some bs, u)) : u.job.lad = s.job.lad := by
  unfold muTry at h
  extract_lets t at h
  split at h
  · simp at h
  · next good =>
    injection h with _ read
    have flushed : (muGet t c a n).2 = noteRead (setMu t c (muRead (getCell t c).mu a n).2) c a n := by
      rw [← muSet_muRead good]
      rfl
    rw [← read, flushed]
    exact bankSettle_lad s c a n

theorem muThen_of_read {s u : State} {c a n : Nat} {bs : List Byte} (h : muTry s c a n = (some bs, u)) (k : List Byte → State → State) :
    muThen s c a n k = k bs u := by
  rw [muThen, h]

/-! ### A half-batch written back as it stands -/

theorem set_nth_self {α : Type} (d : α) (l : List α) (i : Nat) : l.set i (nth d l i) = l := by
  rw [nth, List.getD_eq_getElem?_getD]
  obtain inside | beyond := Nat.lt_or_ge i l.length
  · rw [List.getElem?_eq_getElem inside, Option.getD_some, List.set_getElem_self]
  · exact List.set_eq_of_length_le beyond

theorem setDisp_self (s : State) (d : Nat) : setDisp s d (getDisp s d) = s := by
  rw [setDisp, getDisp, set_nth_self]
  rfl

theorem modHalf_self {s : State} {d : Nat} {h : DispHalf} (alone : (getDisp s d).flight = [h]) : modHalf s d h.epoch (fun _ => h) = s := by
  have same : (getDisp s d).flight.map (fun g => if g.epoch == h.epoch then h else g) = (getDisp s d).flight := by simp [alone]
  rw [modHalf, same]
  exact setDisp_self s d

/-! ### A dispatch sends, R264, R265 -/

theorem redoRow_eq_none {h : DispHalf} (clean : ∀ y ∈ h.rows, y.redo = []) : redoRow [h] = none := by
  have none_again : h.rows.filter (fun r => !r.redo.isEmpty) = [] := List.filter_eq_nil_iff.2 fun r hr => by simp [clean r hr]
  simp [redoRow, none_again]

theorem skipVoid_of_waits {void : Nat → Bool} {r : LadRow} {rest : List LadRow} (waits : r.st = 0) (stands : void r.p = false) :
    skipVoid void (r :: rest) = r :: rest := by
  simp [skipVoid, waits, stands]

theorem ladleRowSend_idle {s : State} {d : Nat} (idle : (getDisp s d).flight = []) : ladleRowSend s d = s := by
  simp [ladleRowSend, idle, redoRow]

section
variable {s : State} {d : Nat} (runs : jobRuns s = true) (named : d < ladDisps (ladSec s))
include runs named

/-- R280, R299: a unit to be written again goes before any row. -/
theorem ladleRowSend_again {h : DispHalf} {r : LadRow} (again : redoRow (getDisp s d).flight = some (h, r)) :
    ladleRowSend s d = unitGoes s d (ladDisp (ladSec s) d) h r := by
  simp [ladleRowSend, runs, Nat.not_le.2 named, again]

/-- R263, R264: the half-batch being sent reads its route words, and skips the leading positions that have become void. -/
theorem ladleRowSend_reads {h : DispHalf} {ws : List Byte} {u : State} (alone : (getDisp s d).flight = [h]) (sending : h.phase = 1)
    (clean : ∀ y ∈ h.rows, y.redo = [])
    (words : muTry s (ladDisp (ladSec s) d).src (routeAddr s (ladDisp (ladSec s) d) h.letter 0) (4 * (ladDisp (ladSec s) d).rows) =
      (some ws, u)) :
    ladleRowSend s d = rowSend u d (ladDisp (ladSec s) d)
      { h with rows := skipVoid (fun p => wordVoid u (nth 0 (unpack 32 (ladDisp (ladSec s) d).rows (leNat ws)) p)) h.rows } := by
  simp [ladleRowSend, runs, Nat.not_le.2 named, alone, redoRow_eq_none clean, sending, muThen_of_read words]

end

section
variable {s : State} {d : Nat} {x : LadDisp} {h : DispHalf} {r : LadRow} {rest : List LadRow} {q : LadQ} (first : h.rows = r :: rest)
  (waits : r.st = 0) (queue : h.qs.find? (fun q => q.queue == r.queue) = some q)
include first waits queue

theorem rowSend_covered (covered : x.rowUnits ≤ q.credit) : rowSend s d x h = rowGoes s d x h r q := by
  simp [rowSend, first, waits, queue, covered]

/-- R264: a queue whose credit has been asked for is not asked again. -/
theorem rowSend_asked (alone : (getDisp s d).flight = [h]) (short : q.credit < x.rowUnits)
    (asked : asking s (.disp d r.queue h.epoch) = true) : rowSend s d x h = s := by
  simp [rowSend, first, waits, queue, Nat.not_le.2 short, modHalf_self alone, asked]

end

/-! ### A collector sends, R273 -/

theorem ladleAnswerSend_idle {s : State} {c : Nat} (none_left : (getColl s c).answers = []) : ladleAnswerSend s c = s := by
  simp [ladleAnswerSend, none_left]

section
variable {s : State} {c n : Nat} {g : RowTag} {q : AnsQ} (runs : jobRuns s = true) (named : c < ladColls (ladSec s))
  (one : (getColl s c).answers = [(n, g)]) (line : (getColl s c).ansQs = [q]) (home : q.home = g.home.toNat) (win : q.win = g.awin)
  (gen : q.gen = g.agen) (epoch : q.epoch = g.epoch)

include line home win gen epoch in
theorem ansLine_eq_zero : ansLine (getColl s c) g = 0 := by
  simp [ansLine, line, home, win, gen, epoch]

include runs named one line home win gen epoch

theorem ladleAnswerSend_asked (short : q.credit < (ladColl (ladSec s) c).ansUnits) (asked : asking s (.coll c 0) = true) :
    ladleAnswerSend s c = s := by
  have at_ := ansLine_eq_zero line home win gen epoch
  simp [ladleAnswerSend, runs, Nat.not_le.2 named, one, line, at_, nth, Nat.not_le.2 short, asked]

end

/-- Settles O51: a dispatch reads its route words, which keeps the Ladle, and each outcome of a send is one lemma above; the one answer of
a collector stands on its one line of credit. -/
theorem ladleSends : Obligations.LadleSends := by
  intro s d c runs
  refine ⟨fun h r rest q ws u named alone sending first waits clean queue words stands => ?row,
    fun h r named again => ends_eq ?again, fun idle => ends_eq ?idle,
    fun n g q named one line home win gen epoch => ⟨fun bs v covered read => ends_eq ?answer, fun short asked => ends_eq ?asked⟩,
    fun none_left => ends_eq ?none_left⟩
  case row =>
    have reads := ladleRowSend_reads runs named alone sending clean words
    rw [first, skipVoid_of_waits waits stands, ← first] at reads
    have kept : getDisp s d = getDisp u d := by rw [getDisp, getDisp, muTry_lad words]
    refine ⟨fun bs v covered read => ends_eq ?_, fun short asked => ends_eq ?_⟩
    · rw [exec_ladleRowSend, reads, rowSend_covered first waits queue covered, rowGoes, sendUnits, muThen_of_read read]
      rfl
    · rw [exec_ladleRowSend, reads, rowSend_asked first waits queue (kept ▸ alone) short asked]
  case again => rw [exec_ladleRowSend, ladleRowSend_again runs named again]
  case idle => rw [exec_ladleRowSend, ladleRowSend_idle idle]
  case answer =>
    have at_ := ansLine_eq_zero line home win gen epoch
    rw [exec_ladleAnswerSend]
    simp [ladleAnswerSend, runs, Nat.not_le.2 named, one, line, at_, nth, covered, muThen_of_read read]
  case asked => rw [exec_ladleAnswerSend, ladleAnswerSend_asked runs named one line home win gen epoch short asked]
  case none_left => rw [exec_ladleAnswerSend, ladleAnswerSend_idle none_left]

end Sys2Proof.Machine
end

section
/-! PROOF. What the Ladle receives (R267, R274, R279): a write that passes the checks of its window, one lemma for each outcome of a row, an
answer and a stalled half, and O52. -/

namespace Sys2Proof.Machine

/-! ### A write that passes the checks of its window, R103 -/

/-- A write of `n` bytes from byte `o` of window `w` passes the checks of R103. -/
structure WritePasses (t : State) (rx : Rx) (w : Win) (gen : Byte) (o n : Nat) : Prop where
  takes : WindowTakes t rx w gen
  credit : (getWin t w).outstanding ≠ 0
  someByte : n ≠ 0
  oneUnit : o % 512 + n ≤ 512
  inside : o + n ≤ 512 * (getWin t w).units

/-- A window after a write: one credit is used, and its unit is free, or held under FLIP. -/
def Window.creditUsed (v : Window) : Window :=
  { v with
    outstanding := v.outstanding - 1, writes := v.writes + 1
    free := if v.flip then v.free else v.free + 1, held := if v.flip then v.held + 1 else v.held }

theorem rxFrame_of_taken {s t : State} {rx : Rx} {b : Body} (h : Taken s rx b t) (f : State → State) : rxFrame s rx b f = f t := by
  obtain ⟨taken, known⟩ := h
  have entry : (findPt t rx.part.toNat).isNone = false := by rw [← Option.not_isSome, known]; rfl
  simp [rxFrame, taken, entry]

theorem rxRefusal_of_takes {t : State} {rx : Rx} {w : Win} {gen : Byte} (h : WindowTakes t rx w gen) : rxRefusal t w gen rx.part = none := by
  obtain ⟨opened, its_gen, its_part, live, job⟩ := h
  simp [rxRefusal, winRefusal, opened, its_gen, its_part, live, job]

theorem winWriteFault_of_passes {t : State} {rx : Rx} {w : Win} {gen : Byte} {o n : Nat} (h : WritePasses t rx w gen o n) :
    winWriteFault t w o n = none := by
  obtain ⟨-, credit, someByte, oneUnit, inside⟩ := h
  rw [winWriteFault]
  simp only [credit, if_false]
  exact if_neg (by omega)

theorem writeChecked_of_passes {t : State} {rx : Rx} {w : Win} {gen : Byte} {o n : Nat} (h : WritePasses t rx w gen o n)
    (f : State → State) : writeChecked t rx w gen o n f = f t := by
  simp only [writeChecked, rxRefusal_of_takes h.takes, winWriteFault_of_passes h]

/-! ### A write into an MU that holds no uncorrectable word, R97, R109 -/

theorem wordWrite_poison {m : MuSt} {word off w : Nat} {data : List Byte} {gen : Bool}
    (h : w ∈ (wordWrite m word off data gen).poison) : w ∈ m.poison := by
  unfold wordWrite at h
  split at h
  · extract_lets b at h
    split at h
    · exact bankPut_poison h
    · exact h
  · split at h
    · exact bankPut_poison h
    · split at h
      · exact h
      · split at h
        · exact h
        · exact coalEvict_poison h

theorem muWrite_poison {n : Nat} {m : MuSt} {a w : Nat} {data : List Byte} {gen : Bool} (h : w ∈ (muWrite n m a data gen).poison) :
    w ∈ m.poison := by
  induction n generalizing m a data with
  | zero => exact h
  | succ n ih =>
    unfold muWrite at h
    split at h
    · exact h
    · exact wordWrite_poison (ih h)

/-- The clock, the windows and the Ladle of `s` are those of `t`: what a write into an MU does when it meets no uncorrectable word. -/
structure WritesMemory (s t : State) : Prop where
  now : t.now = s.now
  wins : t.wins = s.wins
  lad : t.job.lad = s.job.lad

theorem WritesMemory.refl (s : State) : WritesMemory s s := ⟨rfl, rfl, rfl⟩

theorem WritesMemory.trans {s t u : State} (h : WritesMemory s t) (k : WritesMemory t u) : WritesMemory s u :=
  ⟨k.now.trans h.now, k.wins.trans h.wins, k.lad.trans h.lad⟩

theorem winUse_of_writesMemory {s t : State} (h : WritesMemory s t) (w : Nat) : winUse t w = setWin t w (getWin s w).creditUsed := by
  rw [winUse, getWin, h.wins]
  rfl

/-- The MU of a cell holds no uncorrectable word, in a grid that lists each cell once. -/
structure CleanMu (s : State) (c : Nat) : Prop where
  canonical : CellsCanonical s
  clean : (getCell s c).mu.poison = []

theorem bankZeroDone_writesMemory (s : State) (c b : Nat) : WritesMemory s (bankZeroDone s c b) := by
  unfold bankZeroDone
  extract_lets m m'
  split
  · exact .refl s
  · exact ⟨rfl, rfl, rfl⟩

theorem CleanMu.bankZeroDone {s : State} {c : Nat} (h : CleanMu s c) (b : Nat) : CleanMu (bankZeroDone s c b) c := by
  unfold Machine.bankZeroDone
  extract_lets m z one used m'
  split
  · exact h
  · refine ⟨cellsCanonical_setCell h.canonical c _, ?_⟩
    have cell : getCell { setMu s c m' with counts := { s.counts with zeroings := s.counts.zeroings + 1 } } c =
        { getCell s c with mu := m' } := getCell_setMu h.canonical c m'
    have zeroed : z.poison = [] := by simp [z, muZero, m, h.clean]
    rw [cell]
    exact zeroed

theorem CleanMu.bankSettle {s : State} {c : Nat} (h : CleanMu s c) (a n : Nat) :
    WritesMemory s (bankSettle s c a n) ∧ CleanMu (bankSettle s c a n) c := by
  unfold Machine.bankSettle
  induction banksOver a n generalizing s with
  | nil => exact ⟨.refl s, h⟩
  | cons b bs ih =>
    obtain ⟨rest, still⟩ := ih (h.bankZeroDone b)
    exact ⟨(bankZeroDone_writesMemory s c b).trans rest, still⟩

theorem hazard_writesMemory (s : State) (r : Nat) : WritesMemory s (hazard s r) := by
  unfold hazard
  split
  · exact ⟨rfl, rfl, rfl⟩
  · exact .refl s

theorem hazard_grid (s : State) (r : Nat) : (hazard s r).job.grid = s.job.grid := by
  unfold hazard
  split <;> rfl

theorem noteWrite_cases (s : State) (c a n : Nat) : noteWrite s c a n = s ∨ noteWrite s c a n = hazard s 3 := by
  unfold noteWrite
  extract_lets b e old
  split
  · exact .inr rfl
  · exact .inl rfl

theorem noteWrite_writesMemory (s : State) (c a n : Nat) : WritesMemory s (noteWrite s c a n) := by
  obtain same | marked := noteWrite_cases s c a n
  · rw [same]
    exact .refl s
  · rw [marked]
    exact hazard_writesMemory s 3

theorem noteWrite_getCell (s : State) (c a n k : Nat) : getCell (noteWrite s c a n) k = getCell s k := by
  obtain same | marked := noteWrite_cases s c a n
  · rw [same]
  · rw [marked, getCell, hazard_grid, getCell]

theorem CleanMu.muPut {s : State} {c : Nat} (h : CleanMu s c) (a : Nat) (data : List Byte) : WritesMemory s (muPut s c a data) := by
  unfold Machine.muPut
  extract_lets t
  obtain ⟨settled, still⟩ := h.bankSettle a data.length
  have noted : WritesMemory s t := settled.trans (noteWrite_writesMemory ..)
  have written : (muWrite data.length (getCell t c).mu a data false).poison = [] := by
    refine List.eq_nil_iff_forall_not_mem.2 fun w bad => ?_
    have before := muWrite_poison bad
    rw [noteWrite_getCell, still.clean] at before
    exact List.not_mem_nil before
  rw [muSet_of_lines_kept fun _ _ bad => absurd (written ▸ bad) List.not_mem_nil]
  exact noted.trans ⟨rfl, rfl, rfl⟩

/-! ### The entries of the Ladle -/

theorem getColl_setColl {s : State} {c : Nat} (h : c < s.job.lad.colls.length) (x : CollSt) : getColl (setColl s c x) c = x := by
  simp [getColl, setColl, setLad, setJob, nth, h]

theorem getDisp_setDisp {s : State} {d : Nat} (h : d < s.job.lad.disps.length) (x : DispSt) : getDisp (setDisp s d x) d = x := by
  simp [getDisp, setDisp, setLad, setJob, nth, h]

/-! ### A row arrives, R267 -/

theorem exec_ladleRow_of_taken {s t : State} {rx : Rx} {w : Win} {gen : Byte} {off : BitVec 21} {tag : RowTag} {b : List Byte}
    (taken : Taken s rx (.row w gen off tag b) t) : exec (.ladleRow rx w gen off tag b) s = .next (ladleRow t rx w gen off.toNat tag b) :=
  congrArg _ (rxFrame_of_taken taken _)

theorem rowPlace_of_new {rows : List (RowTag × Nat)} {tag : RowTag} (new : ∀ y ∈ rows, y.1.home ≠ tag.home) :
    rowPlace rows tag = rows.length := by
  have unmet : rows.findIdx? (fun r => r.1.home == tag.home && r.1.dispatch == tag.dispatch && r.1.epoch == tag.epoch &&
      r.1.aslot == tag.aslot) = none := List.findIdx?_eq_none_iff.2 fun y hy => by simp [new y hy]
  rw [rowPlace, unmet, Option.getD_none]

/-- R268: no half is complete, and none has too many rows, before a marker has arrived. -/
theorem collCheck_of_no_marker {s : State} {c : Nat} {k : LadColl} (unmarked : (getColl s c).markers = []) (senders : 0 < k.senders) :
    collCheck s c k = s := by
  have waits : ¬ k.senders ≤ 0 := Nat.not_le.2 senders
  simp [collCheck, markMembers, unmarked, waits]

/-- R267: the MU address of byte `o` of a write that belongs to row `i` of a collector's fill half. -/
def rowLandsAt (t : State) (k : LadColl) (i o : Nat) : Nat :=
  regionBase (region (getRec t k.cell).mu k.reg) (fillHalf (getCell t k.cell).mu k.reg) + i * k.rowUnits * 512 +
    512 * (o / 512 % k.rowUnits) + o % 512

/-- R267: a collector after unit `u` of a new row has landed at `now`. -/
def CollSt.rowBegun (x : CollSt) (now : Nat) (tag : RowTag) (u : Nat) : CollSt :=
  { x with last := tag.home.toNat, rows := x.rows ++ [(tag, 2 ^ u)], since := some (x.since.getD now) }

section
variable {t : State} {rx : Rx} {w : Win} {gen : Byte} {o : Nat} {tag : RowTag} {b : List Byte}

theorem ladleRow_lands (passes : WritePasses t rx w gen o b.length) (plain : collAt t (getWin t w).cell (getWin t w).region = none) :
    ladleRow t rx w gen o tag b = winLand t w o b := by
  rw [ladleRow, writeChecked_of_passes passes]
  simp only [plain]

/-- R267: the first unit of a row from a member that has landed none takes the next free place of the queue. -/
theorem ladleRow_takes_next_place {c : Nat} {k : LadColl} (passes : WritePasses t rx w gen o b.length)
    (queue : collAt t (getWin t w).cell (getWin t w).region = some (c, k)) (known : c < t.job.lad.colls.length) (clean : CleanMu t k.cell)
    (senders : 0 < k.senders) (unmarked : (getColl t c).markers = []) (new : ∀ y ∈ (getColl t c).rows, y.1.home ≠ tag.home)
    (fits : ((getColl t c).rows.length + 1) * k.rowUnits * 512 ≤ regionSize (region (getRec t k.cell).mu k.reg)) :
    ladleRow t rx w gen o tag b =
      setColl (setWin (muPut t k.cell (rowLandsAt t k (getColl t c).rows.length o) b) w (getWin t w).creditUsed) c
        ((getColl t c).rowBegun t.now tag (o / 512 % k.rowUnits)) := by
  have written : WritesMemory t (muPut t k.cell (rowLandsAt t k (getColl t c).rows.length o) b) := clean.muPut _ b
  let x := (getColl t c).rowBegun t.now tag (o / 512 % k.rowUnits)
  let u := winUse (muPut t k.cell (rowLandsAt t k (getColl t c).rows.length o) b) w
  have used : u.job.lad.colls.length = t.job.lad.colls.length := congrArg (fun l : Ladle => l.colls.length) written.lad
  have checked : collCheck (setColl u c x) c k = setColl u c x :=
    collCheck_of_no_marker (by rw [getColl_setColl (used ▸ known)]; exact unmarked) senders
  have now : u.now = t.now := written.now
  rw [ladleRow, writeChecked_of_passes passes]
  simp only [queue, rowPlace_of_new new, if_neg (Nat.not_lt.2 fits)]
  rw [← rowLandsAt, ← winUse_of_writesMemory written, ← checked]
  simp [bit, x, CollSt.rowBegun, u, now]

end

/-! ### An answer arrives, R274 -/

theorem exec_ladleAnswer_of_taken {s t : State} {rx : Rx} {w : Win} {gen : Byte} {off : BitVec 21} {ep : BitVec 16} {slot : BitVec 13}
    {b : List Byte} (taken : Taken s rx (.answer w gen off ep slot b) t) :
    exec (.ladleAnswer rx w gen off ep slot b) s = .next (ladleAnswer t rx w gen off.toNat ep slot.toNat b) :=
  congrArg _ (rxFrame_of_taken taken _)

/-- R262: the answers of dispatch `d`, and of no dispatch before it, land in region `r` of the MU of cell `c`. -/
def AnswersAt (t : State) (c r : Nat) (d : Fin 16) : Prop :=
  d.val < ladDisps (ladSec t) ∧
  ∀ e : Fin 16, e ≤ d → (((ladDisp (ladSec t) e).ans = c ∧ (ladDisp (ladSec t) e).ansReg = r) ↔ e = d)

theorem AnswersAt.find {t : State} {c r : Nat} {d : Fin 16} (h : AnswersAt t c r d) :
    (List.range (ladDisps (ladSec t))).find? (fun e => (ladDisp (ladSec t) e).ans == c && (ladDisp (ladSec t) e).ansReg == r) =
      some d.val := by
  obtain ⟨known, served⟩ := h
  refine List.find?_range_eq_some.2 ⟨?_, List.mem_range.2 known, fun e before => ?_⟩
  · simpa using (served d (Nat.le_refl _)).2 rfl
  · have other := served ⟨e, by omega⟩ (Nat.le_of_lt before)
    rw [Fin.ext_iff] at other
    simpa [Nat.ne_of_lt before, imp_iff_not_or] using other

theorem dispCheck_of_phase {s : State} {d : Nat} {h : DispHalf} (alone : (getDisp s d).flight = [h]) (phase : h.phase ≠ 2) :
    dispCheck s d = s := by
  simp [dispCheck, alone, phase]

section
variable {t : State} {rx : Rx} {w : Win} {gen : Byte} {o : Nat} {b : List Byte} {d : Fin 16}
  (passes : WritePasses t rx w gen o b.length) (served : AnswersAt t (getWin t w).cell (getWin t w).region d)
include passes served

/-- R274: an answer of the half-batch that is being sent lands, where the landing does not end in a replay. -/
theorem ladleAnswer_lands {h : DispHalf} {slot : Nat} (known : d.val < t.job.lad.disps.length)
    (kept : (winLand t w o b).job.lad = t.job.lad) (alone : (getDisp t d).flight = [h]) (sending : h.phase = 1)
    (awaited : ∃ r ∈ h.rows, r.slot = slot ∧ r.st = 1) (new : o / 512 ∉ h.landed) :
    ladleAnswer t rx w gen o h.epoch slot b =
      setDisp (winLand t w o b) d { getDisp t d with flight := [{ h with landed := h.landed ++ [o / 512] }] } := by
  have stands : getDisp (winLand t w o b) d = getDisp t d := by rw [getDisp, kept, getDisp]
  have its_row : (h.rows.any fun r => r.slot == slot && r.st == 1) = true := by simpa using awaited
  rw [ladleAnswer, writeChecked_of_passes passes]
  simp only [served.find, alone, List.head?_cons, bne_self_eq_false, Bool.false_eq_true, if_false, its_row, Bool.not_true, modHalf, stands,
    List.map_cons, List.map_nil, beq_self_eq_true, if_true, List.contains_eq_mem, new, decide_false]
  refine dispCheck_of_phase (h := { h with landed := h.landed ++ [o / 512] }) ?_ (by simp [sending])
  rw [getDisp_setDisp (by rw [kept]; exact known)]

theorem ladleAnswer_stale {ep : BitVec 16} {slot : Nat} (idle : (getDisp t d).flight = []) :
    ladleAnswer t rx w gen o ep slot b = staleDrop t w d (ladDisp (ladSec t) d) ep slot := by
  rw [ladleAnswer, writeChecked_of_passes passes]
  simp only [served.find, idle, List.head?_nil]

end

/-- LADLE_FAULT (Table 12.7): a record, and its interrupt. -/
theorem noteLad_eq (s : State) (code : Status) (disp coll queue member epoch : Nat) (d : List Nat) :
    noteLad s code disp coll queue member epoch d = { s with
      recs := { s.recs with
        lad := recNote s.recs.lad code (fld 17 disp + fld 21 coll + fld 27 queue + fld 37 member + fld 45 epoch) 0 d }
      hosts := (noteLad s code disp coll queue member epoch d).hosts } := recIrq_eq ..

/-- R274: the first frame of a stale answer uses its credit, is recorded, and counts. -/
theorem staleDrop_first {t : State} {w d : Nat} {k : LadDisp} {ep : BitVec 16} {slot : Nat} (none_before : (getDisp t d).dropped = []) :
    ∃ hosts, staleDrop t w d k ep slot = { t with
      job := { t.job with lad := { t.job.lad with
        stale := t.job.lad.stale + 1
        disps := t.job.lad.disps.set d { getDisp t d with dropped := if k.ansUnits ≤ 1 then [] else [(ep, slot, 1)] } } }
      recs := { t.recs with lad := recNote t.recs.lad Code.staleDropped (2 ^ 17 * d + 2 ^ 45 * ep.toNat) 0 }
      wins := t.wins.set w (getWin t w).creditUsed
      hosts := hosts } := by
  have fields : fld 17 d + fld 21 0 + fld 27 0 + fld 37 0 + fld 45 ep.toNat = 2 ^ 17 * d + 2 ^ 45 * ep.toNat := by
    simp [fld, Nat.mul_comm]
  have stands : getDisp (noteLad (winUse t w) Code.staleDropped d 0 0 0 ep.toNat) d = getDisp t d := by rw [noteLad_eq]; rfl
  unfold staleDrop
  simp only [stands, none_before, List.find?_nil, List.filter_nil, Option.map_none, Option.getD_none, if_true, List.nil_append, Nat.zero_add]
  rw [noteLad_eq, fields]
  exact ⟨_, rfl⟩

/-! ### A half waits too long, R279 -/

theorem exec_ladleStalled (collector : Bool) (i : Fin 64) (s : State) :
    exec (.ladleStalled collector i) s = .next (ladleStalled s collector i) := rfl

theorem ladFault_jobc {s : State} (running : s.jobc.st = 1) (code : Status) (disp coll queue member epoch : Nat) (d : List Nat) :
    (ladFault s code disp coll queue member epoch d).jobc = { s.jobc with st := 2, fault := code } := by
  have noted : (noteLad s code disp coll queue member epoch d).jobc = s.jobc := recIrq_jobc ..
  rw [ladFault, raiseJobFault_jobc (by rw [noted, running]), noted]

theorem ladFault_job {s : State} (running : s.jobc.st = 1) (code : Status) (disp coll queue member epoch : Nat) (d : List Nat) :
    (ladFault s code disp coll queue member epoch d).job = s.job := by
  have noted : (noteLad s code disp coll queue member epoch d).jobc = s.jobc := recIrq_jobc ..
  rw [ladFault, raiseJobFault_job (by rw [noted, running]), noteLad, recIrq_job]

/-- R313: no way is missing to a member that is this module. -/
theorem stallFault_of_here {s : State} {disp coll epoch : Nat} {missing : List Nat} (here : ∀ m ∈ missing, jobModule s m = myIndex s) :
    stallFault s disp coll epoch missing = ladFault s Code.ladleStalled disp coll 0 (missing.headD 0) epoch missing := by
  unfold stallFault
  extract_lets gone
  have reached : gone = none := List.find?_eq_none.2 fun m hm => by cases jobPt s <;> simp [here m hm]
  rw [reached]

section
variable {t : State} (runs : jobRuns t = true)
include runs

section
variable {i since : Nat} (began : (getColl t i).since = some since)
include began

theorem ladleStalled_collector (late : t.limits.halfUs * us < t.now - since) (no_token : (getColl t i).token = none) :
    ladleStalled t true i = stallFault t 0 i (((getColl t i).rows.head?.map fun r => r.1.epoch.toNat).getD 0)
      (collMissing t (ladColl (ladSec t) i) (getColl t i)) := by
  simp [ladleStalled, runs, began, no_token, late]

theorem ladleStalled_collector_in_time (in_time : t.now - since ≤ t.limits.halfUs * us) : ladleStalled t true i = t := by
  have early : decide (t.limits.halfUs * us < t.now - since) = false := decide_eq_false (Nat.not_lt.2 in_time)
  simp [ladleStalled, runs, began, early]

end

/-- R279: a half-batch that waits though no row of it is open has no member to name. -/
theorem ladleStalled_dispatch {i : Nat} {h : DispHalf} (alone : (getDisp t (i % 16)).flight = [h]) (no_rows : h.rows = [])
    (late : t.limits.halfUs * us < t.now - h.since) :
    ladleStalled t false i = stallFault t (i % 16) 0 h.epoch.toNat [] := by
  simp [ladleStalled, runs, alone, no_rows, late]

end

/-! ### The obligation -/

/-- What R267, R274 and R279 ask of the Ladle's receiving side holds where a row of a queue and an awaited answer land in an MU without an
uncorrectable word; `not_ladleReceives` shows that the landing of an answer needs that. -/
theorem ladleReceives_of_cleanMu :
    ∀ (s t : State) (rx : Rx) (w : Win) (gen : Byte) (off : BitVec 21) (tag : RowTag) (ep : BitVec 16) (slot : BitVec 13) (b : List Byte),
      t.job.lad.colls.length = 64 → t.job.lad.disps.length = 16 →
      let v := getWin t w
      let o := off.toNat
      (Taken s rx (.row w gen off tag b) t → WritePasses t rx w gen o b.length →
        (collAt t v.cell v.region = none → Ends (.ladleRow rx w gen off tag b) s fun u =>
          u = setWin (muPut t v.cell (winAddr t w o) b) w v.creditUsed) ∧
        (∀ (c : Fin 64) (k : LadColl), collAt t v.cell v.region = some (c.val, k) → CleanMu t k.cell →
          let x := getColl t c
          0 < k.senders → x.markers = [] → (∀ y ∈ x.rows, y.1.home ≠ tag.home) →
          (x.rows.length + 1) * k.rowUnits * 512 ≤ regionSize (region (getRec t k.cell).mu k.reg) →
          Ends (.ladleRow rx w gen off tag b) s fun u =>
            u = setColl (setWin (muPut t k.cell (rowLandsAt t k x.rows.length o) b) w v.creditUsed) c
              (x.rowBegun t.now tag (o / 512 % k.rowUnits)))) ∧
      (∀ (d : Fin 16), Taken s rx (.answer w gen off ep slot b) t → WritePasses t rx w gen o b.length → AnswersAt t v.cell v.region d →
        let x := getDisp t d
        (∀ h, CleanMu t v.cell → x.flight = [h] → h.epoch = ep → h.phase = 1 → (∃ r ∈ h.rows, r.slot = slot.toNat ∧ r.st = 1) →
          o / 512 ∉ h.landed → Ends (.ladleAnswer rx w gen off ep slot b) s fun u =>
            u = setDisp (winLand t w o b) d { x with flight := [{ h with landed := h.landed ++ [o / 512] }] }) ∧
        (x.flight = [] → x.dropped = [] → Ends (.ladleAnswer rx w gen off ep slot b) s fun u =>
          ∃ hosts, u = { t with
            job := { t.job with lad := { t.job.lad with
              stale := t.job.lad.stale + 1
              disps := t.job.lad.disps.set d { x with
                dropped := if (ladDisp (ladSec t) d).ansUnits ≤ 1 then [] else [(ep, slot.toNat, 1)] } } }
            recs := { t.recs with lad := recNote t.recs.lad Code.staleDropped (2 ^ 17 * d.val + 2 ^ 45 * ep.toNat) 0 }
            wins := t.wins.set w v.creditUsed
            hosts := hosts })) ∧
      (∀ (i : Fin 64) (since : Nat), jobRuns t = true → (getColl t i).since = some since → (getColl t i).token = none →
        (t.limits.halfUs * us < t.now - since → (∀ m ∈ collMissing t (ladColl (ladSec t) i) (getColl t i), jobModule t m = myIndex t) →
          Ends (.ladleStalled true i) t fun u => u.jobc = { t.jobc with st := 2, fault := Code.ladleStalled } ∧ u.job = t.job) ∧
        (t.now - since ≤ t.limits.halfUs * us → Ends (.ladleStalled true i) t fun u => u = t)) ∧
      (∀ (i : Fin 64) (h : DispHalf), jobRuns t = true → (getDisp t (i.val % 16)).flight = [h] → h.rows = [] →
        t.limits.halfUs * us < t.now - h.since →
        Ends (.ladleStalled false i) t fun u => u.jobc = { t.jobc with st := 2, fault := Code.ladleStalled }) := by
  intro s t rx w gen off tag ep slot b colls disps v o
  refine ⟨fun taken passes => ⟨fun plain => ends_eq ?plain, fun c k queue clean senders unmarked new fits => ends_eq ?row⟩,
    fun d taken passes served => ⟨fun h clean alone epoch sending awaited new => ends_eq ?answer, fun idle none_before => ?stale⟩,
    fun i since runs began no_token => ⟨fun late here => ⟨_, exec_ladleStalled .., ?stalled⟩, fun in_time => ends_eq ?in_time⟩,
    fun i h runs alone no_rows late => ⟨_, exec_ladleStalled .., ?unanswered⟩⟩
  case plain =>
    rw [exec_ladleRow_of_taken taken, ladleRow_lands passes plain]
    rfl
  case row =>
    rw [exec_ladleRow_of_taken taken, ladleRow_takes_next_place passes queue (by omega) clean senders unmarked new fits]
  case answer =>
    subst epoch
    have kept : (winLand t w o b).job.lad = t.job.lad := (clean.muPut (winAddr t w o) b).lad
    rw [exec_ladleAnswer_of_taken taken, ladleAnswer_lands passes served (by omega) kept alone sending awaited new]
  case stale =>
    exact ⟨_, exec_ladleAnswer_of_taken taken, ladleAnswer_stale passes served idle ▸ staleDrop_first none_before⟩
  case stalled =>
    rw [ladleStalled_collector runs began late no_token, stallFault_of_here here]
    exact ⟨ladFault_jobc (jobRuns_st runs) .., ladFault_job (jobRuns_st runs) ..⟩
  case in_time => rw [exec_ladleStalled, ladleStalled_collector_in_time runs began in_time]
  case unanswered =>
    rw [ladleStalled_dispatch runs alone no_rows late, stallFault_of_here (by simp)]
    exact ladFault_jobc (jobRuns_st runs) ..

/-! ### A replay while an answer lands -/

/-- The LADLE section of one dispatch, whose answers land in region 0 of the MU of cell 20. -/
def oneDispatch : List Byte := leBytes 64 (2 ^ 32) ++ leBytes 64 (17 + 2 * 2 ^ 36 + 2 ^ 47 + 20 * 2 ^ 103 + 2 ^ 118)

/-- A full coalescing buffer: sixteen lines, each with one valid byte. -/
def partialLines : List CoalLine := (List.range 16).map fun i => { word := 64 + i, bytes := some 0 :: List.replicate 63 none }

/-- The half-batch of epoch 5, which is being sent: its one row has left, and answer slot 1 awaits the answer. -/
def awaitingHalf : DispHalf := { epoch := 5, rows := [{ p := 0, t := 0, queue := 0, slot := 1, st := 1 }] }

/-- A running job in which the next write of part of a word into the MU of cell 20 evicts a line of an uncorrectable word, and so ends in
a replay from a checkpoint older than the half-batch in flight. -/
def replayAtNextWrite : State :=
  { State.reset with
    jobc := { State.reset.jobc with st := 1, id := 7 }
    ring := { State.reset.ring with
      inForce := { valid := true, lengths := 3, pts := [{ cfg := BitVec.ofNat 64 (5 + 2 ^ 8 + 3 * 2 ^ 33) }] } }
    wins := State.reset.wins.set 3
      { opened := true, gen := 4, cell := 20, units := 8, at1 := 49152, part := 5, free := 6, outstanding := 2, job := 7, flip := true }
    job := { State.reset.job with
      grid := { cells := [(20, { mu := { coal := partialLines, poison := [64] } })] }
      churn := { tables := { ladle := oneDispatch } }
      lad := { disps := State.reset.job.lad.disps.set 0 { epoch := 5, flight := [awaitingHalf] } }
      ckpt := some { senders := State.reset.job.senders, tables := { ladle := oneDispatch } } } }

/-- The answer to slot 1 of that half-batch, from member 2. -/
def awaitedAnswer : Frame := ⟨2, 0, 5, false, .answer 3 4 512 5 1 [1, 2, 3]⟩

/-- The same module with the answer in its loopback. -/
def answerArrives : State := setRing replayAtNextWrite { replayAtNextWrite.ring with loop := [awaitedAnswer] }

/-- Refutes O52: the write of an awaited answer may end in a replay (R90, R277), which the statement leaves out. Where the line that the
write evicts is of an uncorrectable word and the checkpoint is older than the half-batch, the replay cancels the half-batch, and no half
is left in flight. Where the MU holds no uncorrectable word the statement holds: `ladleReceives_of_cleanMu`. -/
theorem not_ladleReceives : ¬ Obligations.LadleReceives := by
  intro h
  obtain ⟨-, -, answers, -⟩ := h answerArrives replayAtNextWrite ⟨.loopback, 2, 5, false⟩ 3 4 512 ⟨2, 0, 5, 3, 4, 1⟩ 5 1 [1, 2, 3]
    (by decide) (by decide) (by decide)
  obtain ⟨lands, -⟩ := answers 0 ⟨rfl, by decide⟩ (by decide) (by decide) (by decide) (by decide) (by decide) (by decide) (by decide +kernel)
  obtain ⟨u, hu, landed⟩ := lands awaitingHalf rfl rfl rfl (by decide) (by decide)
  injection hu with hu
  rw [← hu] at landed
  exact absurd (congrArg (fun t => (getDisp t 0).flight.length) landed) (by decide +kernel)

end Sys2Proof.Machine
end

section
/-! PROOF. How a frame for this module is taken (R289, R298, R302): from a port in the order of its LSEQ, or from the head of the loopback;
MILED_FAULT, where a frame of no partition is recorded; and O35. -/

namespace Sys2Proof.Machine

/-! ### MILED_FAULT -/

/-- R350: a record of MILED_FAULT writes that record, and a new one signals vector 8. -/
theorem noteMil_eq (s : State) (code : Status) (port lane part module : Nat) :
    noteMil s code port lane part module = { s with
      recs := { s.recs with mil := recNote s.recs.mil code (fld 17 port + fld 20 lane + fld 24 part + fld 32 module) 0 }
      hosts := (noteMil s code port lane part module).hosts } := recIrq_eq ..

/-- A record of MILED_FAULT that its rule gives no port and no lane: what it writes, and what it leaves. -/
theorem noteMil_partition (s : State) (code : Status) (part module : Nat) :
    (noteMil s code 0 0 part module).recs =
      { s.recs with mil := recNote s.recs.mil code (2 ^ 24 * part + 2 ^ 32 * module) 0 } ∧
    noteMil s code 0 0 part module =
      { s with recs := (noteMil s code 0 0 part module).recs, hosts := (noteMil s code 0 0 part module).hosts } := by
  have fields : fld 17 0 + fld 20 0 + fld 24 part + fld 32 module = 2 ^ 24 * part + 2 ^ 32 * module := by simp [fld, Nat.mul_comm]
  rw [noteMil_eq, fields]
  exact ⟨rfl, rfl⟩

@[simp] theorem noteMil_jobc (s : State) (code : Status) (port lane part module : Nat) :
    (noteMil s code port lane part module).jobc = s.jobc := recIrq_jobc ..

/-! ### Ports -/

theorem setPort_eq (s : State) (p : Nat) (x : PortSt) :
    setPort s p x = { s with ring := { s.ring with ports := s.ring.ports.set p x }, hosts := (setPort s p x).hosts } := by
  unfold setPort
  dsimp only
  split <;> rfl

theorem setPort_ports (s : State) (p : Nat) (x : PortSt) : (setPort s p x).ring.ports = s.ring.ports.set p x := by rw [setPort_eq]

theorem getPort_setPort {s : State} {p : Nat} (h : p < s.ring.ports.length) (x : PortSt) : getPort (setPort s p x) p = x := by
  simp [getPort, setPort_ports, nth, h]

theorem getPort_setPort_ne {s : State} {p q : Nat} (h : p ≠ q) (x : PortSt) : getPort (setPort s p x) q = getPort s q := by
  simp [getPort, setPort_ports, nth, h]

/-! ### A frame at a port, R289 to R291 -/

/-- R289, R291: a port that has delivered frame `f` with LSEQ `l`: its credit is owed at once. -/
def PortSt.delivered (now : Nat) (x : PortSt) (l : BitVec 16) (f : Frame) : PortSt :=
  portRelease { x with
    rxSeq := l, open_ := x.open_ ++ [(l, true)], lastRx := now, ackAt := some (x.ackAt.getD now)
    owed := shareAdd x.owed (frameKey f f.dl) (flits f.body) }

section
variable {s : State} {p : Nat} {l : BitVec 16}

theorem portAccept_delivers (runs : (getPort s p).st = 2 ∨ (getPort s p).st = 4) (next : l = (getPort s p).rxSeq + 1) (f : Frame) :
    portAccept s p l f true = some (setPort s p ((getPort s p).delivered s.now l f)) := if_pos ⟨runs, next⟩

theorem portAccept_discards (h : ¬ (((getPort s p).st = 2 ∨ (getPort s p).st = 4) ∧ l = (getPort s p).rxSeq + 1)) (f : Frame)
    (deliver : Bool) : portAccept s p l f deliver = none := if_neg h

end

/-! ### A frame for this module, R298, R302 -/

section
variable {s : State} {rx : Rx}

theorem rxTake_port {p : Port} {l : BitVec 16} (h : rx.via = .port p l) (b : Body) :
    rxTake s rx b = portAccept s p l ⟨rx.src, BitVec.ofNat 16 (myIndex s), rx.part, rx.dl, b⟩ true := by
  rw [rxTake, h]

theorem rxTake_loopback_head (h : rx.via = .loopback) {f : Frame} {rest : List Frame} (head : s.ring.loop = f :: rest)
    (src : f.src = rx.src) (part : f.part = rx.part) : rxTake s rx f.body = some (setRing s { s.ring with loop := rest }) := by
  simp [rxTake, h, head, src, part]

theorem eq_of_rxTake_loopback (h : rx.via = .loopback) {b : Body} {t : State} (taken : rxTake s rx b = some t) :
    t = setRing s { s.ring with loop := s.ring.loop.tail } := by
  rw [rxTake, h] at taken
  cases head : s.ring.loop with
  | nil => simp [head] at taken
  | cons f rest =>
    simp only [head, Option.ite_none_right_eq_some] at taken
    obtain ⟨-, same⟩ := taken
    exact (Option.some.inj same).symm

theorem rxFrame_of_not_taken {b : Body} (h : rxTake s rx b = none) (f : State → State) : rxFrame s rx b f = s := by rw [rxFrame, h]

theorem rxFrame_of_unknown_partition (h : rx.via = .loopback) {b : Body} {t : State} (taken : rxTake s rx b = some t)
    (unknown : findPt t rx.part.toNat = none) (f : State → State) :
    rxFrame s rx b f = unknownPart t 0 rx.part.toNat rx.src.toNat := by
  simp [rxFrame, taken, unknown, h]

/-- The command that a frame for this module is begins by taking the frame. -/
theorem exec_bodyCommand (s : State) (rx : Rx) (b : Body) : ∃ f, exec (bodyCommand rx b) s = .next (rxFrame s rx b f) := by
  cases b <;> exact ⟨_, rfl⟩

theorem ends_bodyCommand_of_not_taken {b : Body} (h : rxTake s rx b = none) : Ends (bodyCommand rx b) s fun t => t = s := by
  obtain ⟨f, runs⟩ := exec_bodyCommand s rx b
  exact ends_eq (by rw [runs, rxFrame_of_not_taken h])

/-- R298, R302: a frame at the head of the loopback whose partition the plan does not hold is dropped and recorded. -/
theorem ends_bodyCommand_of_unknown_partition (h : rx.via = .loopback) {b : Body} {t : State} (taken : rxTake s rx b = some t)
    (unknown : findPt t rx.part.toNat = none) : Ends (bodyCommand rx b) s fun u =>
      u.recs = { s.recs with mil := recNote s.recs.mil 0x0809 (2 ^ 24 * rx.part.toNat + 2 ^ 32 * rx.src.toNat) 0 } ∧
      u = { s with ring := { s.ring with loop := s.ring.loop.tail }, recs := u.recs, hosts := u.hosts } := by
  obtain ⟨f, runs⟩ := exec_bodyCommand s rx b
  refine ⟨_, runs, ?_⟩
  rw [rxFrame_of_unknown_partition h taken unknown, eq_of_rxTake_loopback h taken]
  exact noteMil_partition ..

end

/-! ### The obligation -/

/-- Settles O35: each command in the list is that of its body, which begins by taking its frame; a port and the loopback take a frame as the
lemmas above say. -/
theorem frameReceipt : Obligations.FrameReceipt := by
  intro s rx w gen n off d tag ep count slot code ports
  refine ⟨fun f hf => ?command, ?port, fun f rest via head src part => rxTake_loopback_head via head src part⟩
  case command =>
    have command : f.1 = bodyCommand rx f.2 := by
      revert f
      simp [bodyCommand]
    rw [command]
    exact ⟨ends_bodyCommand_of_not_taken, fun t via taken unknown => ends_bodyCommand_of_unknown_partition via taken unknown⟩
  case port =>
    intro p l b via x k
    have taken := rxTake_port (s := s) via b
    refine ⟨fun runs next => ⟨_, taken.trans (portAccept_delivers runs next _), ?_⟩, fun out => taken.trans (portAccept_discards out ..)⟩
    rw [getPort_setPort (by omega)]
    exact ⟨rfl, rfl, rfl, rfl, fun q other => getPort_setPort_ne (fun same => other (Fin.ext same.symm)) _, by rw [setPort_eq]⟩

end Sys2Proof.Machine
end

section
/-! PROOF. The ring senders (R299, R302): what a grant, a refusal and a retry do with the one request in flight, what WNAK brings back, a
sender's next unit, and O37. -/

namespace Sys2Proof.Machine

theorem exec_wreqRetry (n : Nat) (s : State) : exec (.wreqRetry n) s = .next (wreqRetry s n) := rfl

theorem exec_ringSenderUnitSend (n : Fin 64) (s : State) : exec (.ringSenderUnitSend n) s = .next (ringSend s n) := rfl

theorem exec_wgrant_of_taken {s t : State} {rx : Rx} {w : Win} {gen g : Byte} {code : Status} (taken : Taken s rx (.wgrant w gen g code) t) :
    exec (.wgrant rx w gen g code) s =
      .next (if code = 0 ∨ Code.valid code then wgrantArrive t rx w gen g.toNat code else t) :=
  congrArg _ (rxFrame_of_taken taken _)

theorem exec_wnak_of_taken {s t : State} {rx : Rx} {w : Win} {gen : Byte} {off : BitVec 21} {code : Status}
    (taken : Taken s rx (.wnak w gen off code) t) :
    exec (.wnak rx w gen off code) s = .next (if Code.valid code then wnakArrive t rx w gen off.toNat code else t) :=
  congrArg _ (rxFrame_of_taken taken _)

theorem toWin_val (w : Win) : (toWin w : Nat) = w := Nat.mod_eq_of_lt w.isLt

theorem modify_eq_set_nth {α : Type} (d : α) {l : List α} {i : Nat} (h : i < l.length) (f : α → α) :
    l.modify i f = l.set i (f (nth d l i)) := by
  rw [List.modify_eq_set_getElem?, nth, List.getD_eq_getElem?_getD, List.getElem?_eq_getElem h]
  rfl

/-! ### Grants and refusals, R299 -/

/-- R299: a request in flight that a grant of window `w` from the sender of `rx` answers. -/
structure Ask.AnsweredBy (a : Ask) (rx : Rx) (w : Win) (gen : Byte) : Prop where
  dst : a.dst = rx.src
  part : a.part = rx.part
  win : a.win = w
  gen : a.gen = gen
  flies : a.retry = none

section
variable {t : State} {rx : Rx} {w : Win} {gen : Byte} {a : Ask} (asks : t.job.asks = [a])
include asks

theorem askFor_only (his : a.AnsweredBy rx w gen) : askFor t.job rx w gen = some 0 := by
  obtain ⟨dst, part, win, its_gen, flies⟩ := his
  simp [askFor, asks, List.findIdx?_cons, dst, part, win, its_gen, flies]

/-- R299: the one request in flight gets credit, and asks again for the rest, or gets nothing, and may ask again in 0.5 µs. -/
theorem wgrantArrive_only (his : a.AnsweredBy rx w gen) (live : a.who ≠ .gone) (g : Nat) :
    wgrantArrive t rx w gen g 0 =
      if g = 0 then setJob t { t.job with asks := [{ a with retry := some (t.now + askAgain) }] }
      else
        let u := setJob t (creditTo { t.job with asks := [] } a.who g)
        if g < a.n then askOne u { a with n := a.n - g } else u := by
  simp [wgrantArrive, askFor_only asks his, asks, live]
  rfl

/-- R299: the one request that waits is made again. -/
theorem wreqRetry_asks {r : Nat} (runs : jobRuns t = true) (waits : a.retry = some r) (due : r ≤ t.now) (live : a.who ≠ .gone) :
    wreqRetry t 0 = originate (setJob t { t.job with asks := [{ a with retry := none }] }) a.part.toNat a.dst.toNat
      (.wreq (toWin a.win) a.gen (BitVec.ofNat 8 a.n) a.epoch) := by
  simp [wreqRetry, asks, waits, runs, Nat.not_lt.2 due, live]
  rfl

end

theorem creditTo_sender {j : Job} {n : Nat} (h : n < j.senders.length) (g : Nat) :
    creditTo j (.sender n) g =
      { j with senders := j.senders.set n { nth {} j.senders n with credit := (nth {} j.senders n).credit + g } } := by
  rw [creditTo, modify_eq_set_nth {} h]

/-- R299: credits that nobody has asked for go back. -/
theorem wgrantArrive_unasked {t : State} (asks : t.job.asks = []) (saved : t.saved = []) (rx : Rx) (w : Win) (gen : Byte) (g : Nat)
    (code : Status) : wgrantArrive t rx w gen g code = returnCredits t rx.part.toNat rx.src.toNat w gen g := by
  simp [wgrantArrive, askFor, asks, saved, toWin_val]

/-! ### WNAK, R299 -/

section
variable {t : State} {rx : Rx} {w : Win} {gen : Byte} {off : Nat}

theorem wnakArrive_unowned (h : nakOwner t rx w gen off = none) (code : Status) :
    wnakArrive t rx w gen off code =
      if code = Code.windowSuspended then returnCredits t rx.part.toNat rx.src.toNat w gen 1
      else noteMil t code 0 0 rx.part.toNat rx.src.toNat := by
  rw [wnakArrive, h]

/-- R107, R299: a unit of a ring sender that met a suspended window is written again with the credit it kept. -/
theorem wnakArrive_sender {n : Nat} (hn : n < t.job.senders.length) (h : nakOwner t rx w gen off = some (none, .sender n)) :
    wnakArrive t rx w gen off Code.windowSuspended = setSender t n { getSender t n with
      credit := (getSender t n).credit + 1
      redo := (getSender t n).redo ++ [off / 512 - (sendCfg (getSender t n).cfg.toNat).dst] } := by
  simp only [wnakArrive, h, ne_eq, not_true_eq_false, if_false, setOwner, ownerJob, nakAgain, modify_eq_set_nth {} hn]
  rfl

end

/-! ### The next unit of a ring sender, R302 -/

section
variable {t : State} {n : Nat} {x : Sender} {k : SendCfg} (sender : getSender t n = x) (cfg : sendCfg x.cfg.toNat = k)
  (runs : jobRuns t = true) (valid : k.valid = true)
include sender cfg runs valid

/-- R302: a unit to write again goes first. -/
theorem ringSend_again {m : Nat} {l : List Nat} (again : x.redo = m :: l) (credit : x.credit ≠ 0) :
    ringSend t n = sendUnit t k m fun v => setSender v n { x with redo := l, credit := x.credit - 1 } := by
  simp [ringSend, sender, cfg, runs, valid, again, credit]

section
variable (active : x.active = true) (fresh : x.redo = [])
include active fresh

/-- R302: the next unit of the send goes; after the last one the send ends. -/
theorem ringSend_next (credit : x.credit ≠ 0) :
    ringSend t n = sendUnit t k x.pos fun v =>
      let u := setSender v n { x with pos := x.pos + 1, credit := x.credit - 1 }
      if x.pos + 1 < k.units then u else sendEnd u n k := by
  simp only [ringSend, sender, cfg, runs, valid, active, fresh, credit, ← Nat.not_lt, ite_not]
  simp

/-- R302: without credit, credit is requested for the rest of the send. -/
theorem ringSend_asks (credit : x.credit = 0) (unasked : asking t (.sender n) = false) :
    ringSend t n = askCredits t (.sender n) k.member k.win k.gen none (k.units - x.pos) := by
  simp [ringSend, sender, cfg, runs, valid, active, fresh, credit, unasked]

end

end

/-! ### The obligation -/

/-- Settles O37: each clause is one outcome of a grant, of a request made again, of WNAK, or of a sender's next unit. -/
theorem ringSenders : Obligations.RingSenders := by
  intro s t rx w gen g off a n code senders x k
  have here : n.val < t.job.senders.length := by omega
  have zero : (0 : Status) = 0 ∨ Code.valid 0 = true := .inl rfl
  refine ⟨fun taken asks who dst part win its_gen flies all some_credit => ends_eq ?granted,
    fun taken asks live dst part win its_gen flies => ends_eq ?refused, fun taken asks saved => ends_eq ?unasked,
    fun r runs asks waits due live => ends_eq ?asked_again, fun taken unowned => ⟨_, exec_wnak_of_taken taken, ?unowned⟩,
    fun taken owned => ends_eq ?suspended, fun runs valid active fresh credit => ends_eq ?next,
    fun m l runs valid again credit => ends_eq ?again, fun runs valid active fresh credit unasked => ends_eq ?asks⟩
  case granted =>
    have amount : g.toNat ≠ 0 := fun h => some_credit (BitVec.eq_of_toNat_eq h)
    rw [exec_wgrant_of_taken taken, if_pos zero, wgrantArrive_only asks ⟨dst, part, win, its_gen, flies⟩ (by simp [who]), if_neg amount,
      if_neg (by omega), who]
    exact congrArg (fun j => Host.Outcome.next (setJob t j)) (creditTo_sender (j := { t.job with asks := [] }) here _)
  case refused =>
    rw [exec_wgrant_of_taken taken, if_pos zero, wgrantArrive_only asks ⟨dst, part, win, its_gen, flies⟩ live]
    rfl
  case unasked => rw [exec_wgrant_of_taken taken, wgrantArrive_unasked asks saved]
  case asked_again =>
    rw [exec_wreqRetry, wreqRetry_asks asks runs waits due live]
    rfl
  case unowned =>
    rw [wnakArrive_unowned unowned]
    refine ⟨fun suspended => ?_, fun other valid => ?_⟩
    · subst suspended
      rfl
    · have written : code ≠ Code.windowSuspended := other
      rw [if_pos valid, if_neg written]
      exact noteMil_partition ..
  case suspended =>
    have valid : Code.valid 0x030C = true := by decide
    rw [exec_wnak_of_taken taken, if_pos valid]
    exact congrArg _ (wnakArrive_sender here owned)
  case next => rw [exec_ringSenderUnitSend, ringSend_next rfl rfl runs valid active fresh credit]
  case again => rw [exec_ringSenderUnitSend, ringSend_again rfl rfl runs valid again credit]
  case asks => rw [exec_ringSenderUnitSend, ringSend_asks rfl rfl runs valid active fresh credit unasked]

end Sys2Proof.Machine
end

section
/-! PROOF. MSEND and MRECV (R305, R332): what each outcome writes, and the entry that a plan holds for a partition (R294). -/

namespace Sys2Proof.Machine

theorem exec_msend (c : Ctx) (rd rs1 rs2 rs3 : GReg) (s : State) :
    exec (.msend c rd rs1 rs2 rs3) s = execMsend c rd rs1 rs2 rs3 s := rfl

theorem exec_mrecv (c : Ctx) (rd rs1 : GReg) (s : State) : exec (.mrecv c rd rs1) s = execMrecv c rd rs1 s := rfl

/-! ### The entry of a partition, R294 -/

/-- R294: no two valid entries of a plan name the same partition. -/
def PartitionsOnce (p : Plan) : Prop := ((p.pts.filter ptValid).map ptPart).Nodup

theorem length_eraseDups_le (l : List Nat) : l.eraseDups.length ≤ l.length := by
  induction h : l.length using Nat.strong_induction_on generalizing l with
  | _ n ih =>
    cases l with
    | nil => exact Nat.zero_le n
    | cons a l =>
      have shorter : (l.filter fun b => !b == a).length ≤ l.length := List.length_filter_le ..
      rw [List.length_cons] at h
      have rest := ih _ (by omega) (l.filter fun b => !b == a) rfl
      rw [List.eraseDups_cons, List.length_cons]
      omega

theorem nodup_of_length_eraseDups {l : List Nat} (h : l.eraseDups.length = l.length) : l.Nodup := by
  induction l with
  | nil => exact List.nodup_nil
  | cons a l ih =>
    have all : (l.filter fun b => !b == a) = l := by
      have fewer := length_eraseDups_le (l.filter fun b => !b == a)
      refine (List.filter_sublist).eq_of_length_le ?_
      simp only [List.eraseDups_cons, List.length_cons] at h
      omega
    have absent : a ∉ l := fun member => by simpa using List.filter_eq_self.1 all a member
    rw [List.eraseDups_cons, all] at h
    exact List.nodup_cons.2 ⟨absent, ih (Nat.succ.inj h)⟩

/-- R294: a plan that may come into force names each partition once. -/
theorem partitionsOnce_of_planOk {s : State} {p : Plan} (h : planOk s p = true) : PartitionsOnce p := by
  simp only [planOk, Bool.and_eq_true, beq_iff_eq] at h
  obtain ⟨⟨⟨-, distinct⟩, -⟩, -⟩ := h
  exact nodup_of_length_eraseDups (distinct.trans (List.length_map ..).symm)

theorem jobPt_entry {s : State} {e : PtEntry} (h : jobPt s = some e) :
    s.ring.inForce.valid = true ∧ s.ring.inForce.pts[s.jobc.ptEntry]? = some e ∧ ptValid e = true := by
  unfold jobPt at h
  split at h
  · exact absurd h nofun
  · obtain ⟨entry, valid⟩ := Option.filter_eq_some_iff.1 h
    rw [Bool.and_eq_true] at valid
    exact ⟨valid.1, entry, valid.2⟩

/-- R293, R294: where a plan names each partition once, the entry of the job's partition is the job's entry. -/
theorem findPt_jobPt {s : State} {e : PtEntry} (once : PartitionsOnce s.ring.inForce) (h : jobPt s = some e) :
    ∃ i, findPt s (ptPart e) = some (e, i) := by
  obtain ⟨in_force, entry, valid⟩ := jobPt_entry h
  rw [findPt, if_pos in_force]
  cases found : (s.ring.inForce.pts.zipIdx).find? fun x => ptValid x.1 && ptPart x.1 == ptPart e with
  | none =>
    have unmet := List.find?_eq_none.1 found (e, s.jobc.ptEntry) (List.mem_zipIdx_iff_getElem?.2 entry)
    simp [valid] at unmet
  | some d =>
    have named := List.find?_some found
    simp only [Bool.and_eq_true, beq_iff_eq] at named
    obtain ⟨its_valid, part⟩ := named
    have listed := List.fst_mem_of_mem_zipIdx (List.mem_of_find?_eq_some found)
    have same : d.1 = e := List.inj_on_of_nodup_map once (List.mem_filter.2 ⟨listed, its_valid⟩)
      (List.mem_filter.2 ⟨List.mem_of_getElem? entry, valid⟩) part
    exact ⟨d.2, by rw [← same]⟩

/-- R295: a frame of the running job to a module outside the box of its partition is a fault of the job. -/
theorem originate_outside_jobc {s : State} {e : PtEntry} {i part dst : Nat} (found : findPt s part = some (e, i))
    (outside : inBox s.ring.inForce e dst = false) (running : s.jobc.st = 1) (b : Body) :
    (originate s part dst b).jobc = { s.jobc with st := 2, fault := Code.unreachable } := by
  have faults : originate s part dst b = raiseJobFault (noteMil s Code.unreachable 0 0 part dst) Code.unreachable := by
    simp [originate, found, outside]
  rw [faults, raiseJobFault_jobc (by rw [noteMil_jobc, running]), noteMil_jobc]

/-! ### MSEND, R305, R332 -/

theorem putResult_jobc (s : State) (c rd v : Nat) : (putResult s c rd v).jobc = s.jobc := by
  unfold putResult
  exact (apply_ite State.jobc _ _ _).trans (ite_self _)

section
variable {s : State} {c rd dst a n : Nat} (running : s.jobc.st = 1)
include running

theorem msendOp_illegal (h : 2 ^ 16 ≤ dst ∨ 256 < n) : msendOp s c rd dst a n = putResult s c rd Code.badArgument.toNat := by
  simp only [msendOp, noJob_of_runs running, h, Bool.false_eq_true, if_false, if_true]

section
variable {b : List Byte} {e : PtEntry} (index : dst < 2 ^ 16) (short : n ≤ 256) (operand : cmOperand s c a n = some b)
  (pt : jobPt s = some e)
include index short operand pt

theorem msendOp_sends : msendOp s c rd dst a n =
    if inBox s.ring.inForce e dst then originate (ctxBlock s c (.msend rd dst)) (ptPart e) dst (.msg b)
    else putResult (originate s (ptPart e) dst (.msg b)) c rd Code.unreachable.toNat := by
  have legal : ¬ (2 ^ 16 ≤ dst ∨ 256 < n) := by omega
  simp only [msendOp, noJob_of_runs running, legal, operand, pt, Bool.false_eq_true, if_false]

/-- R295: a message to a module outside the box is a fault of the job, where the plan names the job's partition once. -/
theorem msendOp_outside_jobc (once : PartitionsOnce s.ring.inForce) (outside : inBox s.ring.inForce e dst = false) :
    (msendOp s c rd dst a n).jobc = { s.jobc with st := 2, fault := Code.unreachable } := by
  obtain ⟨i, found⟩ := findPt_jobPt once pt
  rw [msendOp_sends running index short operand pt, if_neg (ne_true_of_eq_false outside), putResult_jobc,
    originate_outside_jobc found outside running]

end

end

/-! ### MRECV, R332 -/

theorem mrecvOp_takes {s : State} {c a : Nat} {m : BitVec 16 × List Byte} {rest : List (BitVec 16 × List Byte)}
    (allowed : cmAllows c a 256 = true) (inbox : s.job.inbox = m :: rest) :
    mrecvOp s c a =
      (Code.ok, m.1.toNat + fld 16 m.2.length, cmWrite { s with job := { s.job with inbox := rest } } a m.2) := by
  simp [mrecvOp, allowed, inbox]

theorem mrecvOp_empty {s : State} {c a : Nat} (allowed : cmAllows c a 256 = true) (inbox : s.job.inbox = []) :
    mrecvOp s c a = (Code.inboxEmpty, 0, s) := by
  simp [mrecvOp, allowed, inbox]

/-! ### The two operations at the program counter of a context of the running job -/

section
variable {s : State} {c : Ctx} {rd rs1 rs2 rs3 : GReg} (h : Sized s) (running : s.jobc.st = 1)
include h

theorem exec_msend_at (hat : At s c (wordD 0x36 0 rd rs1 rs2 rs3) none) :
    exec (.msend c rd rs1 rs2 rs3) s =
      .next (msendOp (moved s c 4) c rd (greg s c rs1).toNat (greg s c rs2).toNat (greg s c rs3).toNat) := by
  rw [exec_msend, execMsend, runInstr_atD hat, gnat_moved h, gnat_moved h, gnat_moved h]

include running

theorem msend_illegal (hat : At s c (wordD 0x36 0 rd rs1 rs2 rs3) none)
    (illegal : 2 ^ 16 ≤ (greg s c rs1).toNat ∨ 256 < (greg s c rs3).toNat) :
    exec (.msend c rd rs1 rs2 rs3) s = .next (wrote s c rd 1 4) := by
  rw [exec_msend_at h hat, msendOp_illegal (s := moved s c 4) running illegal, putResult_moved h (ctxRuns_st hat.1) rfl]
  rfl

section
variable {b : List Byte} {e : PtEntry} (hat : At s c (wordD 0x36 0 rd rs1 rs2 rs3) none) (index : (greg s c rs1).toNat < 2 ^ 16)
  (short : (greg s c rs3).toNat ≤ 256) (operand : cmOperand s c (greg s c rs2).toNat (greg s c rs3).toNat = some b)
  (pt : jobPt s = some e)
include hat index short operand pt

/-- R305: the message leaves for a module of the box, and the context waits for its fate. -/
theorem msend_sends (inside : inBox s.ring.inForce e (greg s c rs1).toNat = true) :
    exec (.msend c rd rs1 rs2 rs3) s = .next (originate
      (setCtx s c { getCtx (moved s c 4) c with st := 2, waits := .msend rd (greg s c rs1).toNat }) (ptPart e) (greg s c rs1).toNat
      (.msg b)) := by
  rw [exec_msend_at h hat, msendOp_sends (s := moved s c 4) running index short operand pt]
  refine congrArg _ ((if_pos inside).trans ?_)
  rw [ctxBlock_moved rfl]
  rfl

theorem msend_outside (once : PartitionsOnce s.ring.inForce) (outside : inBox s.ring.inForce e (greg s c rs1).toNat = false) :
    Ends (.msend c rd rs1 rs2 rs3) s fun t => t.jobc = { s.jobc with st := 2, fault := 0x0808 } :=
  ⟨_, exec_msend_at h hat, msendOp_outside_jobc (s := moved s c 4) running index short operand pt once outside⟩

end

/-- R332: the oldest message goes to control memory, and its sender and length to `rd`. -/
theorem mrecv_takes {m : BitVec 16 × List Byte} {rest : List (BitVec 16 × List Byte)}
    (hat : At s c (wordD 0x36 1 rd rs1 0 0) none) (allowed : cmAllows c (greg s c rs1).toNat 256 = true)
    (inbox : s.job.inbox = m :: rest) :
    exec (.mrecv c rd rs1) s = .next { wrote s c rd (BitVec.ofNat 64 (2 ^ 16 * (m.1.toNat + 2 ^ 16 * m.2.length))) 4 with
      job := { s.job with inbox := rest }, cm := Mem.writeN s.cm (greg s c rs1).toNat m.2 } := by
  have result : Code.ok.toNat + (m.1.toNat + fld 16 m.2.length) * 2 ^ 16 = 2 ^ 16 * (m.1.toNat + 2 ^ 16 * m.2.length) := by
    have ok : Code.ok.toNat = 0 := rfl
    rw [ok, fld]
    omega
  rw [exec_mrecv, ← result]
  exact next_syncOp h hat running (.trans (by rw [gnat_moved h]) (mrecvOp_takes (s := moved s c 4) allowed inbox)) rfl rfl

theorem mrecv_empty (hat : At s c (wordD 0x36 1 rd rs1 0 0) none) (allowed : cmAllows c (greg s c rs1).toNat 256 = true)
    (inbox : s.job.inbox = []) : exec (.mrecv c rd rs1) s = .next (wrote s c rd 0x0927 4) := by
  rw [exec_mrecv]
  exact next_syncOp_status h hat running (.trans (by rw [gnat_moved h]) (mrecvOp_empty (s := moved s c 4) allowed inbox)) rfl

end

end Sys2Proof.Machine
end

section
/-! PROOF. RDREG and WRREG (R326), and O59. -/

namespace Sys2Proof.Machine

theorem exec_rdreg (c : Ctx) (rd rs1 : GReg) (x : Bool) (imm : BitVec 47) (s : State) :
    exec (.rdreg c rd rs1 x imm) s = execRdreg c rd rs1 x imm s := rfl

theorem exec_wrreg (c : Ctx) (rs rs1 : GReg) (x : Bool) (imm : BitVec 47) (s : State) :
    exec (.wrreg c rs rs1 x imm) s = execWrreg c rs rs1 x imm s := rfl

/-! ### The outcomes of an access, R326 -/

theorem not_inAperture_iff {off : Nat} : inAperture off = false ↔ ¬ (0x280000 ≤ off ∧ off < 0x300000) := by
  simp [inAperture]

/-- R326: the offsets that context `c` may not write: the ownership block, and for a job context every block below 0x0030_0000 and from
0x00B1_0000 on. -/
abbrev Privileged (c off : Nat) : Prop := off / 0x100000 = 1 ∨ (c % 2 = 0 ∧ (off < 0x300000 ∨ 0xB10000 ≤ off))

section
variable {s : State} {c off : Nat}

theorem ctxRead_misaligned (h : off % 8 ≠ 0) (rd : Nat) : ctxRead s c rd off = programFault s c Code.misaligned := if_pos h

/-- R326: a register outside the aperture and MU_PEEK is read, or reads 0, and REG_STATUS is OK. -/
theorem ctxRead_register (aligned : off % 8 = 0) (away : ¬ (0x280000 ≤ off ∧ off < 0x300000))
    (no_peek : ¬ (0x503000 ≤ off ∧ off < 0x503100)) (rd : Nat) :
    ctxRead s c rd off = setRegStatus (putReg s c rd (BitVec.ofNat 64 ((regAt s true off).getD 0))) c Code.ok := by
  have unpeeked : ¬ (0x503000 ≤ off ∧ off < 0x503100 ∧ off % 0x40 = 0x20) := fun ⟨lo, hi, _⟩ => no_peek ⟨lo, hi⟩
  simp only [ctxRead, aligned, not_inAperture_iff.2 away, unpeeked, ne_eq, not_true_eq_false, Bool.false_eq_true, if_false]

theorem ctxWrite_misaligned (h : off % 8 ≠ 0) (v : Nat) : ctxWrite s c off v = programFault s c Code.misaligned := if_pos h

theorem ctxWrite_privileged (aligned : off % 8 = 0) (h : Privileged c off) (v : Nat) :
    ctxWrite s c off v = programFault s c Code.privileged := by
  rw [ctxWrite, if_neg (not_not.2 aligned), if_pos h]

theorem ctxWrite_register (aligned : off % 8 = 0) (h : ¬ Privileged c off) (away : ¬ (0x280000 ≤ off ∧ off < 0x300000)) (v : Nat) :
    ctxWrite s c off v = setRegStatus (regWrite s 0 true off v).2 c ((regWrite s 0 true off v).1.getD Code.ok) := by
  rw [ctxWrite, if_neg (not_not.2 aligned), if_neg h, not_inAperture_iff.2 away, if_neg Bool.false_ne_true]

/-- R35, R326, R448: HANG_LIMIT takes a value from 20 to 1000. -/
theorem ctxWrite_hangLimit {v : Nat} (h : 20 ≤ v ∧ v ≤ 1000) :
    ctxWrite s c 0x400018 v = setRegStatus { s with limits := { s.limits with hangUs := v } } c Code.ok := by
  have unreserved : v &&& ones 10 = v := and_ones_of_lt (by omega)
  have written : regWrite s 0 true 0x400018 v = (none, { s with limits := { s.limits with hangUs := v } }) := by
    rw [regWrite_may (k := (true, ones 10)) rfl (by decide) (.inr rfl), unreserved, reservedNote_inMask unreserved, regDo_hangLimit,
      inRange_of_mem _ _ h]
  rw [ctxWrite_register (by decide) (by omega) (by decide), written]
  rfl

end

/-! ### The two instructions at the program counter of a context -/

section
variable {s : State} {c : Ctx} {rd rs1 : GReg} {x : Bool} {imm : BitVec 47} (h : Sized s)
include h

theorem exec_rdreg_at (hat : AtI s c 0x20 rd rs1 x imm) :
    exec (.rdreg c rd rs1 x imm) s = .next (ctxRead (moved s c (len x)) c rd (greg s c rs1 + imm.signExtend 64).toNat) := by
  rw [exec_rdreg, execRdreg, runInstr_atI hat, effAddr, greg_moved h, immWord]

theorem exec_wrreg_at (hat : AtI s c 0x21 rd rs1 x imm) :
    exec (.wrreg c rd rs1 x imm) s =
      .next (ctxWrite (moved s c (len x)) c (greg s c rs1 + imm.signExtend 64).toNat (greg s c rd).toNat) := by
  rw [exec_wrreg, execWrreg, runInstr_atI hat, effAddr, greg_moved h, gnat_moved h, immWord]

end

/-- R326: what RDREG and WRREG do. -/
theorem registerInstructions (s : State) (c : Ctx) (rd rs1 : GReg) (x : Bool) (imm : BitVec 47) (h : Sized s) :
    let off := (greg s c rs1 + imm.signExtend 64).toNat
    let v := (greg s c rd).toNat
    (AtI s c 0x20 rd rs1 x imm → off % 8 = 0 → ¬ (0x280000 ≤ off ∧ off < 0x300000) → ¬ (0x503000 ≤ off ∧ off < 0x503100) →
      Ends (.rdreg c rd rs1 x imm) s fun t =>
        t = setRegStatus (wrote s c rd (BitVec.ofNat 64 ((regAt (moved s c (len x)) true off).getD 0)) (len x)) c 0) ∧
    (AtI s c 0x21 rd rs1 x imm → off % 8 = 0 → ¬ Privileged c off → ¬ (0x280000 ≤ off ∧ off < 0x300000) →
      Ends (.wrreg c rd rs1 x imm) s fun t =>
        t = setRegStatus (regWrite (moved s c (len x)) 0 true off v).2 c ((regWrite (moved s c (len x)) 0 true off v).1.getD 0)) ∧
    (AtI s c 0x20 rd rs1 x imm → off % 8 ≠ 0 → Ends (.rdreg c rd rs1 x imm) s fun t => t = programFault (moved s c (len x)) c 0x0921) ∧
    (AtI s c 0x21 rd rs1 x imm → off % 8 ≠ 0 → Ends (.wrreg c rd rs1 x imm) s fun t => t = programFault (moved s c (len x)) c 0x0921) ∧
    (AtI s c 0x21 rd rs1 x imm → off % 8 = 0 → Privileged c off → Ends (.wrreg c rd rs1 x imm) s fun t =>
      t = programFault (moved s c (len x)) c 0x0923) ∧
    (AtI s c 0x21 rd rs1 x imm → off = 0x400018 → 20 ≤ v → v ≤ 1000 → Ends (.wrreg c rd rs1 x imm) s fun t =>
      t = setRegStatus { moved s c (len x) with limits := { s.limits with hangUs := v } } c 0) := by
  intro off v
  refine ⟨fun hat aligned away no_peek => ends_eq ?read, fun hat aligned open_ away => ends_eq ?write,
    fun hat misaligned => ends_eq ?readMisaligned, fun hat misaligned => ends_eq ?writeMisaligned,
    fun hat aligned privileged => ends_eq ?privileged, fun hat hang least most => ends_eq ?hangLimit⟩
  case read =>
    rw [exec_rdreg_at h hat, ctxRead_register aligned away no_peek, putReg_moved h]
    rfl
  case write =>
    rw [exec_wrreg_at h hat, ctxWrite_register aligned open_ away]
    rfl
  case readMisaligned =>
    rw [exec_rdreg_at h hat, ctxRead_misaligned misaligned]
    rfl
  case writeMisaligned =>
    rw [exec_wrreg_at h hat, ctxWrite_misaligned misaligned]
    rfl
  case privileged =>
    rw [exec_wrreg_at h hat, ctxWrite_privileged aligned privileged]
    rfl
  case hangLimit =>
    have runs : exec (.wrreg c rd rs1 x imm) s = .next (ctxWrite (moved s c (len x)) c off v) := exec_wrreg_at h hat
    rw [runs, hang, ctxWrite_hangLimit ⟨least, most⟩]
    rfl

/-! ### The obligation -/

/-- R305, R332: what MSEND and MRECV do, where the plan in force names each partition once, as R294 has it (`partitionsOnce_of_planOk`);
`not_messagesAndRegisterInstructions` shows that a message to a module outside the box needs that. -/
theorem messages_of_partitionsOnce (s : State) (c : Ctx) (rd rs1 rs2 rs3 : GReg) (h : Sized s) (running : s.jobc.st = 1)
    (once : PartitionsOnce s.ring.inForce) :
    let dst := (greg s c rs1).toNat
    (∀ (b : List Byte) (e : PtEntry), At s c (wordD 0x36 0 rd rs1 rs2 rs3) none → dst < 2 ^ 16 → (greg s c rs3).toNat ≤ 256 →
      cmOperand s c (greg s c rs2).toNat (greg s c rs3).toNat = some b → jobPt s = some e →
      (inBox s.ring.inForce e dst = true → Ends (.msend c rd rs1 rs2 rs3) s fun t =>
        t = originate (setCtx s c { getCtx (moved s c 4) c with st := 2, waits := .msend rd dst }) (ptPart e) dst (.msg b)) ∧
      (inBox s.ring.inForce e dst = false → Ends (.msend c rd rs1 rs2 rs3) s fun t => t.jobc = { s.jobc with st := 2, fault := 0x0808 })) ∧
    (At s c (wordD 0x36 0 rd rs1 rs2 rs3) none → 2 ^ 16 ≤ dst ∨ 256 < (greg s c rs3).toNat → Ends (.msend c rd rs1 rs2 rs3) s fun t =>
      t = wrote s c rd 1 4) ∧
    (∀ (m : BitVec 16 × List Byte) (rest : List (BitVec 16 × List Byte)), At s c (wordD 0x36 1 rd rs1 0 0) none →
      cmAllows c dst 256 = true → s.job.inbox = m :: rest → Ends (.mrecv c rd rs1) s fun t =>
        t = { wrote s c rd (BitVec.ofNat 64 (2 ^ 16 * (m.1.toNat + 2 ^ 16 * m.2.length))) 4 with
          job := { s.job with inbox := rest }, cm := Mem.writeN s.cm dst m.2 }) ∧
    (At s c (wordD 0x36 1 rd rs1 0 0) none → cmAllows c dst 256 = true → s.job.inbox = [] → Ends (.mrecv c rd rs1) s fun t =>
      t = wrote s c rd 0x0927 4) :=
  ⟨fun _ _ hat index short operand pt =>
      ⟨fun inside => ends_eq (msend_sends h running hat index short operand pt inside), msend_outside h running hat index short operand pt once⟩,
    fun hat illegal => ends_eq (msend_illegal h running hat illegal),
    fun _ _ hat allowed inbox => ends_eq (mrecv_takes h running hat allowed inbox),
    fun hat allowed inbox => ends_eq (mrecv_empty h running hat allowed inbox)⟩

/-- Partition 5, with the four modules of axis A in its box. -/
def wideEntry : PtEntry := { cfg := BitVec.ofNat 64 (5 + 2 ^ 8 + 3 * 2 ^ 33) }

/-- Partition 5 again, with this module alone in its box. -/
def narrowEntry : PtEntry := { cfg := BitVec.ofNat 64 (5 + 2 ^ 8) }

/-- A running job of the second of two entries for partition 5, with an MSEND of an empty message to module 1 at the program counter of
context 0. -/
def partitionNamedTwice : State :=
  { State.reset with
    boot := { State.reset.boot with powered := true, stage := 4 }
    cm := Mem.writeN [] 0 (leBytes 4 (wordD 0x36 0 4 5 6 7))
    jobc := { State.reset.jobc with st := 1, ptEntry := 1 }
    ring := { State.reset.ring with inForce := { valid := true, lengths := 3, pts := [wideEntry, narrowEntry] } }
    raler := { State.reset.raler with
      ctx := State.reset.raler.ctx.set 0 { st := 1, regs := (List.replicate 32 0).set 5 1 } } }

/-- Refutes O59: the statement asks nothing of the plan in force. Where two entries name the job's partition, which R294 refuses, and the
box of the first holds the module that lies outside the job's, the message is sent and the job runs on. The rest of the statement holds:
`messages_of_partitionsOnce`, `registerInstructions`. -/
theorem not_messagesAndRegisterInstructions : ¬ Obligations.MessagesAndRegisterInstructions := by
  rintro ⟨messages, -⟩
  obtain ⟨sends, -⟩ := messages partitionNamedTwice 0 4 5 6 7 (by decide) rfl
  obtain ⟨-, outside⟩ := sends [] narrowEntry (by decide +kernel) (by decide) (by decide) (by decide) (by decide)
  obtain ⟨t, ht, faulted⟩ := outside (by decide)
  rw [exec_msend] at ht
  injection ht with ht
  rw [← ht] at faulted
  exact absurd (congrArg JobCtl.st faulted) (by decide +kernel)

end Sys2Proof.Machine
end

section
/-! PROOF. Ownership (R340 to R343): what a claim, a heartbeat, a release and a handover do, one lemma for each outcome, and O24, O25
and O26. -/

namespace Sys2Proof.Machine

theorem exec_ownClaim (n : Slot) (nonce : Word) (s : State) : exec (.ownClaim n nonce) s = hostReg s n 0x100008 nonce.toNat := rfl

theorem exec_ownHeartbeat (n : Slot) (nonce : Word) (s : State) :
    exec (.ownHeartbeat n nonce) s = hostReg s n 0x100010 nonce.toNat := rfl

theorem exec_ownRelease (n : Slot) (nonce : Word) (s : State) : exec (.ownRelease n nonce) s = hostReg s n 0x100020 nonce.toNat := rfl

theorem exec_ownHandover (n : Slot) (valid : Bool) (target : Slot) (s : State) :
    exec (.ownHandover n valid target) s = hostReg s n 0x100018 (flg 0 valid + fld 1 target) := rfl

theorem exec_leaseExpire (s : State) : exec .leaseExpire s = .next (leaseExpire s) := rfl

theorem exec_handoverLapse (s : State) : exec .handoverLapse s = .next (handoverLapse s) := rfl

theorem exec_slotLinkDown (n : Slot) (s : State) : exec (.slotLinkDown n) s = .next (slotLinkDown s n) := rfl

/-! ### The ownership registers take a write, R445, Table 15.6 -/

/-- R445: a register without an RWO field takes the write, by any slot, of a value that sets no reserved bit. -/
theorem hostReg_anySlot {s : State} {n : Slot} {off v w : Nat} (h : Answers s n) (hp : RegisterPlace off)
    (hat : (regAt s true off).isSome = true) (hk : regKind off = some (false, ones w)) (hv : v < 2 ^ w) :
    hostReg s n off v = .next (slotNote (regDo s n off v) n 0 off) := by
  rw [hostReg, hostWrite_takes h hp hat hk nofun hv]

theorem ofNat_toNat_self {k : Nat} (w : BitVec k) : BitVec.ofNat k w.toNat = w := by rw [BitVec.ofNat_toNat, BitVec.setWidth_eq]

theorem regDo_ownClaim (s : State) (n : Nat) (w : Word) : regDo s n 0x100008 w.toNat = ownClaim s n w :=
  Eq.trans rfl (congrArg (ownClaim s n) (ofNat_toNat_self w))

theorem regDo_ownHeartbeat (s : State) (n : Nat) (w : Word) : regDo s n 0x100010 w.toNat = ownHeartbeat s n w :=
  Eq.trans rfl (congrArg (ownHeartbeat s n) (ofNat_toNat_self w))

theorem regDo_ownRelease (s : State) (n : Nat) (w : Word) : regDo s n 0x100020 w.toNat = ownRelease s n w :=
  Eq.trans rfl (congrArg (ownRelease s n) (ofNat_toNat_self w))

theorem regDo_ownHandover (s : State) (n v : Nat) : regDo s n 0x100018 v = ownHandover s (bit v 0) (bits v 1 2) := rfl

section
variable {s : State} {n : Slot}

section
variable (h : Answers s n)
include h

theorem exec_ownClaim_answers (w : Word) : exec (.ownClaim n w) s = .next (slotNote (ownClaim s n w) n 0 0x100008) := by
  rw [exec_ownClaim, hostReg_anySlot h (w := 64) (by decide) rfl (by decide) w.isLt, regDo_ownClaim]

theorem exec_ownHeartbeat_answers (w : Word) :
    exec (.ownHeartbeat n w) s = .next (slotNote (ownHeartbeat s n w) n 0 0x100010) := by
  rw [exec_ownHeartbeat, hostReg_anySlot h (w := 64) (by decide) rfl (by decide) w.isLt, regDo_ownHeartbeat]

theorem exec_ownRelease_answers (w : Word) : exec (.ownRelease n w) s = .next (slotNote (ownRelease s n w) n 0 0x100020) := by
  rw [exec_ownRelease, hostReg_anySlot h (w := 64) (by decide) rfl (by decide) w.isLt, regDo_ownRelease]

end

/-- Table 15.6: VALID and TARGET are the low three bits of OWN_HANDOVER. -/
theorem ownHandover_fields : ∀ (valid : Bool) (target : Slot),
    (flg 0 valid + fld 1 target) &&& 7 = flg 0 valid + fld 1 target ∧
    bit (flg 0 valid + fld 1 target) 0 = valid ∧ bits (flg 0 valid + fld 1 target) 1 2 = target := by decide

theorem exec_ownHandover_answers (h : OwnerAnswers s n) (valid : Bool) (target : Slot) :
    exec (.ownHandover n valid target) s = .next (slotNote (ownHandover s valid target) n 0 0x100018) := by
  obtain ⟨unreserved, isValid, isTarget⟩ := ownHandover_fields valid target
  rw [exec_ownHandover, hostReg_takes h (by decide) rfl (by decide) unreserved, regDo_ownHandover, isValid, isTarget]

end

/-! ### A claim, R340 -/

section
variable {s : State} {n : Nat} {nonce : Word}

theorem ownClaim_zeroNonce (s : State) (n : Nat) : ownClaim s n 0 = (some Code.badArgument, s) := if_pos rfl

theorem ownClaim_unowned (hz : nonce ≠ 0) (free : s.own.owned = false) : ownClaim s n nonce = (none, newOwner s n nonce) := by
  rw [ownClaim, if_neg hz]
  simp [free]

theorem ownClaim_renews (hz : nonce ≠ 0) (owned : s.own.owned = true) (same : s.own.slot = n ∧ s.own.nonce = nonce) :
    ownClaim s n nonce = (none, { s with own := { s.own with leaseEnd := s.now + leaseTime } }) := by
  rw [ownClaim, if_neg hz]
  simp [owned, same]

theorem ownClaim_handedOver (hz : nonce ≠ 0) (owned : s.own.owned = true) (other : ¬ (s.own.slot = n ∧ s.own.nonce = nonce))
    (offered : s.own.handover = true ∧ s.own.target = n) : ownClaim s n nonce = (none, newOwner s n nonce) := by
  rw [ownClaim, if_neg hz]
  simp [owned, if_neg other, offered]

theorem ownClaim_held (hz : nonce ≠ 0) (owned : s.own.owned = true) (other : ¬ (s.own.slot = n ∧ s.own.nonce = nonce))
    (notOffered : ¬ (s.own.handover = true ∧ s.own.target = n)) : ownClaim s n nonce = (some Code.ownerHeld, s) := by
  rw [ownClaim, if_neg hz]
  simp [owned, if_neg other, notOffered]

end

/-- Settles O24: each clause is one outcome of `ownClaim`. -/
theorem ownershipClaim : Obligations.OwnershipClaim := by
  intro s n nonce h
  have claims {r} (hr : ownClaim s n nonce = r) : exec (.ownClaim n nonce) s = .next (slotNote r n 0 0x100008) := by
    rw [exec_ownClaim_answers h, hr]
  refine ⟨fun hz => ?_, fun hz free => ?_, fun hz owned slot same => ?_, fun hz owned other offered target => ?_,
    fun hz owned other notOffered => ?_⟩
  · subst hz
    exact ends_eq (claims (ownClaim_zeroNonce s n))
  · exact ends_eq (claims (ownClaim_unowned hz free))
  · exact ends_eq (claims (ownClaim_renews hz owned ⟨slot, same⟩))
  · exact ends_eq (claims (ownClaim_handedOver hz owned other ⟨offered, target⟩))
  · exact ends_eq (claims (ownClaim_held hz owned other notOffered))

/-! ### A heartbeat, R341, and a release, R342: by the owner, with the nonce of its claim -/

section
variable {s : State} {n : Nat} {nonce : Word}

theorem namesOwner_iff : (isOwner s n && s.own.nonce == nonce) = true ↔ s.own.owned = true ∧ s.own.slot = n ∧ s.own.nonce = nonce := by
  rw [Bool.and_eq_true, isOwner_iff, beq_iff_eq, and_assoc]

theorem ownHeartbeat_renews (h : s.own.owned = true ∧ s.own.slot = n ∧ s.own.nonce = nonce) :
    ownHeartbeat s n nonce = (none, { s with own := { s.own with leaseEnd := s.now + leaseTime } }) := if_pos (namesOwner_iff.2 h)

theorem ownHeartbeat_lost (h : ¬ (s.own.owned = true ∧ s.own.slot = n ∧ s.own.nonce = nonce)) :
    ownHeartbeat s n nonce = (some Code.leaseLost, s) := if_neg (mt namesOwner_iff.1 h)

theorem ownRelease_ends (h : s.own.owned = true ∧ s.own.slot = n ∧ s.own.nonce = nonce) :
    ownRelease s n nonce = (none, endOwner s) := if_pos (namesOwner_iff.2 h)

theorem ownRelease_lost (h : ¬ (s.own.owned = true ∧ s.own.slot = n ∧ s.own.nonce = nonce)) :
    ownRelease s n nonce = (some Code.leaseLost, s) := if_neg (mt namesOwner_iff.1 h)

end

/-- Settles O25: the two outcomes of `ownHeartbeat`. -/
theorem heartbeatRenewsLease : Obligations.HeartbeatRenewsLease := by
  refine fun s n nonce h => ⟨fun owned slot same => ends_eq ?_, fun other => ends_eq ?_⟩
  · rw [exec_ownHeartbeat_answers h, ownHeartbeat_renews ⟨owned, slot, same⟩]; rfl
  · rw [exec_ownHeartbeat_answers h, ownHeartbeat_lost other]; rfl

/-! ### The end of a lease, R342 -/

theorem endOwner_owned {s : State} (h : s.own.owned = true) :
    endOwner s = { s with own := { epoch := s.own.epoch + 1 }, hosts := s.hosts.map fun h => msixRaise s.now h 1 } := if_pos h

theorem leaseExpire_due {s : State} (owned : s.own.owned = true) (due : s.own.leaseEnd ≤ s.now) : leaseExpire s = endOwner s := by
  simp [leaseExpire, owned, due]

theorem leaseExpire_early {s : State} (early : s.now < s.own.leaseEnd) : leaseExpire s = s := by
  simp [leaseExpire, early]

/-- R339, R342: the link of the owner's slot goes down; the records of its buffer are lost, and its lease ends. -/
theorem slotLinkDown_owner {s : State} {n : Nat} (owns : s.own.owned = true ∧ s.own.slot = n) (present : (getHost s n).present = true) :
    slotLinkDown s n = endOwner (setHost s n { getHost s n with
      present := false, width := 0, rate := 0, buf := [], lost := (getHost s n).lost + BitVec.ofNat 32 (getHost s n).buf.length }) := by
  simp only [slotLinkDown, present, Bool.not_true, Bool.false_eq_true, if_false]
  exact if_pos (isOwner_iff.2 owns)

/-! ### A handover, R343 -/

theorem handoverDrop_pending {s : State} (pending : s.own.handover = true) : handoverDrop s = { s with
    own := { s.own with handover := false, target := 0, handoverEnd := 0, hoValid := false }
    hosts := s.hosts.map fun h => msixRaise s.now h 1 } := if_pos pending

theorem handoverLapse_due {s : State} (pending : s.own.handover = true) (due : s.own.handoverEnd ≤ s.now) :
    handoverLapse s = handoverDrop s := by
  simp [handoverLapse, pending, due]

theorem ownHandover_withdraws (s : State) (target : Nat) : ownHandover s false target =
    (none, { handoverDrop s with own := { (handoverDrop s).own with hoValid := false, hoTarget := target } }) := rfl

theorem ownHandover_refuses {s : State} {target : Nat} (h : target = s.own.slot ∨ (getHost s target).present = false) :
    ownHandover s true target = (some Code.handoverInvalid, s) := by
  simp [ownHandover, h]

theorem ownHandover_offers {s : State} {target : Nat} (other : target ≠ s.own.slot) (present : (getHost s target).present = true) :
    ownHandover s true target = (none, interrupt { s with own := { s.own with
      handover := true, target := target, handoverEnd := s.now + leaseTime, hoValid := true, hoTarget := target } } 1) := by
  simp [ownHandover, other, present]

/-- Settles O26: a lease ends by `endOwner` in each of its three ways; each other clause is one outcome of a release, of a handover or of
its lapse. -/
theorem leaseAndHandover : Obligations.LeaseAndHandover := by
  refine ⟨fun s n nonce => ⟨fun owned due => ends_eq ?_, fun owned early => ends_eq ?_, fun owned slot present => ends_eq ?_,
      fun h owned slot same => ends_eq ?_, fun h other => ends_eq ?_⟩,
    fun s n target h => ⟨fun other present => ends_eq ?_, fun refused => ends_eq ?_, fun pending => ends_eq ?_,
      fun u pending due => ends_eq ?_⟩⟩
  · rw [exec_leaseExpire, leaseExpire_due owned due, endOwner_owned owned]
  · rw [exec_leaseExpire, leaseExpire_early early]
  · rw [exec_slotLinkDown, slotLinkDown_owner ⟨owned, slot⟩ present]
    exact congrArg _ (endOwner_owned owned)
  · rw [exec_ownRelease_answers h, ownRelease_ends ⟨owned, slot, same⟩, slotNote_of_none rfl, endOwner_owned owned]
  · rw [exec_ownRelease_answers h, ownRelease_lost other]; rfl
  · have ⟨_, _, slot⟩ := h
    rw [exec_ownHandover_answers h, ownHandover_offers (slot ▸ Fin.val_ne_of_ne other) present]; rfl
  · have ⟨_, _, slot⟩ := h
    rw [exec_ownHandover_answers h, ownHandover_refuses (refused.imp_left fun e => by rw [e, slot])]; rfl
  · rw [exec_ownHandover_answers h, ownHandover_withdraws, handoverDrop_pending pending]; rfl
  · rw [exec_handoverLapse, handoverLapse_due pending due, handoverDrop_pending pending]

end Sys2Proof.Machine
end

section
/-! PROOF. The doorbell pages of BAR2 (R346 to R349) and the control memory aperture (R337): how a write of a page is decided, one lemma
for each outcome, and O28 and O29. -/

namespace Sys2Proof

/-! ### Bytes and the number that they spell, R3 -/

theorem leBytes_leNat (d : List Byte) : leBytes d.length (leNat d) = d := by
  induction d with
  | nil => rfl
  | cons b bs ih =>
    have low : BitVec.ofNat 8 (leNat (b :: bs)) = b := BitVec.eq_of_toNat_eq (by rw [BitVec.toNat_ofNat, leNat]; omega)
    have rest : leNat (b :: bs) / 256 = leNat bs := by rw [leNat]; omega
    rw [List.length_cons, leBytes, low, rest, ih]

theorem leNat_leBytes (k v : Nat) : leNat (leBytes k v) = v % 256 ^ k := by
  induction k generalizing v with
  | zero => rw [Nat.pow_zero, Nat.mod_one]; rfl
  | succ k ih => rw [leBytes, leNat, ih, Nat.pow_succ', Nat.mod_mul]; rfl

theorem length_leBytes (k v : Nat) : (leBytes k v).length = k := by
  induction k generalizing v with
  | zero => rfl
  | succ k ih => rw [leBytes, List.length_cons, ih]

end Sys2Proof

namespace Sys2Proof.Machine

theorem exec_programQueueTailWrite_register (n : Slot) (q : Fin 4) (tail : BitVec 32) (s : State) :
    exec (.programQueueTailWrite n none q tail) s = hostReg s n (0x202018 + 0x20 * q) tail.toNat := rfl

theorem exec_programQueueTailWrite_page (n p : Slot) (q : Fin 4) (tail : BitVec 32) (s : State) :
    exec (.programQueueTailWrite n (some p) q tail) s = .next (hostWrite s n true (0x1000 * p + 8 * q) 8 tail.toNat) := rfl

theorem exec_rqTailWrite (n p : Slot) (tail : BitVec 32) (s : State) :
    exec (.rqTailWrite n p tail) s = .next (hostWrite s n true (0x1000 * p + 0x28) 8 tail.toNat) := rfl

theorem exec_requestRingWrite (n p : Slot) (off : Nat) (d : List Byte) (s : State) :
    exec (.requestRingWrite n p off d) s = .next (hostWrite s n true (0x1000 * p + 0x800 + off % 0x800) d.length (leNat d)) := rfl

theorem exec_crHeadWrite (n p : Slot) (head : BitVec 32) (s : State) :
    exec (.crHeadWrite n p head) s = .next (hostWrite s n true (0x1000 * p + 0x50) 8 head.toNat) := rfl

theorem exec_apertureWrite (n : Slot) (off width v : Nat) (s : State) : exec (.controlMemoryApertureAccess n true off width v) s =
    .next (hostWrite s n false (0x280000 + off % 0x80000) width v) := rfl

theorem exec_apertureRead (n : Slot) (off width v : Nat) (s : State) : exec (.controlMemoryApertureAccess n false off width v) s =
    .next (cmApertureRead s n (0x280000 + off % 0x80000) width) := rfl

/-! ### A write of a doorbell page, R346, R445 -/

section
variable {s : State} {n : Slot}

theorem hostWrite_bar2 {off width : Nat} (h : Answers s n) (hb : off + width ≤ 0x4000) (v : Nat) :
    hostWrite s n true off width v = slotNote (bar2Write s n off (leBytes width v)) n 1 off := by
  obtain ⟨-, present, settled⟩ := h
  simp [hostWrite, ownSettle_settled settled, present, inBar, hb]

/-- R346: below the MSI-X table and beside the SLOT_CAP word, a page takes writes of 64 bits alone. -/
theorem pageWide_register {o : Nat} (low : o < 0x70) (width : Nat) : pageWide o width = wide o width := by
  rw [pageWide, if_neg (by omega), if_neg (by omega)]

/-- R346, R347: the request ring window takes whole words within a line of 64 bytes. -/
theorem pageWide_window {a width : Nat} (words : a % 4 = 0 ∧ width % 4 = 0) (nonempty : 0 < width) (line : a % 64 + width ≤ 64) :
    pageWide (0x800 + a) width = true := by
  rw [pageWide, if_pos (by omega)]
  simp only [Bool.and_eq_true, decide_eq_true_eq, beq_iff_eq]
  omega

/-- R445: a register of the slot's own page that asks for no right the slot lacks. -/
theorem bar2Write_register {o k : Nat} {rwo : Bool} {data : List Byte} (ready : isReady s = true) (low : o < 0x70)
    (isWide : data.length = 8 ∧ o % 8 = 0) (hk : pageKind o = some (some (rwo, k))) (may : rwo = false ∨ isOwner s n = true) :
    bar2Write s n (0x1000 * n + o) data = reservedNote (pageDo s n o (leNat data &&& k)) (leNat data) k := by
  have place : (0x1000 * n.val + o) % 0x1000 = o := by omega
  have page : (0x1000 * n.val + o) / 0x1000 = n.val := by omega
  have right : (rwo && !isOwner s n) = false := by rcases may with e | e <;> simp [e]
  have widths : pageWide o data.length = true := by rw [pageWide_register low, wide_iff.2 isWide]
  simp only [bar2Write, place, page, ready, widths, hk, right]
  rw [if_neg (by decide), if_neg (by decide), if_neg (by simp), if_neg (by omega), if_neg (by omega), if_neg (by omega)]
  rfl

/-- R347: the request ring window of the slot's own page. -/
theorem bar2Write_window {a : Nat} {data : List Byte} (ready : isReady s = true) (inside : a < 0x800)
    (widths : pageWide (0x800 + a) data.length = true) :
    bar2Write s n (0x1000 * n + (0x800 + a)) data = windowWrite s n a data := by
  have place : (0x1000 * n.val + (0x800 + a)) % 0x1000 = 0x800 + a := by omega
  have page : (0x1000 * n.val + (0x800 + a)) / 0x1000 = n.val := by omega
  simp only [bar2Write, place, page, ready, widths]
  rw [if_neg (by decide), if_neg (by decide), if_neg (by simp), if_pos (by omega), Nat.add_sub_cancel_left]

theorem leNat_word32 (w : BitVec 32) : leNat (leBytes 8 w.toNat) = w.toNat := by
  rw [leNat_leBytes]
  exact Nat.mod_eq_of_lt (by omega)

/-- A 32-bit register of the slot's own page that asks for no right the slot lacks. -/
theorem hostWrite_page {o : Nat} {rwo : Bool} (w : BitVec 32) (h : Answers s n) (low : o < 0x70) (aligned : o % 8 = 0)
    (hk : pageKind o = some (some (rwo, ones 32))) (hown : rwo = true → s.own.owned = true ∧ s.own.slot = n) :
    hostWrite s n true (0x1000 * n + o) 8 w.toNat = slotNote (pageDo s n o w.toNat) n 1 (0x1000 * n + o) := by
  have ⟨ready, _, _⟩ := h
  have unreserved : w.toNat &&& ones 32 = w.toNat := and_ones_of_lt w.isLt
  rw [hostWrite_bar2 h (by omega), bar2Write_register ready low ⟨length_leBytes .., aligned⟩ hk (may_of_owns hown), leNat_word32,
    unreserved, reservedNote_inMask unreserved]

end

/-! ### PQ_TAIL, R322, R348 -/

/-- The offset of PQ_TAIL of a program queue in BAR0, Table 14.10. -/
abbrev pqTailAt (q : Fin 4) : Nat := 0x202018 + 0x20 * q.val

theorem registerPlace_pqTail (q : Fin 4) : RegisterPlace (pqTailAt q) := by
  unfold RegisterPlace pqTailAt
  omega

theorem regAt_pqTail (s : State) (q : Fin 4) : (regAt s true (pqTailAt q)).isSome = true := by
  match q with
  | 0 | 1 | 2 | 3 => rfl

theorem regKind_pqTail : ∀ q : Fin 4, regKind (pqTailAt q) = some (true, ones 32) := by decide

theorem regDo_pqTail (s : State) (n : Nat) (q : Fin 4) (tail : BitVec 32) :
    regDo s n (pqTailAt q) tail.toNat = pqTailWrite s q tail := by
  refine Eq.trans ?_ (congrArg (pqTailWrite s q) (ofNat_toNat_self tail))
  match q with
  | 0 | 1 | 2 | 3 => rfl

theorem pageKind_pqTail : ∀ q : Fin 4, pageKind (8 * q) = some (some (true, ones 32)) := by decide

theorem pageDo_pqTail (s : State) (n : Nat) (q : Fin 4) (tail : BitVec 32) :
    pageDo s n (8 * q) tail.toNat = pqTailWrite s q tail := by
  refine Eq.trans ?_ (congrArg (pqTailWrite s q) (ofNat_toNat_self tail))
  match q with
  | 0 | 1 | 2 | 3 => rfl

section
variable {s : State} {n : Slot} (h : OwnerAnswers s n)
include h

theorem exec_programQueueTailWrite_register_takes (q : Fin 4) (tail : BitVec 32) :
    exec (.programQueueTailWrite n none q tail) s = .next (slotNote (pqTailWrite s q tail) n 0 (pqTailAt q)) := by
  rw [exec_programQueueTailWrite_register, hostReg_takes h (registerPlace_pqTail q) (regAt_pqTail s q) (regKind_pqTail q)
    (and_ones_of_lt tail.isLt), regDo_pqTail]

theorem exec_programQueueTailWrite_page_takes (q : Fin 4) (tail : BitVec 32) :
    exec (.programQueueTailWrite n (some n) q tail) s = .next (slotNote (pqTailWrite s q tail) n 1 (0x1000 * n + 8 * q)) := by
  obtain ⟨answers, owns⟩ := h
  rw [exec_programQueueTailWrite_page, hostWrite_page tail answers (by omega) (by omega) (pageKind_pqTail q) fun _ => owns,
    pageDo_pqTail]

end

theorem pqTailWrite_sets {s : State} {q : Nat} {tail : BitVec 32}
    (fits : (tail - (getPq s q).head).toNat ≤ 2 ^ (getPq s q).size) :
    pqTailWrite s q tail = (none, setPq s q { getPq s q with tail := tail }) := if_neg (Nat.not_lt.2 fits)

theorem pqTailWrite_refuses {s : State} {q : Nat} {tail : BitVec 32}
    (far : 2 ^ (getPq s q).size < (tail - (getPq s q).head).toNat) : pqTailWrite s q tail = (some Code.badArgument, s) := if_pos far

/-- Settles O28: the register of BAR0 and the one of the slot's page both take the owner's write as `pqTailWrite`, which has two outcomes. -/
theorem programQueueDoorbell : Obligations.ProgramQueueDoorbell := by
  refine fun s n q tail h => ⟨fun fits page hpage => ?_, fun far => ⟨ends_eq ?_, ends_eq ?_⟩⟩
  · rcases List.mem_pair.1 hpage with rfl | rfl
    · exact ends_eq (by rw [exec_programQueueTailWrite_register_takes h, pqTailWrite_sets fits]; rfl)
    · exact ends_eq (by rw [exec_programQueueTailWrite_page_takes h, pqTailWrite_sets fits]; rfl)
  · rw [exec_programQueueTailWrite_register_takes h, pqTailWrite_refuses far]; rfl
  · rw [exec_programQueueTailWrite_page_takes h, pqTailWrite_refuses far]; rfl

/-! ### The request ring, R347 -/

section
variable {s : State} {n : Slot} (h : OwnerAnswers s n)
include h

theorem exec_rqTailWrite_takes (tail : BitVec 32) :
    exec (.rqTailWrite n n tail) s = .next (slotNote (rqTailWrite s n tail) n 1 (0x1000 * n + 0x28)) := by
  obtain ⟨answers, owns⟩ := h
  have value : pageDo s n 0x28 tail.toNat = rqTailWrite s n tail := congrArg (rqTailWrite s n) (ofNat_toNat_self tail)
  rw [exec_rqTailWrite, hostWrite_page tail answers (by decide) (by decide) (rwo := true) (by decide) fun _ => owns, value]

theorem exec_requestRingWrite_takes {off : Nat} {d : List Byte} (line : off % 64 + d.length ≤ 64)
    (words : off % 4 = 0 ∧ d.length % 4 = 0) (nonempty : d ≠ []) (inside : off < 0x800) :
    exec (.requestRingWrite n n off d) s = .next (slotNote (windowWrite s n off d) n 1 (0x1000 * n + 0x800 + off)) := by
  obtain ⟨answers, -⟩ := h
  have ⟨ready, _, _⟩ := answers
  have widths := pageWide_window words (List.length_pos_of_ne_nil nonempty) line
  have := n.isLt
  rw [exec_requestRingWrite, Nat.mod_eq_of_lt inside, hostWrite_bar2 answers (by omega), leBytes_leNat, Nat.add_assoc,
    bar2Write_window ready inside widths]

theorem windowWrite_running (running : s.jobc.st = 1) (a : Nat) (d : List Byte) :
    windowWrite s n a d = (none, cmWrite s ((getHost s n).rqBase + 64 + a) d) := by
  obtain ⟨-, owns⟩ := h
  simp [windowWrite, isOwner_iff.2 owns, jobOn, running]

theorem windowWrite_noJob (idle : s.jobc.st ≠ 1) (a : Nat) (d : List Byte) : windowWrite s n a d = (some Code.noJob, s) := by
  obtain ⟨-, owns⟩ := h
  simp [windowWrite, isOwner_iff.2 owns, jobOn, idle]

end

/-- R347: the bell of slot `n`: the event that a write of RQ_TAIL raises in the job contexts. -/
theorem evRecord_slot (n : Slot) : evRecord Code.ok 0 n = BitVec.ofNat 64 (n.val * 2 ^ 32) := by
  match n with
  | 0 | 1 | 2 | 3 => rfl

theorem rqTailWrite_rings {s : State} {n : Nat} {tail : BitVec 32} (running : s.jobc.st = 1)
    (fits : (tail - BitVec.ofNat 32 (rqHead s n)).toNat ≤ 32) :
    let rung := cmWrite (setHost s n { getHost s n with rqTail := tail }) ((getHost s n).rqBase + 4) (leBytes 4 tail.toNat)
    rqTailWrite s n tail = (none,
      if BitVec.ofNat 32 (rqTailWord s n) = BitVec.ofNat 32 (rqHead s n) ∧ tail ≠ BitVec.ofNat 32 (rqHead s n)
      then raiseAll rung jobCtxs 4 (evRecord Code.ok 0 n) else rung) := by
  have on : jobOn s = true := beq_iff_eq.2 running
  rw [rqTailWrite, on, if_neg (by decide), if_neg (Nat.not_lt.2 fits)]

theorem rqTailWrite_far {s : State} {n : Nat} {tail : BitVec 32} (running : s.jobc.st = 1)
    (far : 32 < (tail - BitVec.ofNat 32 (rqHead s n)).toNat) : rqTailWrite s n tail = (some Code.badArgument, s) := by
  have on : jobOn s = true := beq_iff_eq.2 running
  rw [rqTailWrite, on, if_neg (by decide), if_pos far]

theorem rqTailWrite_noJob {s : State} (n : Nat) (tail : BitVec 32) (idle : s.jobc.st ≠ 1) :
    rqTailWrite s n tail = (some Code.noJob, s) := by
  simp [rqTailWrite, jobOn, idle]

/-! ### CR_HEAD, R349 -/

theorem exec_crHeadWrite_takes {s : State} {n : Slot} (h : Answers s n) (head : BitVec 32) : exec (.crHeadWrite n n head) s =
    .next (setHost s n (crFill s.now { getHost s n with crHead := head })) := by
  have value : pageDo s n 0x50 head.toNat = (none, setHost s n (crFill s.now { getHost s n with crHead := BitVec.ofNat 32 head.toNat })) := rfl
  rw [exec_crHeadWrite, hostWrite_page head h (by decide) (by decide) (rwo := false) (by decide) nofun, value, slotNote_of_none rfl,
    ofNat_toNat_self]

/-! ### The control memory aperture, R337 -/

theorem inAperture_offset {off : Nat} (inside : off < 0x80000) : inAperture (0x280000 + off) = true := by
  simp only [inAperture, Bool.and_eq_true, decide_eq_true_eq]
  omega

theorem apertureAddr_offset (s : State) (n off : Nat) : apertureAddr s n (0x280000 + off) = (getHost s n).cmBase + off := by
  unfold apertureAddr
  omega

theorem bar0Write_aperture {s : State} {off : Nat} (n v : Nat) (ready : isReady s = true) (aligned : off % 8 = 0)
    (inside : off < 0x80000) : bar0Write s n (0x280000 + off) 8 v =
      if isOwner s n then (none, cmWrite s ((getHost s n).cmBase + off) (leBytes 8 v)) else (some Code.notOwner, s) := by
  rw [bar0Write, ready, wide_iff.2 ⟨rfl, by omega⟩, inAperture_offset inside, apertureAddr_offset]
  rfl

section
variable {s : State} {m : Slot} {off : Nat} (h : Answers s m) (aligned : off % 8 = 0) (inside : off < 0x80000)
include h aligned inside

theorem exec_apertureWrite_takes (v : Nat) : exec (.controlMemoryApertureAccess m true off 8 v) s =
    .next (slotNote (if isOwner s m then (none, cmWrite s ((getHost s m).cmBase + off) (leBytes 8 v)) else (some Code.notOwner, s))
      m 0 (0x280000 + off)) := by
  obtain ⟨ready, present, settled⟩ := h
  rw [exec_apertureWrite, Nat.mod_eq_of_lt inside, hostWrite_bar0 v settled present (by omega), bar0Write_aperture m v ready aligned inside]

theorem exec_apertureRead_takes (v : Nat) : exec (.controlMemoryApertureAccess m false off 8 v) s =
    .next (setHost s m { getHost s m with
      resp := if isOwner s m then Mem.readN s.cm ((getHost s m).cmBase + off) 8 else List.replicate 8 0 }) := by
  obtain ⟨ready, present, settled⟩ := h
  have allowed : pageReadWide (0x280000 + off) 8 = true := pageReadWide_iff.2 (.inl ⟨rfl, by omega⟩)
  rw [exec_apertureRead, Nat.mod_eq_of_lt inside]
  simp [cmApertureRead, ownSettle_settled settled, present, allowed, ready, apertureAddr_offset, cmRead]

end

/-- Settles O29: a write of the owner's own page reaches `rqTailWrite`, `windowWrite` or CR_HEAD, and each clause is one of their outcomes;
the aperture answers the owner and no other slot. -/
theorem doorbellPage : Obligations.DoorbellPage := by
  intro s n tail d off v h
  have ⟨answers, owns⟩ := h
  have ⟨ready, _, settled⟩ := answers
  refine ⟨fun running fits => ends_eq ?_, fun running far => ends_eq ?_, fun idle => ends_eq ?_,
    fun running line off4 len4 nonempty inside => ends_eq ?_, fun idle full line inside => ends_eq ?_, ends_eq ?_,
    fun aligned inside => ⟨fun _ => ends_eq ?_, ends_eq ?_⟩, fun m other present aligned inside => ?_⟩
  · rw [exec_rqTailWrite_takes h, rqTailWrite_rings running fits, slotNote_of_none rfl, evRecord_slot]; rfl
  · rw [exec_rqTailWrite_takes h, rqTailWrite_far running far]; rfl
  · rw [exec_rqTailWrite_takes h, rqTailWrite_noJob n tail idle]; rfl
  · rw [exec_requestRingWrite_takes h line ⟨off4, len4⟩ nonempty inside, windowWrite_running h running]; rfl
  · rw [exec_requestRingWrite_takes h (by omega) (by omega) (List.ne_nil_of_length_pos (by omega)) inside, windowWrite_noJob h idle]; rfl
  · exact exec_crHeadWrite_takes answers tail
  · rw [exec_apertureWrite_takes answers aligned inside, if_pos (isOwner_iff.2 owns)]; rfl
  · rw [exec_apertureRead_takes answers aligned inside, if_pos (isOwner_iff.2 owns)]; rfl
  · have ⟨_, owner⟩ := owns
    have accesses : Answers s m := ⟨ready, present, settled⟩
    have stranger : isOwner s m = false := isOwner_eq_false fun ⟨_, slot⟩ => other (Fin.ext (slot ▸ owner))
    refine ⟨ends_eq ?_, ends_eq ?_⟩
    · rw [exec_apertureWrite_takes accesses aligned inside, stranger]; rfl
    · rw [exec_apertureRead_takes accesses aligned inside, stranger]; rfl

end Sys2Proof.Machine
end

section
/-! PROOF. The clock in force (R363) and what limits it (R372, R376, R377, R379): what a record of PWR_EVENT and PT_FAULT and a change of
the power state write, one lemma for each outcome of a limiter, and O15. -/

namespace Sys2Proof.Machine

/-! ### Records of PWR_EVENT and PT_FAULT, R381 -/

theorem notePwr_eq (s : State) (code : Status) : notePwr s code =
    { s with recs := { s.recs with pwr := recNote s.recs.pwr code 0 0 }, mgmt := (notePwr s code).mgmt } := by
  unfold notePwr
  split <;> rfl

theorem notePt_eq (s : State) (code : Status) (k : Nat) : notePt s code k =
    { s with recs := { s.recs with pt := recNote s.recs.pt code (2 ^ 17 * k) 0 }, hosts := (notePt s code k).hosts } := by
  unfold notePt recIrq
  rw [fld, Nat.mul_comm]
  split <;> rfl

/-- R381: both registers take the record; the alert and the vectors that it raises are the rest. -/
theorem ptRecord_eq (s : State) (code : Status) (k : Nat) : ptRecord s code k =
    { s with
      recs := { s.recs with pwr := recNote s.recs.pwr code 0 0, pt := recNote s.recs.pt code (2 ^ 17 * k) 0 }
      hosts := (ptRecord s code k).hosts, mgmt := (ptRecord s code k).mgmt } := by
  rw [ptRecord, notePt_eq, notePwr_eq]

section
variable (s : State) (code : Status) (k : Nat)

@[simp] theorem ptRecord_now : (ptRecord s code k).now = s.now := by rw [ptRecord_eq]
@[simp] theorem ptRecord_power : (ptRecord s code k).power = s.power := by rw [ptRecord_eq]
@[simp] theorem ptRecord_panel : (ptRecord s code k).panel = s.panel := by rw [ptRecord_eq]
@[simp] theorem ptRecord_boot : (ptRecord s code k).boot = s.boot := by rw [ptRecord_eq]

end

/-! ### A change of the power state, R363 -/

theorem setPower_eq (s : State) (p : Power) : setPower s p =
    { s with power := (setPower s p).power, hosts := (setPower s p).hosts } := by
  unfold setPower
  extract_lets f peak trip str t
  split <;> rfl

theorem setPower_power (s : State) (p : Power) : (setPower s p).power = { p with
    fabric := fabricOf p
    peakSince := (runTime s.now (fabricOf p == 2100) p.peakSince p.peakPp).1
    peakPp := (runTime s.now (fabricOf p == 2100) p.peakSince p.peakPp).2
    tripSince := (runTime s.now (fabricOf p == 800) p.tripSince p.tripPp).1
    tripPp := (runTime s.now (fabricOf p == 800) p.tripSince p.tripPp).2
    droopSince := (runTime s.now (decide (p.droopFreq < 2100)) p.droopSince p.stretchPp).1
    stretchPp := (runTime s.now (decide (p.droopFreq < 2100)) p.droopSince p.stretchPp).2 } := by
  unfold setPower
  extract_lets f peak trip str t
  split <;> rfl

@[simp] theorem setPower_boot (s : State) (p : Power) : (setPower s p).boot = s.boot := by rw [setPower_eq]

@[simp] theorem setPower_panel (s : State) (p : Power) : (setPower s p).panel = s.panel := by rw [setPower_eq]

@[simp] theorem setPower_fabric (s : State) (p : Power) : (setPower s p).power.fabric = fabricOf p := by rw [setPower_power]

theorem setPower_hosts (s : State) (p : Power) : (setPower s p).hosts =
    if powerSigns p = powerSigns s.power then s.hosts else s.hosts.map fun h => msixRaise s.now h 11 := by
  unfold setPower
  extract_lets f peak trip str t
  split <;> rfl

theorem powerSigns_eq_iff {p q : Power} : powerSigns p = powerSigns q ↔
    limitBits p = limitBits q ∧ refBits p = refBits q ∧ p.thermState = q.thermState ∧ p.inRating = q.inRating := by
  simp [powerSigns]

theorem fabricOf_trip {p : Power} (h : p.trip = true) : fabricOf p = 800 := by simp [fabricOf, h]

theorem fabricOf_noTrip {p : Power} (h : p.trip = false) :
    fabricOf p = min (min p.capFreq (if p.inputLow then 1600 else 2100)) (min p.droopFreq p.warnFreq) := by simp [fabricOf, h]

/-- R363: with no trip the clock lies between the 1,600 MHz that every limiter keeps to and what the cap sets. -/
theorem fabricOf_range {p : Power} (noTrip : p.trip = false) (cap : 1600 ≤ p.capFreq) (droop : 1600 ≤ p.droopFreq)
    (warn : 1600 ≤ p.warnFreq) : 1600 ≤ fabricOf p ∧ fabricOf p ≤ p.capFreq := by
  rw [fabricOf_noTrip noTrip]
  split <;> omega

theorem fabricOf_le_cap {p : Power} (h : p.capFreq = 1600) : fabricOf p ≤ 1600 := by
  unfold fabricOf
  split <;> omega

theorem fabricOf_le_inputLow {p : Power} (h : p.inputLow = true) : fabricOf p ≤ 1600 := by
  unfold fabricOf
  rw [h, if_pos rfl]
  split <;> omega

theorem diesOn_iff {s : State} : diesOn s = true ↔ s.boot.powered = true ∧ s.boot.shut = false := by simp [diesOn]

theorem thermOn_of {s : State} (on : diesOn s = true) (stage : s.boot.stage ≠ 1) : thermOn s = true := by simp [thermOn, on, stage]

/-! ### Droop, R372 -/

section
variable {s : State} (on : diesOn s = true)
include on

theorem droop_lowers (fast : 1600 < s.power.fabric) (n : Nat) : droop s n = setPower s { s.power with
    droops := s.power.droops + 1, droopFreq := max 1600 (min s.power.droopFreq s.power.fabric - 25 * n), droopAt := s.now } := by
  simp [droop, on, Nat.not_le.2 fast]

theorem droop_counts (slow : s.power.fabric ≤ 1600) (n : Nat) :
    droop s n = setPower s { s.power with droops := s.power.droops + 1, droopAt := s.now } := by
  simp [droop, on, slow]

theorem droopRecover_raises (active : s.power.droopFreq < 2100) (due : s.power.droopAt + 10 * us ≤ s.now) :
    droopRecover s = setPower s { s.power with droopFreq := min 2100 (s.power.droopFreq + 25), droopAt := s.now } := by
  simp [droopRecover, on, Nat.not_le.2 active, Nat.not_lt.2 due]

end

/-! ### Heat, R375 to R377 -/

section
variable {s : State} {n c : Nat} (on : thermOn s = true)
include on

theorem thermalWarn_first {w : Nat} (threshold : warnAbove n = some w) (hot : w < c) (new : nth 0 s.power.maxC n ≤ w)
    (idle : s.power.warnFreq = 2100) (fast : 1600 ≤ s.power.fabric) (cool : s.power.thermState = 0) :
    thermalWarn s n c = setPower (ptRecord s Code.thermalWarn n) { s.power with
      maxC := s.power.maxC.set n (min 255 c), warns := s.power.warns + 1, thermState := 1, thermSource := n
      warnFreq := max 1600 (min 2100 s.power.fabric - 25), warnAt := s.now } := by
  simp [thermalWarn, on, threshold, Nat.not_le.2 hot, new, warnStep, setTemp, idle, cool, Nat.max_eq_right fast]

theorem thermalWarn_again {w : Nat} (threshold : warnAbove n = some w) (hot : w < c) (known : w < nth 0 s.power.maxC n)
    (active : s.power.warnFreq < 2100) (early : s.now < s.power.warnAt + 100 * us) :
    thermalWarn s n c = setPower s { s.power with maxC := s.power.maxC.set n (min 255 c) } := by
  simp [thermalWarn, on, threshold, Nat.not_le.2 hot, Nat.not_le.2 known, warnStep, setTemp, Nat.not_le.2 active, Nat.not_le.2 early]

theorem thermalTrip_trips (hot : tripAbove n < c) (noTrip : s.power.trip = false) :
    thermalTrip s n c = setPower (ptRecord s Code.thermalTrip n) { s.power with
      maxC := s.power.maxC.set n (min 255 c), trip := true, tripAt := s.now, trips := min 65535 (s.power.trips + 1)
      thermState := 2, thermSource := n } := by
  simp [thermalTrip, on, Nat.not_le.2 hot, setTemp, noTrip]

end

/-- `t` is `s` with other temperatures: what the sensors read after they have cooled is a free choice (log entry 3). -/
def Cooled (s t : State) : Prop := ∃ maxC free, t = { s with power := { s.power with maxC := maxC }, free := free }

theorem Cooled.refl (s : State) : Cooled s s := ⟨_, _, rfl⟩

theorem Cooled.trans {s t u : State} (h : Cooled s t) (k : Cooled t u) : Cooled s u := by
  obtain ⟨_, _, rfl⟩ := h
  obtain ⟨_, _, rfl⟩ := k
  exact ⟨_, _, rfl⟩

theorem Cooled.setPower_eq {s t : State} (h : Cooled s t) (p : Power) : setPower t p =
    { s with power := (setPower t p).power, hosts := (setPower t p).hosts, free := (setPower t p).free } := by
  obtain ⟨_, _, rfl⟩ := h
  unfold setPower
  extract_lets f peak trip str t
  split <;> rfl

theorem Cooled.warnFreq {s t : State} (h : Cooled s t) : t.power.warnFreq = s.power.warnFreq := by
  obtain ⟨_, _, rfl⟩ := h
  rfl

theorem cooled_cooled (s : State) (n th : Nat) : Cooled s (cooled s n th) := by
  unfold cooled
  split
  · exact .refl s
  · exact ⟨_, _, rfl⟩

theorem foldl_cooled (th : Nat → Nat) (l : List Nat) (s : State) : Cooled s (l.foldl (fun s n => cooled s n (th n)) s) := by
  induction l generalizing s with
  | nil => exact .refl s
  | cons n l ih => exact (cooled_cooled s n (th n)).trans (ih _)

section
variable {s : State} (on : diesOn s = true)
include on

theorem thermalRecover_trip (tripped : s.power.trip = true) (due : s.power.tripAt + 100 * ms ≤ s.now) :
    ∃ t, Cooled s t ∧ thermalRecover s = setPower t { t.power with
      trip := false, capFreq := 1600, capLim := true, thermState := if s.power.warnFreq < 2100 then 1 else 0 } :=
  ⟨cooledTrip s, foldl_cooled .., by simp [thermalRecover, on, tripped, Nat.not_lt.2 due]⟩

theorem thermalRecover_warn (noTrip : s.power.trip = false) (active : s.power.warnFreq < 2100) (due : s.power.warnAt + ms ≤ s.now) :
    ∃ t, Cooled s t ∧ thermalRecover s = setPower t { t.power with
      warnFreq := min 2100 (s.power.warnFreq + 25), warnAt := s.now, thermState := if s.power.warnFreq + 25 < 2100 then 1 else 0 } :=
  ⟨cooledWarn s, foldl_cooled .., by simp [thermalRecover, on, noTrip, active, Nat.not_lt.2 due]⟩

end

/-! ### The input, R379 -/

section
variable {s : State} {dv : Nat} (powered : s.boot.powered = true)
include powered

theorem inputLow_limits (low : 360 ≤ dv) (under : dv < 400) (first : s.power.inputLow = false) :
    inputLow s dv = setPower (ptRecord { s with cap := { s.cap with inputDv := dv } } Code.inputLow 0)
      { s.power with inputLow := true } := by
  simp [inputLow, powered, Nat.not_lt.2 low, Nat.not_le.2 under, first]

theorem inputRestored_releases (enough : 400 ≤ dv) :
    inputRestored s dv = setPower { s with cap := { s.cap with inputDv := dv } } { s.power with inputLow := false } := by
  simp [inputRestored, powered, Nat.not_lt.2 enough]

end

/-! ### The obligation -/

theorem exec_droop (n : Fin 5) (s : State) : exec (.droop n) s = .next (droop s n) := rfl

theorem exec_droopRecover (s : State) : exec .droopRecover s = .next (droopRecover s) := rfl

theorem exec_thermalWarn (src : Sensor) (c : Nat) (s : State) : exec (.thermalWarn src c) s = .next (thermalWarn s (sensorNo src) c) := rfl

theorem exec_thermalTrip (src : Sensor) (c : Nat) (s : State) : exec (.thermalTrip src c) s = .next (thermalTrip s (sensorNo src) c) := rfl

theorem exec_thermalRecover (s : State) : exec .thermalRecover s = .next (thermalRecover s) := rfl

theorem exec_inputLow (dv : BitVec 12) (s : State) : exec (.inputLow dv) s = .next (inputLow s dv.toNat) := rfl

theorem exec_inputRestored (dv : BitVec 12) (s : State) : exec (.inputRestored dv) s = .next (inputRestored s dv.toNat) := rfl

/-- Settles O15: every limiter's command is a change of the power state by `setPower`, on the state with its record where it makes one. -/
theorem clockInForce : Obligations.ClockInForce := by
  refine ⟨fun s p => ⟨setPower_fabric s p, fun tripped => ?_, fun noTrip cap droop warn => ?_, ?_, ?_⟩,
    fun s n src c dv powered shut => ?_⟩
  · rw [setPower_fabric, fabricOf_trip tripped]
  · rw [setPower_fabric]
    exact fabricOf_range noTrip cap droop warn
  · rw [setPower_hosts]
    exact if_congr powerSigns_eq_iff rfl rfl
  · rw [setPower_eq, setPower_power]
  · have on : diesOn s = true := diesOn_iff.2 ⟨powered, shut⟩
    refine ⟨fun fast => ends_eq ?_, fun slow => ends_eq ?_, fun active due => ends_eq ?_,
      fun w threshold stage hot new idle fast cool => ends_eq ?_, fun w threshold stage hot known active early => ends_eq ?_,
      fun stage hot noTrip => ⟨_, exec_thermalTrip .., ?_⟩, fun tripped due => ⟨_, exec_thermalRecover s, ?_⟩,
      fun noTrip active due => ⟨_, exec_thermalRecover s, ?_⟩, fun low under first => ⟨_, exec_inputLow .., ?_⟩, fun enough => ends_eq ?_⟩
    · rw [exec_droop, droop_lowers on fast]
    · rw [exec_droop, droop_counts on slow]
    · rw [exec_droopRecover, droopRecover_raises on active due]
    · rw [exec_thermalWarn, thermalWarn_first (thermOn_of on stage) threshold hot new idle fast cool]
      rfl
    · rw [exec_thermalWarn, thermalWarn_again (thermOn_of on stage) threshold hot known active early]
    · rw [thermalTrip_trips (thermOn_of on stage) hot noTrip]
      exact ⟨rfl, by rw [setPower_fabric, fabricOf_trip rfl]⟩
    · obtain ⟨t, cool, recovers⟩ := thermalRecover_trip on tripped due
      refine recovers ▸ ⟨?_, ?_, ?_, ?_, cool.setPower_eq _⟩
      · rw [setPower_power]
      · rw [setPower_power]
      · rw [setPower_fabric]; exact fabricOf_le_cap rfl
      · rw [setPower_power]; exact cool.warnFreq
    · obtain ⟨t, cool, recovers⟩ := thermalRecover_warn on noTrip active due
      refine recovers ▸ ⟨?_, ?_, cool.setPower_eq _⟩
      · rw [setPower_power]
      · rw [setPower_power]
    · rw [inputLow_limits powered low under first]
      exact ⟨rfl, by rw [setPower_fabric]; exact fabricOf_le_inputLow rfl⟩
    · rw [exec_inputRestored, inputRestored_releases powered enough]

end Sys2Proof.Machine
end

section
/-! PROOF. The reference clocks, coolant and the input (R361, R362, R374, R379), and O16. -/

namespace Sys2Proof.Machine

theorem refclkLost_records {s : State} (locked : s.power.refMgmt = true) (powered : s.boot.powered = true) :
    refclkLost s = setPower (ptRecord s Code.refclkLost 0) { s.power with refMgmt := false, holdover := true } := by
  simp [refclkLost, locked, powered]

theorem coolantOk_iff {inlet flow : Nat} : coolantOk inlet flow = true ↔ 200 ≤ inlet ∧ inlet ≤ 400 ∧ 200 ≤ flow := by
  simp [coolantOk, and_assoc]

section
variable {s : State} {inlet flow : Nat} (powered : s.boot.powered = true)
include powered

theorem coolantOut_records (bad : ¬ (200 ≤ inlet ∧ inlet ≤ 400 ∧ 200 ≤ flow)) (outlet : Nat) :
    coolantOut s inlet outlet flow = setPower (ptRecord s Code.coolantOutOfRating 0)
      { s.power with inlet := inlet, outlet := outlet, flow := flow, inRating := false } := by
  simp [coolantOut, powered, mt coolantOk_iff.1 bad]

theorem coolantIn_rates (good : 200 ≤ inlet ∧ inlet ≤ 400 ∧ 200 ≤ flow) (outlet : Nat) :
    coolantIn s inlet outlet flow = setPower s { s.power with inlet := inlet, outlet := outlet, flow := flow, inRating := true } := by
  simp [coolantIn, powered, coolantOk_iff.2 good]

theorem inputHigh_records {dv : Nat} (high : 600 < dv) :
    inputHigh s dv = ptRecord { s with cap := { s.cap with inputDv := dv } } Code.inputHigh 0 := by
  simp [inputHigh, powered, Nat.not_le.2 high]

end

theorem exec_refclkLost (s : State) : exec .refclkLost s = .next (refclkLost s) := rfl

theorem exec_coolantOutOfRating (inlet outlet flow : BitVec 12) (s : State) :
    exec (.coolantOutOfRating inlet outlet flow) s = .next (coolantOut s inlet.toNat outlet.toNat flow.toNat) := rfl

theorem exec_coolantInRating (inlet outlet flow : BitVec 12) (s : State) :
    exec (.coolantInRating inlet outlet flow) s = .next (coolantIn s inlet.toNat outlet.toNat flow.toNat) := rfl

theorem exec_inputHigh (dv : BitVec 12) (s : State) : exec (.inputHigh dv) s = .next (inputHigh s dv.toNat) := rfl

/-- Settles O16: a reference that is lost or returns is a change of the power state, as coolant is; a lost one also takes its links down. -/
theorem referenceClocksAndSupply : Obligations.ReferenceClocksAndSupply := by
  refine ⟨fun s h => ⟨fun locked powered => ⟨_, exec_refclkLost s, ?_⟩, ends_eq rfl, ends_eq rfl, ends_eq rfl, ends_eq rfl, ends_eq rfl⟩,
    fun s inlet outlet flow dv powered => ⟨fun bad => ends_eq ?_, fun good => ends_eq ?_, fun high => ends_eq ?_, fun code k => ?_⟩⟩
  · rw [refclkLost_records locked powered, setPower_eq, setPower_power, ptRecord_eq]
    exact ⟨rfl, rfl, rfl, rfl, rfl⟩
  · rw [exec_coolantOutOfRating, coolantOut_records powered bad]; rfl
  · rw [exec_coolantInRating, coolantIn_rates powered good]
  · rw [exec_inputHigh, inputHigh_records powered high]; rfl
  · rw [ptRecord_eq]

end Sys2Proof.Machine
end

section
/-! PROOF. The power cap (R366 to R371): a write of PWR_CAP, its timeout, FAST_CAP and the control loop, one lemma for each outcome, and
O17. -/

namespace Sys2Proof.Machine

@[simp] theorem notePwr_power (s : State) (code : Status) : (notePwr s code).power = s.power := by rw [notePwr_eq]

/-! ### Requested caps, R367, R368 -/

theorem capTaken_range (q : Nat) : 1350 ≤ capTaken q ∧ capTaken q ≤ 1900 ∧ (1350 ≤ q → q ≤ 1900 → capTaken q = q) := by
  unfold capTaken
  omega

/-- R367: neither request below 1,350 W, and neither above 1,900 W. -/
abbrev NoneLow (c : PwrCap) : Prop := 1350 ≤ c.cap ∧ 1350 ≤ c.armed
abbrev NoneHigh (c : PwrCap) : Prop := c.cap ≤ 1900 ∧ c.armed ≤ 1900

/-- The registers after a request: DENIED and CLAMPED follow it, and `n` denials are counted. -/
def PwrCap.judged (c : PwrCap) (n : Nat) : PwrCap :=
  { c with
    denied := decide (c.cap < 1350) || decide (c.armed < 1350), clamped := decide (1900 < c.cap) || decide (1900 < c.armed)
    denials := c.denials + n }

theorem capRequested_eq (s : State) (c : PwrCap) (n : Nat) : capRequested s c n =
    { s with cap := c.judged n, recs := (capRequested s c n).recs, mgmt := (capRequested s c n).mgmt } := by
  unfold capRequested
  extract_lets low high s1 s2
  have recorded : s2 = { s with cap := c.judged n, recs := s2.recs, mgmt := s2.mgmt } := by
    unfold s2
    split
    · rw [notePwr_eq]; rfl
    · rfl
  split
  · rw [notePwr_eq, recorded]
  · exact recorded

section
variable {s : State} {c : PwrCap} {n : Nat}

theorem capRequested_clean (high : NoneHigh c) : capRequested s c 0 = { s with cap := c.judged 0 } := by
  have := high.1
  have := high.2
  simp [capRequested, PwrCap.judged, *]

theorem capRequested_denied (some_low : 0 < n) (high : NoneHigh c) :
    capRequested s c n = notePwr { s with cap := c.judged n } Code.capDenied := by
  simp [capRequested, PwrCap.judged, some_low, Nat.not_lt.2 high.1, Nat.not_lt.2 high.2]

theorem capRequested_clamped (high : ¬ NoneHigh c) : capRequested s c 0 = notePwr { s with cap := c.judged 0 } Code.capClamped := by
  have above : (decide (1900 < c.cap) || decide (1900 < c.armed)) = true := by simpa [NoneHigh, imp_iff_not_or] using high
  simp [capRequested, PwrCap.judged, above]

end

theorem PwrCap.judged_clean {c : PwrCap} (low : NoneLow c) (high : NoneHigh c) : c.judged 0 = { c with denied := false, clamped := false } := by
  simp [PwrCap.judged, Nat.not_lt.2 low.1, Nat.not_lt.2 low.2, Nat.not_lt.2 high.1, Nat.not_lt.2 high.2]

theorem capRequested_in_range {c : PwrCap} (low : NoneLow c) (high : NoneHigh c) (s : State) :
    capRequested s c 0 = { s with cap := { c with denied := false, clamped := false } } := by
  rw [capRequested_clean high, PwrCap.judged_clean low high]

/-- Table 16.6: the registers after a write of `w` to PWR_CAP. -/
def PwrCap.written (c : PwrCap) (w now : Nat) : PwrCap :=
  { c with
    cap := w % 2 ^ 12, armed := w / 2 ^ 16 % 2 ^ 12, timeoutMs := w / 2 ^ 32 % 2 ^ 16, fallback := w / 2 ^ 48 % 2 ^ 12
    lastWrite := now, fellBack := false }

/-- The requests of a write that are below 1,350 W. -/
def PwrCap.lows (c : PwrCap) : Nat := (if c.cap < 1350 then 1 else 0) + if c.armed < 1350 then 1 else 0

theorem PwrCap.lows_eq_zero {c : PwrCap} (low : NoneLow c) : c.lows = 0 := by
  simp [PwrCap.lows, Nat.not_lt.2 low.1, Nat.not_lt.2 low.2]

theorem PwrCap.lows_pos {c : PwrCap} (low : c.cap < 1350) : 0 < c.lows := by
  rw [PwrCap.lows, if_pos low]
  omega

theorem pwrCapWrite_eq (s : State) (v : Word) :
    pwrCapWrite s v = capRequested s (s.cap.written v.toNat s.now) (s.cap.written v.toNat s.now).lows := by
  simp only [pwrCapWrite, bits_low]
  rfl

theorem capTimeout_falls_back {s : State} (powered : s.boot.powered = true) (armed : s.cap.timeoutMs ≠ 0) (first : s.cap.fellBack = false)
    (due : s.cap.lastWrite + s.cap.timeoutMs * ms ≤ s.now) (low : 1350 ≤ s.cap.fallback) :
    capTimeout s = capRequested (notePwr s Code.capTimeout) { s.cap with cap := s.cap.fallback, fellBack := true } 0 := by
  simp [capTimeout, powered, armed, first, Nat.not_lt.2 due, Nat.not_lt.2 low]

/-! ### The control loop, R369, and FAST_CAP, R370 -/

theorem capHighest_eq {r : PowerReading} {cap n k : Nat} (below : k < n) (fits : capFits r cap k = true)
    (highest : ∀ m < n, k < m → capFits r cap m = false) : capHighest r cap n = 1600 + 25 * k := by
  have split : List.range n = List.range (k + 1) ++ (List.range (n - (k + 1))).map (k + 1 + ·) := by
    rw [← List.range_add, Nat.add_sub_cancel' below]
  have none_above : ((List.range (n - (k + 1))).map (k + 1 + ·)).filter (capFits r cap) = [] := by
    simp only [List.filter_eq_nil_iff, List.mem_map, List.mem_range, Bool.not_eq_true]
    rintro _ ⟨m, hm, rfl⟩
    exact highest _ (by omega) (by omega)
  have last : ((List.range n).filter (capFits r cap)).getLast? = some k := by
    rw [split, List.filter_append, none_above, List.append_nil, List.range_succ, List.filter_append]
    simp [fits]
  rw [capHighest, last, Option.getD_some]

theorem capFits_iff {r : PowerReading} {cap k : Nat} : capFits r cap k = true ↔ nth 0 r.predicted k * 100 ≤ cap * 98 := by
  simp [capFits]

section
variable {s : State} {r : PowerReading}

/-- R369: an evaluation that is due measures, and sets what `capNext` gives. -/
theorem capLoop_due (on : diesOn s = true) (due : s.cap.evalAt = none ∨ ∃ e, s.cap.evalAt = some e ∧ e + 20 * us ≤ s.now) :
    capLoop s r = setPower { s with cap := { measured s r with inForce := capInForce s.cap } } { s.power with
      capFreq := capNext s r (capInForce s.cap), capLim := decide (capNext s r (capInForce s.cap) < 2100) } := by
  rcases due with never | ⟨e, last, due⟩
  · simp [capLoop, on, never]
  · simp [capLoop, on, last, due]

variable {cap : Nat}

theorem capNext_lowers (above : cap < r.mean ∨ cap < nth 0 r.predicted (stepOf s.power.fabric)) :
    capNext s r cap = capHighest r cap (stepOf s.power.fabric) := by
  simp [capNext, above]

section
variable (mean : r.mean ≤ cap) (now : nth 0 r.predicted (stepOf s.power.fabric) ≤ cap)
include mean now

theorem capNext_raises (limited : s.power.capFreq < 2100) (fits : capFits r cap (stepOf s.power.capFreq + 1) = true) :
    capNext s r cap = s.power.capFreq + 25 := by
  simp [capNext, Nat.not_lt.2 mean, Nat.not_lt.2 now, limited, fits]

theorem capNext_keeps (full : capFits r cap (stepOf s.power.capFreq + 1) = false) : capNext s r cap = s.power.capFreq := by
  simp [capNext, Nat.not_lt.2 mean, Nat.not_lt.2 now, full]

end

theorem fastCapStep_ready (ready : isReady s = true) (first : s.cap.fastcap = false) :
    let low := min (capTaken s.cap.cap) (capTaken s.cap.armed)
    fastCapStep s r = setPower
      (notePwr { s with cap := { s.cap with fastcap := true, inForce := low, steps := s.cap.steps + 1 } } Code.fastCapStep)
      { s.power with
        capFreq := min s.power.capFreq (capHighest r low 21), capLim := decide (min s.power.capFreq (capHighest r low 21) < 2100) } := by
  have powered : s.boot.powered = true := by
    simp only [isReady, Bool.and_eq_true] at ready
    exact ready.1.1
  have still (c : PwrCap) : isReady { s with cap := c } = true := ready
  simp [fastCapStep, powered, first, still, capInForce]

end

theorem exec_pwrCapWrite (v : Word) (s : State) : exec (.pwrCapWrite v) s = .next (if s.boot.powered then pwrCapWrite s v else s) := rfl

theorem exec_capTimeout (s : State) : exec .capTimeout s = .next (capTimeout s) := rfl

theorem exec_capLoopEvaluation (r : PowerReading) (s : State) : exec (.capLoopEvaluation r) s = .next (capLoop s r) := rfl

theorem exec_fastCapStep (r : PowerReading) (s : State) : exec (.fastCapStep r) s = .next (fastCapStep s r) := rfl

theorem exec_fastcapRelease (s : State) : exec .fastcapRelease s = .next (if s.cap.fastcap then
    { s with cap := { s.cap with fastcap := false, inForce := capTaken s.cap.cap } } else s) := rfl

/-- Settles O17: a request is judged by `capRequested`; the loop sets `capNext`, and a fast-cap step the highest step that fits. -/
theorem powerCaps : Obligations.PowerCaps := by
  refine ⟨fun s v powered => ⟨capTaken_range, fun _ => rfl, ⟨pwrCapWrite s v, ?_, ?_⟩,
      fun armed first due armedLow armedHigh low high => ends_eq ?_, fun asserted => ends_eq ?_⟩,
    fun s r powered shut _ due => ?_⟩
  · rw [exec_pwrCapWrite, if_pos powered]
  · have write := pwrCapWrite_eq s v
    refine write ▸ ⟨by rw [capRequested_eq]; rfl, fun capLow armedLow capHigh armedHigh => ?_, fun capLow capHigh armedHigh => ?_,
      fun capLow armedLow capHigh => ?_, by rw [capRequested_eq]⟩
    · rw [PwrCap.lows_eq_zero ⟨capLow, armedLow⟩, capRequested_clean ⟨capHigh, armedHigh⟩]
    · rw [capRequested_denied (PwrCap.lows_pos capLow) ⟨capHigh, armedHigh⟩, notePwr_eq]
      rfl
    · rw [PwrCap.lows_eq_zero ⟨capLow, armedLow⟩, capRequested_clamped fun high => Nat.not_lt.2 high.1 capHigh, notePwr_eq]
      rfl
  · rw [exec_capTimeout, capTimeout_falls_back powered armed first due low]
    exact congrArg _ (capRequested_in_range (c := { s.cap with cap := s.cap.fallback, fellBack := true }) ⟨low, armedLow⟩ ⟨high, armedHigh⟩ _)
  · rw [exec_fastcapRelease, if_pos asserted]
  · have evaluated := capLoop_due (r := r) (diesOn_iff.2 ⟨powered, shut⟩) due
    refine ⟨fun n below above fits highest => ⟨_, exec_capLoopEvaluation r s, ?_⟩,
      fun mean now limited fits => ⟨_, exec_capLoopEvaluation r s, ?_⟩, fun mean now full => ⟨_, exec_capLoopEvaluation r s, ?_⟩,
      fun ready first n below fits highest => ⟨_, exec_fastCapStep r s, ?_⟩⟩
    · have sets : capNext s r (capInForce s.cap) = 1600 + 25 * n := by
        rw [capNext_lowers above]
        exact capHighest_eq below (capFits_iff.2 fits) fun m hm hn => Bool.eq_false_iff.2 (mt capFits_iff.1 (highest m hm hn))
      rw [evaluated, sets, setPower_eq, setPower_power]
      exact ⟨rfl, rfl, rfl, rfl, rfl⟩
    · rw [evaluated, capNext_raises mean now limited (capFits_iff.2 fits), setPower_eq, setPower_power]
      exact ⟨rfl, rfl, rfl⟩
    · show (capLoop s r).power.capFreq = _
      rw [evaluated, capNext_keeps mean now (Bool.eq_false_iff.2 (mt capFits_iff.1 full)), setPower_power]
    · rw [fastCapStep_ready ready first,
        capHighest_eq below (capFits_iff.2 fits) fun m hm hn => Bool.eq_false_iff.2 (mt capFits_iff.1 (highest m hm hn)),
        setPower_eq, setPower_power, notePwr_eq]
      exact ⟨rfl, rfl, rfl, rfl⟩

end Sys2Proof.Machine
end

section
/-! PROOF. Power-up, the loss of power and bring-up (R385 to R390, R395, R440): which firmware copy boots, what a change of STAGE and a
host port's reset write, and O18 and O20. -/

namespace Sys2Proof.Machine

/-! ### The firmware copy that boots, R388 -/

section
variable {s : State} {onB : Bool}

theorem copyVersion_accepted {k : Nat × BitVec 32} (holds : nth none s.fw.copies (if onB then 1 else 0) = some k)
    (recent : s.fw.fusedMin ≤ k.1) : copyVersion s onB = some k.1 := by
  simp [copyVersion, holds, recent]

theorem copyVersion_old {k : Nat × BitVec 32} (holds : nth none s.fw.copies (if onB then 1 else 0) = some k)
    (old : k.1 < s.fw.fusedMin) : copyVersion s onB = none := by
  simp [copyVersion, holds, Nat.not_le.2 old]

theorem copyVersion_empty (empty : nth none s.fw.copies (if onB then 1 else 0) = none) : copyVersion s onB = none := by
  simp [copyVersion, empty]

end

section
variable {s : State} {a b : Nat × BitVec 32}

theorem bootCopy_higher (holds : s.fw.copies = [some a, some b]) (recentA : s.fw.fusedMin ≤ a.1) (recentB : s.fw.fusedMin ≤ b.1) :
    bootCopy s = some (decide (a.1 < b.1)) := by
  rw [bootCopy, copyVersion_accepted (k := a) (by rw [holds]; rfl) recentA, copyVersion_accepted (k := b) (by rw [holds]; rfl) recentB]

theorem bootCopy_onlyB (holds : s.fw.copies = [none, some b]) (recent : s.fw.fusedMin ≤ b.1) : bootCopy s = some true := by
  rw [bootCopy, copyVersion_empty (by rw [holds]; rfl), copyVersion_accepted (k := b) (by rw [holds]; rfl) recent]

theorem bootCopy_tooOld (holds : s.fw.copies = [some a, none]) (old : a.1 < s.fw.fusedMin) : bootCopy s = none := by
  rw [bootCopy, copyVersion_old (k := a) (by rw [holds]; rfl) old, copyVersion_empty (by rw [holds]; rfl)]

end

/-! ### Stages, R385, R390 -/

theorem setStage_changes {s : State} {n : Nat} (h : s.boot.stage ≠ n) :
    setStage s n = { s with boot := { s.boot with stage := n }, mgmt := { s.mgmt with alerts := s.mgmt.alerts + 1 } } := if_neg h

/-- R385: the state once the pins have been read and the power counted. -/
def pinsRead (s : State) (x : Straps) : State :=
  { s with
    boot := { s.boot with powered := true, modEn := true, cold := s.boot.cold + 1 }
    panel := { s.panel with split0 := x.split0, split1 := x.split1 }
    mgmt := { s.mgmt with addr := x.mgmtAddr.val, smbus := x.smbus, dynAddr := none } }

section
variable {s : State} (off : s.boot.powered = false) (rom : s.boot.stage = 1) (x : Straps)
include off rom

theorem coldPowerUp_boots {onB : Bool} (boots : bootCopy s = some onB) : coldPowerUp s x = { pinsRead s x with
    boot := { (pinsRead s x).boot with stage := 3, copyB := onB }
    mgmt := { (pinsRead s x).mgmt with alerts := s.mgmt.alerts + 2 } } := by
  have same : bootCopy (pinsRead s x) = some onB := boots
  simp only [pinsRead] at same
  simp only [coldPowerUp, off, Bool.false_eq_true, if_false, same]
  rw [setStage_changes (n := 2) (by simp [rom]), setStage_changes (n := 3) (by simp)]
  rfl

theorem coldPowerUp_fails (none_boots : bootCopy s = none) : coldPowerUp s x = { pinsRead s x with
    boot := { (pinsRead s x).boot with stage := 5, cause := 1 }
    mgmt := { (pinsRead s x).mgmt with alerts := s.mgmt.alerts + 1 } } := by
  have same : bootCopy (pinsRead s x) = none := none_boots
  simp only [pinsRead] at same
  simp only [coldPowerUp, off, Bool.false_eq_true, if_false, same]
  rw [setStage_changes (n := 5) (by simp [rom])]
  rfl

end

/-! ### The loss of power, R379, R395, R440 -/

theorem exec_coldPowerUp (x : Straps) (s : State) : exec (.coldPowerUp x) s = .next (coldPowerUp s x) := rfl

theorem exec_modEnDeassert (s : State) : exec .modEnDeassert s =
    .next (if s.boot.modEn then powerOff { s with boot := { s.boot with modEn := false } } else s) := rfl

theorem exec_inputLoss (s : State) : exec .inputLoss s = .next (if s.boot.powered then powerOff s else s) := rfl

theorem exec_brownOut (s : State) : exec .brownOut s = .next (brownOut s) := rfl

/-- R379: a brown-out leaves its record, or does not (log entry 3). -/
theorem brownOut_cases {s : State} (powered : s.boot.powered = true) :
    brownOut s = powerOff { s with free := s.free + 1 } ∨ brownOut s = powerOff (notePwr { s with free := s.free + 1 } Code.brownOut) := by
  simp only [brownOut, powered, Bool.not_true, Bool.false_eq_true, if_false]
  by_cases recorded : (choose s 2).1 = 1
  · rw [if_pos recorded]
    exact .inr rfl
  · rw [if_neg recorded]
    exact .inl rfl

/-- R194: the directory that outlives the power has no image of KIND 2. -/
theorem powerOff_dir (s : State) : (powerOff s).sep.dir = s.sep.dir.filter fun e => e.2.kind ≠ 2 := by
  refine List.filter_congr fun e _ => ?_
  rw [Bool.eq_iff_iff, bne_iff_ne, decide_eq_true_iff]

/-- Settles O18: what boots is `bootCopy`; every loss of power is `powerOff`. -/
theorem powerUpAndLoss : Obligations.PowerUpAndLoss := by
  refine ⟨fun s x a b off rom => ⟨fun holds recentA recentB => ends_eq ?_, fun holds recent => ends_eq ?_, fun holds old => ends_eq ?_⟩,
    fun s => ⟨fun enabled => ends_eq ?_, fun powered => ends_eq ?_, fun powered => ⟨_, exec_brownOut s, brownOut_cases powered⟩, ?_⟩⟩
  · rw [exec_coldPowerUp, coldPowerUp_boots off rom x (bootCopy_higher holds recentA recentB)]
    rfl
  · rw [exec_coldPowerUp, coldPowerUp_boots off rom x (bootCopy_onlyB holds recent)]
    rfl
  · rw [exec_coldPowerUp, coldPowerUp_fails off rom x (bootCopy_tooOld holds old)]
    rfl
  · rw [exec_modEnDeassert, if_pos enabled]
  · rw [exec_inputLoss, if_pos powered]
  · exact ⟨rfl, rfl, rfl, rfl, rfl, rfl, rfl, rfl, rfl, rfl, rfl, rfl, rfl, rfl, rfl, rfl, rfl, rfl, rfl, rfl, powerOff_dir s, rfl, rfl, rfl⟩

/-! ### READY and FAILED, R389, R390 -/

theorem settleWarm_training {s : State} (training : s.boot.stage = 3) : settleWarm s = s := by simp [settleWarm, training]

section
variable {s : State} (powered : s.boot.powered = true) (alive : s.boot.shut = false) (training : s.boot.stage = 3)
include powered alive training

theorem bringsUp_training : bringsUp s = true := by simp [bringsUp, powered, alive, training]

/-- The security version of the copy that booted: the fused minimum follows it (R389). -/
def bootedMin (s : State) : Nat :=
  max s.fw.fusedMin (((nth none s.fw.copies (if s.boot.copyB then 1 else 0)).map Prod.fst).getD 0)

theorem ready_publishes (staying : s.panel.removal = 0) (healthy : s.ras.failedStacks = 0) :
    ready s = publish { s with
      fw := { s.fw with fusedMin := bootedMin s }
      boot := { s.boot with stage := 4, readyMs := (s.now - s.boot.startAt) / ms }
      mgmt := { s.mgmt with alerts := s.mgmt.alerts + 1 } } := by
  simp only [ready, bringsUp_training powered alive training, staying, healthy, settleWarm_training training]
  rw [setStage_changes (by simp [training])]
  rfl

theorem bringupFailed_ends {c : Nat} (fails : 2 ≤ c) (other : c ≠ 5) : bringupFailed s c =
    { s with boot := { s.boot with stage := 5, cause := c }, mgmt := { s.mgmt with alerts := s.mgmt.alerts + 1 } } := by
  simp only [bringupFailed, bringsUp_training powered alive training, settleWarm_training training, causeOk, training, fails,
    other]
  rw [setStage_changes (by simp [training])]
  rfl

theorem bringupFailed_stack (failed : s.ras.failedStacks ≠ 0) : (bringupFailed s 5).boot =
    { s.boot with stage := 5, cause := 5, stackFail := s.ras.failedStacks } := by
  simp only [bringupFailed, bringsUp_training powered alive training, settleWarm_training training, causeOk, training, failed]
  rw [setStage_changes (by simp [choose, training])]
  rfl

end

/-! ### PERST of a host port, R386, R339 -/

theorem msixSend_present (now : Nat) (h : HostSlot) (v : Nat) : (msixSend now h v).present = h.present := by
  unfold msixSend
  extract_lets e last waited
  split <;> rfl

theorem msixRaise_present (now : Nat) (h : HostSlot) (v : Nat) : (msixRaise now h v).present = h.present := by
  unfold msixRaise
  split
  · exact msixSend_present ..
  · rfl

theorem getHost_interrupt (s : State) (v n : Nat) : getHost (interrupt s v) n = msixRaise s.now (getHost s n) v := by
  have absent : msixRaise s.now {} v = {} := rfl
  simp only [getHost, interrupt, nth, List.getD_eq_getElem?_getD, List.getElem?_map]
  cases s.hosts[n]? with
  | none => exact absent.symm
  | some h => rfl

theorem endOwner_eq (s : State) : endOwner s = { s with own := (endOwner s).own, hosts := (endOwner s).hosts } := by
  unfold endOwner
  split <;> rfl

theorem endOwner_present (s : State) (n : Nat) : (getHost (endOwner s) n).present = (getHost s n).present := by
  unfold endOwner
  split
  · rw [getHost_interrupt, msixRaise_present]
    rfl
  · rfl

theorem endOwner_length (s : State) : (endOwner s).hosts.length = s.hosts.length := by
  unfold endOwner
  split
  · exact List.length_map _
  · rfl

/-- What `slotLinkDown` leaves of a present slot. -/
def HostSlot.linkLost (h : HostSlot) : HostSlot :=
  { h with present := false, width := 0, rate := 0, buf := [], lost := h.lost + BitVec.ofNat 32 h.buf.length }

theorem slotLinkDown_present {s : State} {n : Nat} (h : (getHost s n).present = true) : slotLinkDown s n =
    let t := setHost s n (getHost s n).linkLost
    if isOwner t n then endOwner t else t := by
  simp only [slotLinkDown, h]
  rfl

theorem slotLinkDown_absent {s : State} {n : Nat} (h : (getHost s n).present = false) : slotLinkDown s n = s := by
  simp [slotLinkDown, h]

/-- What a slot's link that goes down may write, and what it leaves of the slots' links. -/
structure LinkDown (s t : State) (n : Nat) : Prop where
  rest : t = { s with hosts := t.hosts, own := t.own }
  slots : t.hosts.length = s.hosts.length
  down : (getHost t n).present = false
  others : ∀ m, m ≠ n → (getHost t m).present = (getHost s m).present

theorem linkDown_slotLinkDown {s : State} {n : Nat} (known : n < s.hosts.length) : LinkDown s (slotLinkDown s n) n := by
  cases present : (getHost s n).present with
  | false => rw [slotLinkDown_absent present]; exact ⟨rfl, rfl, present, fun _ _ => rfl⟩
  | true =>
    rw [slotLinkDown_present present]
    have lost : LinkDown s (setHost s n (getHost s n).linkLost) n :=
      ⟨rfl, List.length_set .., by rw [getHost_setHost known]; rfl, fun m h => by rw [getHost_setHost_ne h.symm]⟩
    dsimp only
    split
    · exact ⟨by rw [endOwner_eq]; rfl, (endOwner_length _).trans lost.slots, (endOwner_present ..).trans lost.down,
        fun m h => (endOwner_present ..).trans (lost.others m h)⟩
    · exact lost

/-- R386: a slot with its configuration space reset. -/
def HostSlot.unconfigured (h : HostSlot) : HostSlot := { h with msix := [], pba := 0, sentAt := [] }

theorem perst_asserted (s : State) (p : Nat) : perst s p true =
    let t := slotLinkDown (slotLinkDown { s with boot := { s.boot with perst := s.boot.perst.set p true } } (2 * p)) (2 * p + 1)
    let u := setHost t (2 * p) (getHost t (2 * p)).unconfigured
    setHost u (2 * p + 1) (getHost u (2 * p + 1)).unconfigured := rfl

/-- Both slots of a port whose links are down lose their configuration space. -/
theorem port_unconfigured {t : State} {a b : Nat} (hab : a ≠ b) (ha : a < t.hosts.length) (hb : b < t.hosts.length)
    (downA : (getHost t a).present = false) (downB : (getHost t b).present = false) {n : Nat} (hn : n = a ∨ n = b) :
    let u := setHost t a (getHost t a).unconfigured
    let v := setHost u b (getHost u b).unconfigured
    (getHost v n).present = false ∧ (getHost v n).pba = 0 ∧ (getHost v n).msix = [] := by
  intro u v
  have hbu : b < u.hosts.length := by simpa [u, setHost] using hb
  rcases hn with rfl | rfl
  · rw [getHost_setHost_ne hab.symm, getHost_setHost ha]
    exact ⟨downA, rfl, rfl⟩
  · rw [getHost_setHost hbu, getHost_setHost_ne hab]
    exact ⟨downB, rfl, rfl⟩

theorem exec_ready (s : State) : exec .ready s = .next (ready s) := rfl

theorem exec_bringupFailed (cause : Fin 8) (s : State) : exec (.bringupFailed cause) s = .next (bringupFailed s cause) := rfl

theorem exec_perst (p : Fin 2) (asserted : Bool) (s : State) : exec (.perst p asserted) s = .next (perst s p asserted) := rfl

theorem exec_vatZeroComplete (s : State) : exec .vatZeroComplete s = .next (vatZeroComplete s) := rfl

theorem vatZeroComplete_ready {s : State} (powered : s.boot.powered = true) (alive : s.boot.shut = false) (ready : s.boot.stage = 4)
    (zeroing : s.boot.vatZeroed = false) : vatZeroComplete s =
      recheckAll (kickMoves { s with boot := { s.boot with vatZeroed := true, vatEarly := [] } }) := by
  simp [vatZeroComplete, powered, alive, ready, zeroing]

/-- Settles O20: READY ends in `publish`, a failed item in a change of STAGE; PERST takes both links of its port down and resets both
configuration spaces. -/
theorem bringUp : Obligations.BringUp := by
  refine fun s cause p powered alive => ⟨fun training staying healthy => ⟨_, exec_ready s, ?_⟩,
    fun training fails other => ⟨_, exec_bringupFailed cause s, ?_⟩,
    fun training failed => ⟨_, exec_bringupFailed 5 s, bringupFailed_stack powered alive training failed⟩, ends_eq rfl,
    fun slots => ⟨_, exec_perst p true s, ?_⟩, fun stage zeroing => ends_eq ?_⟩
  · rw [ready_publishes powered alive training staying healthy]
    refine ⟨?_, rfl, fun k booted => ?_, rfl, rfl, rfl, rfl, rfl⟩
    · simp [isReady, publish, interrupt, powered, alive]
    · show { s.fw with fusedMin := bootedMin s } = _
      rw [bootedMin, booted]
      rfl
  · rw [bringupFailed_ends powered alive training fails other]
  · have hp : p.val < 2 := p.isLt
    have first := linkDown_slotLinkDown (s := { s with boot := { s.boot with perst := s.boot.perst.set p.val true } }) (n := 2 * p.val)
      (by simp only [slots]; omega)
    have second := linkDown_slotLinkDown (n := 2 * p.val + 1) (by rw [first.slots]; simp only [slots]; omega)
    have slots' := second.slots.trans (first.slots.trans slots)
    have still := (second.others (2 * p.val) (by omega)).trans first.down
    refine ⟨fun n port => port_unconfigured (a := 2 * p.val) (b := 2 * p.val + 1) (by omega) (by omega) (by omega) still second.down
      (by omega), ?_, ?_⟩
    · rw [perst_asserted]
      simp only [setHost_boot]
      rw [second.rest, first.rest]
    · rw [perst_asserted]
      simp only [setHost]
      rw [second.rest, first.rest]
  · rw [exec_vatZeroComplete, vatZeroComplete_ready powered alive stage zeroing]

end Sys2Proof.Machine
end

section
/-! PROOF. Firmware updates (R434): one lemma for each outcome of an operation of FW_CTRL, and O21. -/

namespace Sys2Proof.Machine

section
variable {s : State} (powered : s.boot.powered = true) (ready : s.boot.stage = 4)
include powered ready

theorem fwBegin_opens {size : Nat} (free : s.fw.active = false) (words : size % 8 = 0) (fits : size ≤ 2 ^ 24) :
    fwBegin s size = { s with fw := { s.fw with
      status := 0, reject := 0, active := true, target := !s.boot.copyB, size := size, data := [] } } := by
  have good : ¬ (size % 8 ≠ 0 ∨ 2 ^ 24 < size) := by omega
  simp only [fwBegin, powered, free, fwStage, ready]
  exact if_neg good

theorem fwAbort_drops : fwAbort s = { s with fw := { s.fw with active := false, data := [], status := 0, reject := 0 } } := by
  simp [fwAbort, powered, fwStage, ready, fwStatus]

end

section
variable {s : State} (powered : s.boot.powered = true) (active : s.fw.active = true)
include powered active

theorem fwBegin_busy (size : Nat) : fwBegin s size = { s with fw := { s.fw with status := Code.busy, reject := 0 } } := by
  simp [fwBegin, powered, active, fwStatus]

theorem fwData_takes (room : s.fw.data.length + 8 ≤ s.fw.size) (d : Word) :
    fwData s d = { s with fw := { s.fw with data := s.fw.data ++ leBytes 8 d.toNat } } := by
  simp [fwData, powered, active, room]

/-- R434: COMMIT closes the update, and accepts the image where nothing rejects it. -/
theorem fwCommit_judges (ready : s.boot.stage = 4) (written : Bool) : fwCommit s written =
    if fwReject s written = 0 then { s with fw := { s.fw with
      active := false, status := 0, reject := 0
      copies := s.fw.copies.set (if s.fw.target then 1 else 0) (some (Config.fwSecurityVersion s.fw.data, Config.fwVersion s.fw.data)) } }
    else { s with fw := { s.fw with active := false, status := Code.badArgument, reject := fwReject s written } } := by
  simp [fwCommit, powered, active, fwStage, ready, fwStatus]

end

theorem exec_fwBegin (size : BitVec 25) (s : State) : exec (.fwBegin size) s = .next (fwBegin s size.toNat) := rfl

theorem exec_fwData (d : Word) (s : State) : exec (.fwData d) s = .next (fwData s d) := rfl

theorem exec_fwCommit (written : Bool) (s : State) : exec (.fwCommit written) s = .next (fwCommit s written) := rfl

theorem exec_fwAbort (s : State) : exec .fwAbort s = .next (fwAbort s) := rfl

/-- Settles O21: each clause is one outcome of an operation; those of COMMIT are the reasons of `fwReject` in their order. -/
theorem firmwareUpdate : Obligations.FirmwareUpdate := by
  refine fun s size d written powered ready => ⟨fun free words fits => ends_eq ?_, fun active => ends_eq ?_,
    fun active room => ends_eq ?_, fun active => ends_eq ?_, ends_eq ?_⟩
  · rw [exec_fwBegin, fwBegin_opens powered ready free words fits]
  · rw [exec_fwBegin, fwBegin_busy powered active]
    rfl
  · rw [exec_fwData, fwData_takes powered active room]
  · rw [exec_fwCommit, fwCommit_judges powered active ready, fwReject]
    by_cases sized : s.fw.data.length ≠ s.fw.size
    · simp [sized, Code.badArgument]
    by_cases signed : Config.fwSignatureOk s.fw.data = false
    · simp [sized, signed, Code.badArgument]
    by_cases old : Config.fwSecurityVersion s.fw.data < s.fw.fusedMin
    · simp [sized, signed, old, Code.badArgument]
    cases written <;> simp [sized, signed, old, Code.badArgument]
  · rw [exec_fwAbort, fwAbort_drops powered ready]

end Sys2Proof.Machine
end

section
/-! PROOF. The management port and the service panel (R378, R432 to R441): how a write transfer is decided, what an event of the panel
writes, what starts a warned removal, and O22. -/

namespace Sys2Proof.Machine

/-! ### The management port, R432, R433 -/

section
variable {s : State} {off : Nat} {d : List Byte} {ok : Bool} (powered : s.boot.powered = true)
include powered

theorem mgmtWrite_register (bytes : d.length = 8) (pec : s.mgmt.smbus = true → ok = true) (aligned : off % 8 = 0) (space : off < 65536) :
    mgmtWrite s off d ok = mgmtReg s off (BitVec.ofNat 64 (leNat d)) := by
  have checked : (s.mgmt.smbus && !ok) = false := by
    cases bus : s.mgmt.smbus with
    | false => rfl
    | true => simp [pec bus]
  simp [mgmtWrite, powered, checked, aligned, bytes, Nat.mod_eq_of_lt space]

theorem mgmtWrite_discards (bad : off % 8 ≠ 0 ∨ d.length ≠ 8 ∨ (s.mgmt.smbus = true ∧ ok = false)) : mgmtWrite s off d ok = s := by
  refine if_pos ?_
  simp only [powered, Bool.not_true, Bool.false_or, Bool.or_eq_true, Bool.and_eq_true, Bool.not_eq_true', bne_iff_ne]
  tauto

end

/-- R433: the offsets of the management space that discard every write: RO registers, and unassigned ones. -/
theorem mgmtReg_readOnly (s : State) (v : Word) :
    ∀ off ∈ [0x00, 0x08, 0x10, 0x18, 0x20, 0x40, 0x108, 0x110, 0x118, 0x128, 0x188, 0x208, 0x300], mgmtReg s off v = s := by
  intro off listed
  fin_cases listed <;> rfl

theorem bit_toNat (v : Word) (i : Nat) : bit v.toNat i = v.getLsbD i := by
  rw [bit, BitVec.getLsbD, Nat.testBit_eq_decide_div_mod_eq]
  rfl

theorem ofNat_bits (v : Word) (lo w : Nat) : BitVec.ofNat w (bits v.toNat lo w) = v.extractLsb' lo w := by
  apply BitVec.eq_of_toNat_eq
  simp [bits, Nat.shiftRight_eq_div_pow]

theorem mgPanelWrite_word (s : State) (v : Word) : mgPanelWrite s v.toNat = { s with panel := { s.panel with
    mgLocate := v.getLsbD 0, mgEvents := s.panel.mgEvents &&& ~~~(v.extractLsb' 6 4) } } := by
  rw [mgPanelWrite, bit_toNat, ofNat_bits]

theorem fwCtrlWrite_size {s : State} {v : Nat} (op : v % 4 = 0) (free : s.fw.active = false) :
    fwCtrlWrite s v = { s with fw := { s.fw with size := bits v 32 25 } } := by
  have none_op : bits v 0 2 = 0 := (bits_low v 2).trans op
  simp [fwCtrlWrite, none_op, free]

/-! ### Events of the panel, R435, R442 -/

theorem panelEvent_eq (s : State) (b : Nat) : panelEvent s b =
    { s with
      panel := { s.panel with events := s.panel.events ||| 1#4 <<< b, mgEvents := s.panel.mgEvents ||| 1#4 <<< b }
      hosts := if s.panel.events.getLsbD b then s.hosts else s.hosts.map fun h => msixRaise s.now h 10
      mgmt := (panelEvent s b).mgmt } := by
  unfold panelEvent
  cases s.panel.events.getLsbD b <;> cases s.panel.mgEvents.getLsbD b <;> rfl

/-! ### What starts a warned removal, R435 to R438, R411 -/

section
variable {s : State} (on : diesOn s = true)
include on

theorem attnLong_removes (staying : s.panel.removal = 0) : attnLong s = removal (panelEvent s 1) false := by
  simp [attnLong, on, staying]

theorem latchMoves_event {closed : Bool} (moves : s.panel.latchClosed ≠ closed) : latchMoves s closed =
    panelEvent { s with panel := { s.panel with
      latchClosed := closed, latchSince := s.now, leverMoved := if closed then false else s.panel.leverMoved } } 3 := by
  rw [latchMoves, if_neg moves]
  exact if_pos on

/-- R437, R438: the lever of a closed latch passes 6 mm: the latch opens, LEVER_MOVED is set, and the removal begins. -/
theorem leverStart_removes (home : s.panel.leverMoved = false) (latched : s.panel.latchClosed = true) :
    let open_ := panelEvent { s with panel := { s.panel with latchClosed := false, latchSince := s.now } } 3
    leverStart s = removal (panelEvent { open_ with panel := { open_.panel with leverMoved := true } } 2) true := by
  intro open_
  have opens : latchMoves s false = open_ := latchMoves_event on (by simp [latched])
  have still : diesOn { open_ with panel := { open_.panel with leverMoved := true } } = true := by
    unfold open_
    rw [panelEvent_eq]
    exact on
  rw [leverStart, home, if_neg Bool.false_ne_true, opens]
  dsimp only
  rw [if_pos still]

end

theorem railFailed_iff {s : State} : railFailed s = true ↔ ∃ r ∈ s.ras.rails, 2 ≤ s.ras.rails.count r := by simp [railFailed]

theorem exec_locate_slot {s : State} {n : Slot} (h : OwnerAnswers s n) (on : Bool) :
    exec (.locate (some n) on) s = .next { s with panel := { s.panel with locate := on } } := by
  have flag : flg 0 on &&& 1 = flg 0 on ∧ bit (flg 0 on) 0 = on := by cases on <;> decide
  show hostReg s n 0xE00018 (flg 0 on) = _
  rw [hostReg_takes h (by decide) rfl (by decide) flag.1, regDo_locate, flag.2]
  rfl

theorem mgPanelWrite_locate (s : State) (on : Bool) : mgPanelWrite s (flg 0 on) = { s with panel := { s.panel with mgLocate := on } } := by
  have flag : bit (flg 0 on) 0 = on ∧ ~~~BitVec.ofNat 4 (bits (flg 0 on) 6 4) = 15#4 := by cases on <;> decide
  rw [mgPanelWrite, flag.1, flag.2, show (15#4 : BitVec 4) = BitVec.allOnes 4 from rfl, BitVec.and_allOnes]

/-! ### A departure, R314, and a shutdown, R378 -/

/-- A departure keeps what a change of a port keeps. -/
theorem leavingDone_keeps {β : Type} {part : State → β} (kept : ∀ s p x, part (setPort s p x) = part s) (s : State) :
    part (leavingDone s) = part s := by
  unfold leavingDone
  split
  · refine foldl_keeps part (fun s p => ?_) _ s
    dsimp only
    split
    · exact kept ..
    · rfl
  · rfl

theorem leavingDoneSend_ready {s : State} (staying : s.panel.removal = 0) (ready : s.boot.stage = 4) :
    leavingDoneSend s = leavingDone s := by
  have panel : (leavingDone s).panel = s.panel := leavingDone_keeps (part := State.panel) (fun s p x => by rw [setPort_eq]) s
  have boot : (leavingDone s).boot = s.boot := leavingDone_keeps (part := State.boot) (fun s p x => by rw [setPort_eq]) s
  have stays : removalDone (leavingDone s) = leavingDone s := if_neg (by simp [panel, staying])
  rw [leavingDoneSend, stays]
  exact if_neg (by simp [boot, ready])

theorem thermalShutdown_removes {s : State} {n c : Nat} (on : thermOn s = true) (hot : shutAbove n < c) (first : s.boot.shutHeat = false)
    (present : s.panel.removal ≠ 2) : thermalShutdown s n c =
      removal (ptRecord { setPower s { s.power with maxC := s.power.maxC.set n (min 255 c) } with
        boot := { s.boot with shutHeat := true } } Code.thermalShutdown n) false := by
  simp [thermalShutdown, setTemp, on, Nat.not_le.2 hot, first, present]

theorem exec_mgmtRegisterWrite (off : Nat) (d : List Byte) (ok : Bool) (s : State) :
    exec (.mgmtRegisterWrite off d ok) s = .next (mgmtWrite s off d ok) := rfl

theorem exec_setdasa (a : BitVec 7) (s : State) : exec (.setdasa a) s = .next
    (if s.boot.powered && !s.mgmt.smbus then { s with mgmt := { s.mgmt with dynAddr := some a.toNat } } else s) := rfl

theorem exec_attnShort (s : State) : exec .attnShort s = .next (if !diesOn s || s.panel.removal != 0 then s else panelEvent s 0) := rfl

theorem exec_attnLong (s : State) : exec .attnLong s = .next (attnLong s) := rfl

theorem exec_warnedRemoval (start : RemovalStart) (s : State) : exec (.warnedRemoval start) s = .next (warnedRemoval s start) := rfl

theorem exec_latchClosed (closed : Bool) (s : State) : exec (.latchClosed closed) s = .next (latchMoves s closed) := rfl

theorem exec_locate_mgmt (on : Bool) (s : State) :
    exec (.locate none on) s = .next (if s.boot.powered then mgPanelWrite s (flg 0 on) else s) := rfl

theorem exec_leavingDoneSend (s : State) : exec .leavingDoneSend s = .next (leavingDoneSend s) := rfl

theorem exec_thermalShutdown (src : Sensor) (c : Nat) (s : State) :
    exec (.thermalShutdown src c) s = .next (thermalShutdown s (sensorNo src) c) := rfl

/-- Settles O22: a good write transfer reaches its register, any other changes nothing; each clause of the panel is one event or one start
of a removal. -/
theorem managementAndPanel : Obligations.ManagementAndPanel := by
  refine ⟨fun s d ok a powered => ?_, fun s on n powered alive => ?_⟩
  · have writes {off : Nat} (aligned : off % 8 = 0) (space : off < 65536) (good : d.length = 8 ∧ (s.mgmt.smbus = true → ok = true)) :
        exec (.mgmtRegisterWrite off d ok) s = .next (mgmtReg s off (BitVec.ofNat 64 (leNat d))) := by
      rw [exec_mgmtRegisterWrite, mgmtWrite_register powered good.1 good.2 aligned space]
    refine ⟨fun good => ends_eq (writes rfl (by decide) good), fun good => ends_eq (writes rfl (by decide) good), fun good => ends_eq ?_,
      fun good free op => ends_eq ?_, fun good => ends_eq (writes rfl (by decide) good), fun off readOnly => ends_eq ?_,
      fun off bad => ends_eq ?_, fun i3c => ends_eq ?_⟩
    · rw [writes rfl (by decide) good]
      exact congrArg _ (mgPanelWrite_word s _)
    · rw [writes rfl (by decide) good]
      exact congrArg _ (fwCtrlWrite_size op free)
    · have place : ∀ o ∈ [0x00, 0x08, 0x10, 0x18, 0x20, 0x40, 0x108, 0x110, 0x118, 0x128, 0x188, 0x208, 0x300], o % 8 = 0 ∧ o < 65536 := by
        decide
      by_cases good : d.length = 8 ∧ (s.mgmt.smbus = true → ok = true)
      · rw [writes (place off readOnly).1 (place off readOnly).2 good, mgmtReg_readOnly s _ off readOnly]
      · have bad : off % 8 ≠ 0 ∨ d.length ≠ 8 ∨ (s.mgmt.smbus = true ∧ ok = false) := by
          rw [not_and_or, Classical.not_imp, Bool.not_eq_true] at good
          exact .inr good
        rw [exec_mgmtRegisterWrite, mgmtWrite_discards powered bad]
    · rw [exec_mgmtRegisterWrite, mgmtWrite_discards powered bad]
    · rw [exec_setdasa, powered, i3c]
      rfl
  · have dies : diesOn s = true := diesOn_iff.2 ⟨powered, alive⟩
    refine ⟨fun staying => ends_eq ?_, fun staying => ends_eq ?_, fun staying => ends_eq ?_, fun home latched => ends_eq ?_,
      fun heat => ends_eq ?_, fun rail => ends_eq ?_, fun moves => ends_eq ?_, ends_eq ?_, fun owns => ends_eq (exec_locate_slot owns on),
      fun _ staying ready => ends_eq ?_, fun src c stage hot first present => ends_eq ?_, fun b => ?_⟩
    · rw [exec_attnShort, dies, staying]
      rfl
    · rw [exec_attnLong, attnLong_removes dies staying]
    · exact (exec_warnedRemoval ..).trans (congrArg _ (attnLong_removes dies staying))
    · exact (exec_warnedRemoval ..).trans (congrArg _ (leverStart_removes dies home latched))
    · exact (exec_warnedRemoval ..).trans (congrArg _ (if_pos heat))
    · exact (exec_warnedRemoval ..).trans (congrArg _ (if_pos (railFailed_iff.2 rail)))
    · rw [exec_latchClosed, latchMoves_event dies moves]
    · rw [exec_locate_mgmt, if_pos powered, mgPanelWrite_locate]
    · rw [exec_leavingDoneSend, leavingDoneSend_ready staying ready]
    · rw [exec_thermalShutdown, thermalShutdown_removes (thermOn_of dies stage) hot first present]
      rfl
    · rw [panelEvent_eq]
      exact ⟨rfl, rfl⟩

end Sys2Proof.Machine
end

section
/-! PROOF. Checkpoints and unit faults (R401 to R405, R419): what a checkpoint marks, what a unit fault writes where no job runs and where
nothing can be replayed, how ERR_CTRL takes a write, and O31. -/

namespace Sys2Proof.Machine

/-! ### The checkpoint, R401 -/

theorem get_map_or_default {α : Type} (d : α) (f : α → α) (t : List (Nat × α)) (k : Nat) :
    Tbl.get d (t.map fun p => (p.1, f p.2)) k = f (Tbl.get d t k) ∨
    (Tbl.get d (t.map fun p => (p.1, f p.2)) k = d ∧ Tbl.get d t k = d) := by
  induction t with
  | nil => exact .inr ⟨rfl, rfl⟩
  | cons p t ih =>
    simp only [List.map_cons, Tbl.get]
    split
    · exact .inl rfl
    · split
      · exact .inr ⟨rfl, rfl⟩
      · exact ih

/-- A cell at a checkpoint: it is marked, or it is the cell that holds nothing. -/
theorem getCell_takeCheckpoint (s : State) (c : Nat) :
    getCell (takeCheckpoint s) c = markCell (getCell s c) ∨ (getCell (takeCheckpoint s) c = {} ∧ getCell s c = {}) :=
  get_map_or_default ({} : CellSt) markCell s.job.grid.cells c

theorem markCell_flipQ (x : CellSt) : (markCell x).mu.flipQ.map FlipAsk.regions = x.mu.flipQ.map FlipAsk.regions := by
  simp [markCell, Function.comp_def]

theorem checkpoint_due {s : State} (runs : jobRuns s = true) (beats : (nth {} s.job.grid.timers 0).running = true)
    (fresh : (nth {} s.job.grid.timers 0).replay = false) (first : s.job.ckpt = none) : checkpoint s = takeCheckpoint s := by
  have due : (getTimer s 0).running = true ∧ (getTimer s 0).replay = false := ⟨beats, fresh⟩
  simp [checkpoint, runs, due, first]

theorem exec_checkpoint (s : State) : exec .checkpoint s = .next (checkpoint s) := rfl

/-! ### What a unit fault writes, R403, R405 -/

theorem raiseJobFault_dies (s : State) (code : Status) : (raiseJobFault s code).dies = s.dies := by
  obtain ⟨_, _, _, _, _, _, h⟩ := Signalled.raiseJobFault s code
  rw [h]

theorem raiseJobFault_ras (s : State) (code : Status) : (raiseJobFault s code).ras = s.ras := by
  obtain ⟨_, _, _, _, _, _, h⟩ := Signalled.raiseJobFault s code
  rw [h]

theorem noteUnit_eq (s : State) (code : Status) (cell u why : Nat) (i m : Bool) (lost : Nat) (d : List Nat) :
    noteUnit s code cell u why i m lost d = { s with
      recs := (noteUnit s code cell u why i m lost d).recs, hosts := (noteUnit s code cell u why i m lost d).hosts } := by
  unfold noteUnit
  rw [recIrq_eq]

theorem noteGrid_eq (s : State) (code : Status) (c u n p : Nat) (d : List Nat) :
    noteGrid s code c u n p d = { s with recs := (noteGrid s code c u n p d).recs, hosts := (noteGrid s code c u n p d).hosts } := by
  unfold noteGrid
  rw [recIrq_eq]

/-- A unit fault counted, with the time that it costs: a free choice up to its bound (log entry 3). -/
def faultCounted (s : State) (held : Bool) : State :=
  { (faultLost s held).2 with counts := { s.counts with
    unitFaults := s.counts.unitFaults + 1, worst := max s.counts.worst (faultLost s held).1 } }

@[simp] theorem faultCounted_dies (s : State) (held : Bool) : (faultCounted s held).dies = s.dies := rfl

@[simp] theorem physPair_faultCounted (s : State) (held : Bool) (c : Nat) : physPair (faultCounted s held) c = physPair s c := rfl

section
variable {s : State} (code : Status) (inMu : Bool) (d : List Nat)

/-- R405: a unit fault where no job runs uses the spare, or marks the pair, and is recorded. -/
theorem unitFaultNow_idle (idle : s.jobc.st = 0) (c : Nat) :
    let held := (nth {} s.dies (dieOf c)).held
    unitFaultNow s c code inMu false d =
      noteUnit (if held then shiftPair (faultCounted s held) c code else failPair (faultCounted s held) c (punit s c inMu))
        code c (punit s c inMu) (replayReason s held) false (held && !false) ((faultLost s held).1 % 2 ^ 32) d := by
  have runs : (s.jobc.st == 1 || s.jobc.st == 3) = false := by rw [idle]; rfl
  simp only [unitFaultNow, runs]
  rfl

/-- R405, R419: an injected fault that cannot be replayed is counted and recorded, and stops the job. -/
theorem unitFaultNow_injected_stops (running : s.jobc.st = 1) (first : s.job.ckpt = none) (c : Nat) :
    let held := (nth {} s.dies (dieOf c)).held
    unitFaultNow s c code inMu true d = raiseJobFault
      (noteUnit (faultCounted s held) code c (punit s c inMu) (replayReason s held) true (held && !true) ((faultLost s held).1 % 2 ^ 32) d)
      code := by
  intro held
  have runs : (s.jobc.st == 1 || s.jobc.st == 3) = true := by rw [running]; rfl
  have why : (replayReason s held != 0) = true := bne_iff_ne.2 (replayReason_ne_zero first held)
  simp only [unitFaultNow, runs, Bool.not_true, Bool.false_eq_true, if_false, if_true]
  rw [if_pos why]
  rfl

theorem unitFault_now (ended : s.ras.testing = false) (c : Nat) (injected : Bool) :
    unitFault s c code inMu injected d = unitFaultNow s c code inMu injected d := by
  simp [unitFault, ended]

/-- R420: a unit fault waits for the test of its die's spare. -/
theorem unitFault_waits {c : Nat} (tested : s.ras.testing = true) (held : (nth {} s.dies (dieOf c)).held = true) (injected : Bool) :
    unitFault s c code inMu injected d =
      { s with ras := { s.ras with heldFaults := s.ras.heldFaults ++ [(c, code, inMu, injected, d)] } } := by
  simp [unitFault, tested, held]

end

theorem dieOf_lt (c : Nat) : dieOf c < 2 := by
  unfold dieOf
  split <;> decide

section
variable {s : State} (dies : s.dies.length = 2) (c : Nat)
include dies

/-- R403: the spare of the die takes over, and nothing else changes but counts, the record and its interrupt. -/
theorem unitFaultNow_shifts (idle : s.jobc.st = 0) (held : (nth {} s.dies (dieOf c)).held = true) (code : Status) (inMu : Bool) :
    let t := unitFaultNow s c code inMu false
    nth {} t.dies (dieOf c) = { nth {} s.dies (dieOf c) with oos := physPair s c, reason := 2, held := false } ∧
    t.remapLog = s.remapLog ++ [(dieOf c, physPair s c, code, poweredHours s)] ∧
    t.counts.unitFaults = s.counts.unitFaults + 1 ∧ t.jobc = s.jobc ∧
    t = { s with dies := t.dies, remapLog := t.remapLog, counts := t.counts, recs := t.recs, hosts := t.hosts, free := t.free } := by
  have known : dieOf c < s.dies.length := dies ▸ dieOf_lt c
  rw [unitFaultNow_idle code inMu [] idle c, if_pos held, noteUnit_eq, shiftPair]
  refine ⟨?_, rfl, rfl, rfl, rfl⟩
  show nth {} (s.dies.set _ _) _ = _
  simp [nth, known]

/-- R21, R405: without a spare the pair is marked failed. -/
theorem unitFaultNow_fails (idle : s.jobc.st = 0) (used : (nth {} s.dies (dieOf c)).held = false) (code : Status) (inMu : Bool) :
    let x := nth {} s.dies (dieOf c)
    let t := unitFaultNow s c code inMu false
    nth {} t.dies (dieOf c) = { x with failed := if x.failed.contains (physPair s c) then x.failed else x.failed ++ [physPair s c] } ∧
    t.remapLog = s.remapLog ∧
    t = { s with dies := t.dies, counts := t.counts, recs := t.recs, hosts := t.hosts, free := t.free } := by
  have known : dieOf c < s.dies.length := dies ▸ dieOf_lt c
  rw [unitFaultNow_idle code inMu [] idle c, if_neg (by simp [used]), noteUnit_eq, failPair, noteGrid_eq]
  refine ⟨?_, rfl, rfl⟩
  show nth {} (s.dies.set _ _) _ = _
  simp [nth, known]

end

/-! ### A unit fault of the residue check, Table 18.1 -/

theorem partsOn_ready {s : State} (ready : isReady s = true) : partsOn s = true := by
  simp only [isReady, Bool.and_eq_true, beq_iff_eq, Bool.not_eq_true'] at ready
  obtain ⟨⟨powered, stage⟩, alive⟩ := ready
  simp [partsOn, diesOn, powered, stage, alive]

/-- R403: the residue check leaves no other record, and no restore is in progress to be completed first. -/
theorem strike_residue {s : State} (settled : s.jobc.st ≠ 4) (c : Nat) (inMu injected : Bool) :
    strike s c Code.residueMismatch inMu injected = unitFault s c Code.residueMismatch inMu injected := by
  have complete : restoreComplete s = s := if_pos settled
  rw [strike, complete]
  rfl

theorem exec_unitFault_residue {s : State} (ready : isReady s = true) (settled : s.jobc.st ≠ 4) (c : Cell) :
    exec (.unitFault c 0x0207 false) s = .next (unitFault s c Code.residueMismatch false false) := by
  rw [← strike_residue settled]
  exact congrArg _ (if_pos (by rw [partsOn_ready ready]; rfl))

/-! ### ERR_CTRL, R422, R419 -/

theorem exec_inject (n : Slot) (c : Cell) (kind : Fin 4) (s : State) :
    exec (.inject n c kind) s = hostReg s n 0xD00050 (3 + fld 10 c + fld 19 kind) := rfl

/-- R445: a value below bit 28 sets no reserved bit of ERR_CTRL. -/
theorem hostReg_errCtrl {s : State} {n : Slot} (h : OwnerAnswers s n) {v : Nat} (hv : v < 2 ^ 28) :
    hostReg s n 0xD00050 v = .next (slotNote (errCtrlWrite s v) n 0 0xD00050) := by
  have unreserved : v &&& (ones 28 + fld 32 (ones 17)) = v := by
    have within : ones 28 &&& (ones 28 + fld 32 (ones 17)) = ones 28 := by decide
    rw [← and_ones_of_lt hv, Nat.and_assoc, within]
  exact hostReg_takes h (by decide) rfl (by decide) unreserved

/-- Table 18.8: ERR_CTRL holds the fields last written. -/
def ctrlWritten (s : State) (v : Nat) : State := setRas s { s.ras with ctrl := BitVec.ofNat 64 v }

theorem errCtrlWrite_inject {s : State} {v : Nat} (free : s.ras.busy = 0) (op : bits v 0 3 = 3) (kind : bits v 19 2 = 0) :
    errCtrlWrite s v = (none, injectOp (ctrlWritten s (bits v 0 28)) (bits v 10 9) 0) := by
  simp [errCtrlWrite, free, op, kind, ctrlWritten]

theorem exec_inject_takes {s : State} {n : Slot} (h : OwnerAnswers s n) (free : s.ras.busy = 0) (c : Cell) :
    exec (.inject n c 0) s = .next (injectOp (ctrlWritten s (3 + 2 ^ 10 * c.val)) c 0) := by
  have hc := c.isLt
  have value : 3 + fld 10 c + fld 19 (0 : Fin 4) = 3 + 2 ^ 10 * c.val := by simp [fld, Nat.mul_comm]
  have fields : bits (3 + 2 ^ 10 * c.val) 0 3 = 3 ∧ bits (3 + 2 ^ 10 * c.val) 19 2 = 0 ∧ bits (3 + 2 ^ 10 * c.val) 10 9 = c.val ∧
      bits (3 + 2 ^ 10 * c.val) 0 28 = 3 + 2 ^ 10 * c.val := by
    simp only [bits]
    omega
  obtain ⟨op, kind, cell, all⟩ := fields
  rw [exec_inject, value, hostReg_errCtrl h (by omega), errCtrlWrite_inject free op kind, cell, all, slotNote_of_none rfl]

theorem injectOp_noJob {s : State} (idle : s.jobc.st ≠ 1) (c kind : Nat) : injectOp s c kind = errStatus s Code.noJob := if_pos idle

theorem injectOp_residue {s : State} (running : s.jobc.st = 1) (c : Nat) :
    injectOp s c 0 = unitFault (errStatus s Code.ok) c Code.residueMismatch false true := by
  rw [injectOp, if_neg (not_not.2 running), ← strike_residue (show (errStatus s Code.ok).jobc.st ≠ 4 by simp [errStatus, setRas, running])]
  rfl

/-- R419: an injected fault without a checkpoint stops the job, and uses no spare. -/
theorem injectOp_stops {s : State} (running : s.jobc.st = 1) (first : s.job.ckpt = none) (ended : s.ras.testing = false) (c : Nat) :
    (injectOp s c 0).jobc = { s.jobc with st := 2, fault := Code.residueMismatch } ∧
    (injectOp s c 0).dies = s.dies ∧ (injectOp s c 0).ras.ctrlStatus = Code.ok := by
  have status : (errStatus s Code.ok).jobc = s.jobc ∧ (errStatus s Code.ok).job = s.job ∧ (errStatus s Code.ok).ras.testing = false :=
    ⟨rfl, rfl, ended⟩
  rw [injectOp_residue running, unitFault_now _ _ _ status.2.2,
    unitFaultNow_injected_stops _ _ _ (status.1 ▸ running) (status.2.1 ▸ first), noteUnit_eq]
  exact ⟨raiseJobFault_jobc (by exact running) _, raiseJobFault_dies .., congrArg Ras.ctrlStatus (raiseJobFault_ras ..)⟩

/-- Settles O31: a checkpoint marks its cells; a unit fault is one outcome of `unitFaultNow` or waits for a test; INJECT is `injectOp`. -/
theorem unitFaults : Obligations.UnitFaults := by
  intro s cell ready
  refine ⟨fun runs beats fresh first => ⟨_, (exec_checkpoint s).trans (congrArg _ (checkpoint_due runs beats fresh first)),
      rfl, ?_, rfl, fun c => ?_⟩,
    fun idle dies ended held => ⟨_, exec_unitFault_residue ready (by omega) cell, ?_⟩,
    fun idle dies ended used => ⟨_, exec_unitFault_residue ready (by omega) cell, ?_⟩,
    fun running first ended => ⟨_, exec_unitFault_residue ready (by omega) cell, ?_⟩,
    fun tested held settled => ends_eq ?_, fun n owns free idle => ends_eq ?_,
    fun n owns free running first ended => ⟨_, exec_inject_takes owns free cell, ?_⟩⟩
  · rintro k ⟨⟩
    exact ⟨rfl, rfl, rfl⟩
  · obtain marked | ⟨now, was⟩ := getCell_takeCheckpoint s c
    · rw [marked]
      exact ⟨rfl, rfl, markCell_flipQ _⟩
    · rw [now, was]
      exact ⟨rfl, rfl, rfl⟩
  · rw [unitFault_now _ _ _ ended]
    exact unitFaultNow_shifts dies cell idle held _ _
  · rw [unitFault_now _ _ _ ended]
    exact unitFaultNow_fails dies cell idle used _ _
  · exact (unitFault_stops running first ended ..).1
  · rw [exec_unitFault_residue ready settled, unitFault_waits _ _ _ tested held]
    rfl
  · rw [exec_inject_takes owns free, injectOp_noJob (by exact idle)]
    rfl
  · exact injectOp_stops (s := ctrlWritten s _) running first ended cell

end Sys2Proof.Machine
end

section
/-! PROOF. Frames, Vat channels, stacks and rails that fail (R398, R407 to R409, R411): one lemma for each outcome of their commands and of
REPLACE, and O32. -/

namespace Sys2Proof.Machine

/-- RAS_FAULT (Table 18.8): a record of region `r` with detail `x`, and its interrupt. -/
theorem noteRas_eq (s : State) (code : Status) (r x : Nat) : noteRas s code r x =
    { s with
      recs := { s.recs with ras := recNote s.recs.ras code (2 ^ 17 * r + 2 ^ 32 * x) 0 }
      hosts := (noteRas s code r x).hosts } := by
  unfold noteRas
  rw [recIrq_eq, fld, fld, Nat.mul_comm, Nat.mul_comm x]

section
variable (s : State) (code : Status) (r x : Nat)

@[simp] theorem noteRas_ras : (noteRas s code r x).ras = s.ras := by rw [noteRas_eq]
@[simp] theorem noteRas_tiers : (noteRas s code r x).tiers = s.tiers := by rw [noteRas_eq]

end

theorem ready_of {s : State} (powered : s.boot.powered = true) (alive : s.boot.shut = false) (stage : s.boot.stage = 4) :
    isReady s = true := by simp [isReady, powered, alive, stage]

/-! ### Near frames, R407, R398 -/

section
variable {s : State} {f : Nat}

theorem frameRetired_retires (ready : isReady s = true) (known : f < nearFrames) (new : s.ras.retiring.contains f = false)
    (pool : nth 0 s.ras.pool (f / stackFrames) ≠ 0) : frameRetired s f =
      { s with ras := { s.ras with pool := s.ras.pool.modify (f / stackFrames) (· - 1), retiring := s.ras.retiring ++ [f] } } := by
  simp only [frameRetired, partsOn_ready ready, Nat.not_le.2 known, new, decide_false, Bool.not_true, Bool.or_false, Bool.false_eq_true,
    if_false]
  exact if_neg pool

theorem frameRetired_poolEmpty (ready : isReady s = true) (known : f < nearFrames) (new : s.ras.retiring.contains f = false)
    (empty : nth 0 s.ras.pool (f / stackFrames) = 0) : frameRetired s f =
      noteRas (modAge s (8 + f / stackFrames) fun x => { x with spare := 8 }) Code.retirePoolEmpty (8 + f / stackFrames) f := by
  simp only [frameRetired, partsOn_ready ready, Nat.not_le.2 known, new, decide_false, Bool.not_true, Bool.or_false, Bool.false_eq_true,
    if_false]
  exact if_pos empty

/-- The words of a frame that its copy could not correct. -/
def badWords (f : Nat) (bad : List Nat) : List Nat := (bad.filter fun w => decide (w < 32768)).map fun w => f * 32768 + w

theorem mem_badWords {bad : List Nat} {w : Nat} : w ∈ badWords f bad ↔ ∃ b ∈ bad, b < 32768 ∧ w = f * 32768 + b := by
  simp [badWords, and_assoc, eq_comm]

theorem frameRetireDone_retires (retiring : s.ras.retiring.contains f = true) (bad : List Nat) : frameRetireDone s f bad =
    noteRas { s with
      ras := { s.ras with retiring := s.ras.retiring.erase f, retired := s.ras.retired.modify (f / stackFrames) (· + 1) }
      tiers := { s.tiers with badNear := (s.tiers.badNear ++ badWords f bad).eraseDups } }
      Code.frameRetired (8 + f / stackFrames) f := by
  simp only [frameRetireDone, retiring]
  rfl

end

/-! ### Vat channels, R408, R409 -/

theorem getChan_setChan {s : State} {c : Nat} (known : c < s.ras.chans.length) (x : VatCh) : getChan (setChan s c x) c = x := by
  simp [getChan, setChan, setRas, nth, known]

theorem getChan_setChan_ne {s : State} {c k : Nat} (other : c ≠ k) (x : VatCh) : getChan (setChan s c x) k = getChan s k := by
  simp [getChan, setChan, setRas, nth, other]

/-- `k` is the lowest-numbered channel in STATE `st`. -/
def LowestIn (s : State) (st : Nat) (k : Fin 96) : Prop := (getChan s k).st = st ∧ ∀ j : Fin 96, j < k → (getChan s j).st ≠ st

section
variable {s : State} {c k : Fin 96}

theorem standby_lowest (h : LowestIn s 1 k) : standby s = some k.val := by
  refine List.find?_range_eq_some.2 ⟨by simp [h.1], List.mem_range.2 k.isLt, fun j hj => ?_⟩
  simpa using h.2 ⟨j, by omega⟩ hj

theorem copyOf_none (idle : ∀ j : Fin 96, (getChan s j).st ≠ 2) : copyOf s c = none := by
  refine List.find?_range_eq_none.2 fun j hj => ?_
  simp [show (getChan s j).st ≠ 2 from idle ⟨j, hj⟩]

theorem copyOf_lowest (h : LowestIn s 2 k) (source : (getChan s k).src = c) : copyOf s c = some k.val := by
  refine List.find?_range_eq_some.2 ⟨by simp [h.1, source], List.mem_range.2 k.isLt, fun j hj => ?_⟩
  simp [show (getChan s j).st ≠ 2 from h.2 ⟨j, by omega⟩ hj]

theorem copyOf_isSome (copies : (getChan s k).st = 2) (source : (getChan s k).src = c) : (copyOf s c).isSome = true := by
  refine List.find?_isSome.2 ⟨k.val, List.mem_range.2 k.isLt, ?_⟩
  simp [copies, source]

/-- R408: a copy to the lowest standby channel begins. -/
theorem chanReplace_copies (serves : (getChan s c).st = 0) (idle : ∀ j : Fin 96, (getChan s j).st ≠ 2) (lowest : LowestIn s 1 k) :
    chanReplace s c = setChan s k ⟨2, (getChan s c).slot, c⟩ := by
  simp [chanReplace, serves, copyOf_none idle, standby_lowest lowest]

theorem replaceDone_eq (s : State) (c : Nat) (code : Status) : replaceDone s c code = { s with ras := (replaceDone s c code).ras } := by
  unfold replaceDone errDone
  split
  · split <;> rfl
  · rfl

theorem replaceDone_chans (s : State) (c : Nat) (code : Status) : (replaceDone s c code).ras.chans = s.ras.chans := by
  unfold replaceDone errDone
  split
  · split <;> rfl
  · rfl

/-- The channels after `k` has taken the slot of `c`. -/
def slotMoved (s : State) (c k : Nat) : State := setChan (setChan s k ⟨0, (getChan s c).slot, 127⟩) c ⟨3, 127, 127⟩

theorem getChan_slotMoved {s : State} (chans : s.ras.chans.length = 96) (other : c ≠ k) :
    getChan (slotMoved s c k) k = ⟨0, (getChan s c).slot, 127⟩ ∧ getChan (slotMoved s c k) c = ⟨3, 127, 127⟩ := by
  have apart : c.val ≠ k.val := Fin.val_ne_of_ne other
  constructor
  · rw [slotMoved, getChan_setChan_ne apart, getChan_setChan (by omega)]
  · rw [slotMoved, getChan_setChan (by simp [setChan, setRas, chans])]

/-- R398: the granules of a slot that its copy could not correct. -/
def badGranules (slot : Nat) (bad : List Nat) : List Nat := bad.filter fun g => g % 92 == slot && decide (g < vatFrames * 8192)

theorem mem_badGranules {slot g : Nat} {bad : List Nat} :
    g ∈ badGranules slot bad ↔ g ∈ bad ∧ g % 92 = slot ∧ g < vatFrames * 8192 := by simp [badGranules]

theorem chanReplaced_moves (copies : copyOf s c = some k.val) (bad : List Nat) : chanReplaced s c bad =
    replaceDone (noteRas { slotMoved s c k with
      tiers := { s.tiers with badVat := (s.tiers.badVat ++ badGranules (getChan s c).slot bad).eraseDups } }
      Code.vatChannelReplaced (vatRegion c) c) c Code.ok := by
  simp only [chanReplaced, copies]
  rfl

theorem chanLost_moves (ready : isReady s = true) (serves : (getChan s c).st = 0) (idle : ∀ j : Fin 96, (getChan s j).st ≠ 2)
    (lowest : LowestIn s 1 k) : chanLost s c =
      replaceDone (noteRas (slotLost (slotMoved s c k) (getChan s c).slot) Code.vatChannelLost (vatRegion c) c) c Code.vatChannelLost := by
  simp only [chanLost, partsOn_ready ready, serves, copyOf_none idle, standby_lowest lowest, ready]
  rfl

end

theorem slotLost_mem (s : State) (slot : Nat) : slot ∈ (slotLost s slot).tiers.lostSlots := by
  unfold slotLost
  dsimp only
  split
  · next known => exact List.contains_iff_mem.1 known
  · simp

theorem slotLost_cured (s : State) (slot : Nat) : ∀ g ∈ (slotLost s slot).tiers.cured, g % 92 ≠ slot := by
  intro g hg
  simpa [slotLost] using (List.mem_filter.1 hg).2

/-! ### Stacks and rails, R409, R411 -/

theorem stackLost_fails {s : State} {h : Nat} (ready : isReady s = true) (new : s.ras.failedStacks.getLsbD h = false) : stackLost s h =
    noteRas { s with ras := { s.ras with failedStacks := s.ras.failedStacks ||| 1#12 <<< h } } Code.stackFailed (8 + h) h := by
  simp only [stackLost, partsOn_ready ready, new]
  rfl

theorem phaseLost_first {s : State} {r : Nat} (on : diesOn s = true) (first : r ∉ s.ras.rails) : phaseLost s r =
    noteRas { s with ras := { s.ras with rails := s.ras.rails ++ [r] } } Code.regPhaseLost 61 r := by
  simp [phaseLost, on, first, List.count_eq_zero_of_not_mem first, setRas]

/-! ### REPLACE of ERR_CTRL, R408 -/

theorem exec_replace (n : Slot) (ch : Fin 128) (s : State) : exec (.replace n ch) s = hostReg s n 0xD00050 (4 + fld 21 ch) := rfl

section
variable {s : State} {v : Nat} (free : s.ras.busy = 0) (op : bits v 0 3 = 4) (kind : bits v 19 2 = 0)
include free op kind

theorem errCtrlWrite_replace (known : bits v 21 7 < 96) :
    errCtrlWrite s v = (none, replaceOp (ctrlWritten s (bits v 0 28)) (bits v 21 7)) := by
  simp [errCtrlWrite, free, op, kind, Nat.not_le.2 known, ctrlWritten]

theorem errCtrlWrite_noChannel (beyond : 96 ≤ bits v 21 7) : errCtrlWrite s v = (some Code.badArgument, s) := by
  simp [errCtrlWrite, free, op, kind, beyond]

end

/-- Table 18.8: the fields of a REPLACE in ERR_CTRL. -/
theorem replace_fields (ch : Fin 128) : 4 + fld 21 ch = 4 + 2 ^ 21 * ch.val ∧ bits (4 + 2 ^ 21 * ch.val) 0 3 = 4 ∧
    bits (4 + 2 ^ 21 * ch.val) 19 2 = 0 ∧ bits (4 + 2 ^ 21 * ch.val) 21 7 = ch ∧
    bits (4 + 2 ^ 21 * ch.val) 0 28 = 4 + 2 ^ 21 * ch.val ∧ 4 + 2 ^ 21 * ch.val < 2 ^ 28 := by
  have := ch.isLt
  simp only [bits, fld]
  omega

section
variable {s : State} {n : Slot} (h : OwnerAnswers s n) (free : s.ras.busy = 0) {ch : Fin 128}
include h free

theorem exec_replace_takes (known : ch.val < 96) :
    exec (.replace n ch) s = .next (replaceOp (ctrlWritten s (4 + 2 ^ 21 * ch.val)) ch) := by
  obtain ⟨value, op, kind, chan, all, small⟩ := replace_fields ch
  rw [exec_replace, value, hostReg_errCtrl h small, errCtrlWrite_replace free op kind (by omega), chan, all, slotNote_of_none rfl]

theorem exec_replace_refused (beyond : 96 ≤ ch.val) : exec (.replace n ch) s = .next (met s n Code.badArgument 0 0xD00050) := by
  obtain ⟨value, op, kind, chan, all, small⟩ := replace_fields ch
  rw [exec_replace, value, hostReg_errCtrl h small, errCtrlWrite_noChannel free op kind (by omega), slotNote_of_some rfl]

end

theorem replaceOp_copies {s : State} {c k : Fin 96} (chans : s.ras.chans.length = 96) (serves : (getChan s c).st = 0)
    (worn : (nth {} s.ras.age (vatRegion c)).spare = 3) (idle : ∀ j : Fin 96, (getChan s j).st ≠ 2) (lowest : LowestIn s 1 k) :
    replaceOp s c = { s with ras := { s.ras with chans := s.ras.chans.set k ⟨2, (getChan s c).slot, c⟩, busy := 4 } } := by
  have copies : getChan (setChan s k ⟨2, (getChan s c).slot, c⟩) k = ⟨2, (getChan s c).slot, c⟩ := getChan_setChan (by omega) _
  have begun : (copyOf (setChan s k ⟨2, (getChan s c).slot, c⟩) c).isSome = true :=
    copyOf_isSome (k := k) (by rw [copies]) (by rw [copies])
  have accepted : ¬ ((getChan s c).st ≠ 0 ∨ (nth {} s.ras.age (vatRegion c)).spare ≠ 3) := by simp [serves, worn]
  rw [replaceOp, if_neg accepted]
  dsimp only
  rw [chanReplace_copies serves idle lowest, if_pos begun]
  rfl

theorem exec_frameRetired (f : Nat) (s : State) : exec (.frameRetired f) s = .next (frameRetired s f) := rfl

theorem exec_frameRetireComplete (f : Nat) (bad : List Nat) (s : State) :
    exec (.frameRetireComplete f bad) s = .next (frameRetireDone s f bad) := rfl

theorem exec_vatChannelReplace (c : Fin 96) (s : State) :
    exec (.vatChannelReplace c) s = .next (if partsOn s then chanReplace s c else s) := rfl

theorem exec_vatChannelReplaced (c : Fin 96) (bad : List Nat) (s : State) :
    exec (.vatChannelReplaced c bad) s = .next (chanReplaced s c bad) := rfl

theorem exec_vatChannelLost (c : Fin 96) (s : State) : exec (.vatChannelLost c) s = .next (chanLost s c) := rfl

theorem exec_stackFailed (h : Fin 12) (s : State) : exec (.stackFailed h) s = .next (stackLost s h) := rfl

theorem exec_regPhaseLost (r : Fin 64) (s : State) : exec (.regPhaseLost r) s = .next (phaseLost s r) := rfl

/-- Settles O32: each clause is one outcome of a retirement, of a channel's copy or loss, of a stack's or a rail's, or of REPLACE. -/
theorem retirementAndReplacement : Obligations.RetirementAndReplacement := by
  refine ⟨fun s f bad powered alive stage known => ?_, fun s c k bad h r powered alive stage chans => ?_⟩
  · have ready := ready_of powered alive stage
    refine ⟨fun new pool => ends_eq ?_, fun new empty => ⟨_, exec_frameRetired f s, ?_⟩,
      fun retiring => ⟨_, exec_frameRetireComplete f bad s, ?_⟩⟩
    · rw [exec_frameRetired, frameRetired_retires ready known new pool]
    · rw [frameRetired_poolEmpty ready known new empty, noteRas_eq]
      exact ⟨rfl, rfl, rfl⟩
    · rw [frameRetireDone_retires retiring bad, noteRas_eq]
      refine ⟨rfl, fun w => ?_, rfl⟩
      show w ∈ (s.tiers.badNear ++ badWords f bad).eraseDups ↔ _
      rw [List.mem_eraseDups, List.mem_append, mem_badWords]
  · have ready := ready_of powered alive stage
    refine ⟨fun serves idle lowest => ends_eq ?_, fun lowest source other => ⟨_, exec_vatChannelReplaced c bad s, ?_⟩,
      fun serves idle lowest => ⟨_, exec_vatChannelLost c s, ?_⟩, fun new => ⟨_, exec_stackFailed h s, ?_⟩,
      fun first => ⟨_, exec_regPhaseLost r s, ?_⟩,
      fun n owns free serves worn idle lowest => ⟨_, exec_replace_takes owns free c.isLt, ?_⟩,
      fun n m owns free beyond => ends_eq (exec_replace_refused owns free beyond)⟩
    · rw [exec_vatChannelReplace, if_pos (partsOn_ready ready), chanReplace_copies serves idle lowest]
      rfl
    · have moved := getChan_slotMoved chans other
      rw [chanReplaced_moves (copyOf_lowest lowest source) bad]
      refine ⟨?_, ?_, fun g => ?_, ?_⟩
      · rw [getChan, replaceDone_chans, noteRas_ras]; exact moved.1
      · rw [getChan, replaceDone_chans, noteRas_ras]; exact moved.2
      · rw [replaceDone_eq]
        simp only [noteRas_tiers]
        rw [List.mem_eraseDups, List.mem_append, mem_badGranules]
      · rw [replaceDone_eq, noteRas_eq]
        rfl
    · have other : c ≠ k := fun same => absurd (same ▸ serves) (by rw [lowest.1]; decide)
      have moved := getChan_slotMoved chans other
      rw [chanLost_moves ready serves idle lowest]
      refine ⟨?_, ?_, ?_, ?_⟩
      · rw [getChan, replaceDone_chans, noteRas_ras]; exact moved.1
      · rw [getChan, replaceDone_chans, noteRas_ras]; exact moved.2
      · rw [replaceDone_eq]
        simp only [noteRas_tiers]
        exact slotLost_mem ..
      · rw [replaceDone_eq]
        simp only [noteRas_tiers]
        exact slotLost_cured _ _
    · rw [stackLost_fails ready new, noteRas_eq]
      exact ⟨rfl, rfl, rfl⟩
    · rw [phaseLost_first (diesOn_iff.2 ⟨powered, alive⟩) first, noteRas_eq]
      exact ⟨rfl, rfl⟩
    · rw [replaceOp_copies (s := ctrlWritten s _) chans serves worn idle lowest]
      exact ⟨rfl, rfl⟩

end Sys2Proof.Machine
end

section
/-! PROOF. LANE_RESTORE and the test of held spares (R412, R413): one lemma for each outcome of their operations of ERR_CTRL and of what
ends them, and O34. -/

namespace Sys2Proof.Machine

theorem errCtrlWrite_busy {s : State} (busy : s.ras.busy ≠ 0) (v : Nat) : errCtrlWrite s v = (some Code.busy, s) := if_pos busy

/-! ### LANE_RESTORE, R412 -/

theorem exec_laneRestore (n : Slot) (p : Port) (l : Fin 13) (s : State) :
    exec (.laneRestore n p l) s = hostReg s n 0xD00050 (1 + fld 3 p + fld 6 l) := rfl

theorem exec_laneRestoreEnd (errors : Nat) (s : State) : exec (.laneRestoreEnd errors) s = .next (laneTested s errors) := rfl

/-- Table 18.8: the value of ERR_CTRL that asks for the test of lane `l` of port `p`. -/
abbrev laneCtrl (p : Port) (l : Fin 13) : Nat := 1 + 2 ^ 3 * p.val + 2 ^ 6 * l.val

theorem laneCtrl_fields (p : Port) (l : Fin 13) : 1 + fld 3 p + fld 6 l = laneCtrl p l ∧ bits (laneCtrl p l) 0 3 = 1 ∧
    bits (laneCtrl p l) 3 3 = p ∧ bits (laneCtrl p l) 6 4 = l ∧ bits (laneCtrl p l) 19 2 = 0 ∧
    bits (laneCtrl p l) 0 28 = laneCtrl p l ∧ laneCtrl p l < 2 ^ 28 := by
  have := p.isLt
  have := l.isLt
  simp only [bits, fld, laneCtrl]
  omega

theorem errCtrlWrite_laneRestore {s : State} {v : Nat} (free : s.ras.busy = 0) (op : bits v 0 3 = 1) (kind : bits v 19 2 = 0)
    (lane : bits v 6 4 < 13) : errCtrlWrite s v = (none, laneTest (ctrlWritten s (bits v 0 28)) (bits v 3 3) (bits v 6 4)) := by
  have known : ¬ 12 < bits v 6 4 := by omega
  simp [errCtrlWrite, free, op, kind, known, ctrlWritten]

section
variable {s : State} {n : Slot} (h : OwnerAnswers s n) (p : Port) (l : Fin 13)
include h

theorem exec_laneRestore_busy (busy : s.ras.busy ≠ 0) : exec (.laneRestore n p l) s = .next (met s n Code.busy 0 0xD00050) := by
  obtain ⟨value, op, port, lane, kind, all, small⟩ := laneCtrl_fields p l
  rw [exec_laneRestore, value, hostReg_errCtrl h small, errCtrlWrite_busy busy, slotNote_of_some rfl]

theorem exec_laneRestore_takes (free : s.ras.busy = 0) :
    exec (.laneRestore n p l) s = .next (laneTest (ctrlWritten s (laneCtrl p l)) p l) := by
  obtain ⟨value, op, port, lane, kind, all, small⟩ := laneCtrl_fields p l
  rw [exec_laneRestore, value, hostReg_errCtrl h small, errCtrlWrite_laneRestore free op kind (lane ▸ l.isLt), port, lane, all,
    slotNote_of_none rfl]

end

theorem laneTest_begins {s : State} {p l : Nat} (down : (getPort s p).st = 0) (retired : (getPort s p).retired.getLsbD l = true) :
    laneTest s p l = setRas (setPort s p { getPort s p with st := 5, identAt := none }) { s.ras with busy := 1, opAt := s.now } := by
  simp [laneTest, down, retired]

theorem laneTest_begun {s : State} {p l : Nat} (known : p < s.ring.ports.length) (down : (getPort s p).st = 0)
    (retired : (getPort s p).retired.getLsbD l = true) : let t := laneTest s p l
    getPort t p = { getPort s p with st := 5, identAt := none } ∧ t.ras = { s.ras with busy := 1, opAt := s.now } ∧
    ∀ q, p ≠ q → getPort t q = getPort s q := by
  rw [laneTest_begins down retired]
  exact ⟨getPort_setPort known _, rfl, fun q other => getPort_setPort_ne other _⟩

theorem laneTest_refuses {s : State} {p l : Nat} (up : (getPort s p).st = 2) : laneTest s p l = errStatus s Code.badArgument := by
  simp [laneTest, up]

/-- A lane's test ends: the state of the port, and ERR_CTRL free again. -/
def laneTestEnded (s : State) (p : Nat) (x : PortSt) (code : Status) : State :=
  setRas (setPort s p x) { s.ras with busy := 0, ctrlStatus := code }

theorem errDone_lane {s : State} (testing : s.ras.busy = 1) (p : Nat) (x : PortSt) (code : Status) :
    errDone (setPort s p x) 1 code = laneTestEnded s p x code := by
  have ras : (setPort s p x).ras = s.ras := by rw [setPort_eq]
  rw [errDone, ras, if_pos testing]
  rfl

theorem laneTestEnded_port {s : State} {p : Nat} (known : p < s.ring.ports.length) (x : PortSt) (code : Status) :
    getPort (laneTestEnded s p x code) p = x ∧
    (laneTestEnded s p x code).ras = { s.ras with busy := 0, ctrlStatus := code } := ⟨getPort_setPort known x, rfl⟩

section
variable {s : State} {p : Port} {l : Fin 13} {errors : Nat} (testing : s.ras.busy = 1)
  (ctrl : s.ras.ctrl = BitVec.ofNat 64 (laneCtrl p l)) (due : s.ras.opAt + 60000 * ms ≤ s.now)
include testing ctrl due

theorem laneTested_due : laneTested s errors =
    let y := { getPort s p with st := 0 }
    let z := { y with retired := y.retired &&& ~~~(1#13 <<< l.val) }
    if 12 < errors then laneTestEnded s p y Code.berFail
    else laneTestEnded s p (if (getPort s p).map.contains 12 then { z with spare := l.val, spareUsed := false } else z) Code.ok := by
  obtain ⟨-, -, port, lane, -, -, small⟩ := laneCtrl_fields p l
  have word : s.ras.ctrl.toNat = laneCtrl p l := by
    rw [ctrl, BitVec.toNat_ofNat]
    exact Nat.mod_eq_of_lt (by omega)
  have ended : ¬ (s.ras.busy ≠ 1 ∨ s.now < s.ras.opAt + 60000 * ms) := by omega
  rw [laneTested, if_neg ended, word, port, lane]
  simp only [errDone_lane testing]

theorem laneTested_fails (known : p.val < s.ring.ports.length) (bad : 12 < errors) : let t := laneTested s errors
    (getPort t p).st = 0 ∧ (getPort t p).retired = (getPort s p).retired ∧
    t.ras = { s.ras with busy := 0, ctrlStatus := Code.berFail } := by
  have ended := laneTestEnded_port known { getPort s p with st := 0 } Code.berFail
  rw [laneTested_due testing ctrl due]
  dsimp only
  rw [if_pos bad, ended.1, ended.2]
  exact ⟨rfl, rfl, rfl⟩

theorem laneTested_rejoins (known : p.val < s.ring.ports.length) (good : errors ≤ 12) : let t := laneTested s errors
    (getPort t p).st = 0 ∧ (getPort t p).retired = (getPort s p).retired &&& ~~~(1#13 <<< l.val) ∧
    t.ras = { s.ras with busy := 0, ctrlStatus := Code.ok } := by
  rw [laneTested_due testing ctrl due]
  dsimp only
  rw [if_neg (Nat.not_lt.2 good), (laneTestEnded_port known ..).1, (laneTestEnded_port known ..).2]
  split <;> exact ⟨rfl, rfl, rfl⟩

end

/-! ### SPARE_TEST, R413 -/

theorem exec_spareTest_slot (n : Slot) (s : State) : exec (.spareTest (some n)) s = hostReg s n 0xD00050 2 := rfl

theorem exec_spareTest_due (s : State) : exec (.spareTest none) s = .next (spareTestDue s) := rfl

theorem exec_spareTestComplete (a b : Bool) (s : State) : exec (.spareTestComplete a b) s = .next (spareTested s a b) := rfl

theorem anyHeld_of {s : State} (dies : s.dies.length = 2) (held : (nth {} s.dies 0).held = true) : anyHeld s = true := by
  refine List.any_eq_true.2 ⟨nth {} s.dies 0, ?_, held⟩
  rw [nth, List.getD_eq_getElem _ _ (by omega)]
  exact List.getElem_mem _

theorem exec_spareTest_takes {s : State} {n : Slot} (h : OwnerAnswers s n) (free : s.ras.busy = 0) (held : anyHeld s = true) :
    exec (.spareTest (some n)) s = .next { s with ras := { s.ras with ctrl := 2, busy := 2, testing := true } } := by
  have taken : errCtrlWrite s 2 = (none, spareTestOp (ctrlWritten s 2)) := by simp [errCtrlWrite, free, bits, ctrlWritten]
  have still : anyHeld (ctrlWritten s 2) = true := held
  rw [exec_spareTest_slot, hostReg_errCtrl h (by decide), taken, slotNote_of_none rfl, spareTestOp, if_pos still]
  rfl

theorem spareTestDue_begins {s : State} (ready : isReady s = true) (due : s.ras.testHour + 24 ≤ poweredHours s)
    (held : anyHeld s = true) : spareTestDue s = { s with ras := { s.ras with testHour := poweredHours s, testing := true } } := by
  simp [spareTestDue, ready, Nat.not_lt.2 due, held, setRas]

theorem spareFails_passed (s : State) (d : Nat) : spareFails s d true = s := rfl

theorem spareFails_failed {s : State} {d : Nat} (held : (nth {} s.dies d).held = true) : spareFails s d false =
    noteRas { s with
      dies := s.dies.set d { nth {} s.dies d with held := false, reason := 2 }
      remapLog := s.remapLog ++ [(d, (nth {} s.dies d).oos, Code.spareTestFailed, poweredHours s)] }
      Code.spareTestFailed (4 * d) (nth {} s.dies d).oos := by
  simp [spareFails, held]

theorem spareFails_ras (s : State) (d : Nat) (pass : Bool) : (spareFails s d pass).ras = s.ras := by
  unfold spareFails
  dsimp only
  split
  · rfl
  · rw [noteRas_ras]

/-- R413: an operation's test that no unit fault has waited for ends with its status. -/
theorem spareTested_operation {s : State} (testing : s.ras.testing = true) (busy : s.ras.busy = 2) (waiting : s.ras.heldFaults = [])
    (a b : Bool) : spareTested s a b = { spareFails (spareFails s 0 a) 1 b with ras := { s.ras with
      testing := false, busy := 0
      ctrlStatus := if (!a && (nth {} s.dies 0).held) || (!b && (nth {} s.dies 1).held) then Code.spareTestFailed else Code.ok } } := by
  simp only [spareTested, testing, waiting, List.foldl_nil, errDone, setRas, spareFails_ras, busy]
  simp

/-- Settles O34: each clause is one outcome of LANE_RESTORE, of SPARE_TEST, or of what ends them. -/
theorem errorControl : Obligations.ErrorControl := by
  intro s n p l errors owns ports dies
  have known : p.val < s.ring.ports.length := by omega
  have ready := owns.1.1
  refine ⟨fun busy => ends_eq (exec_laneRestore_busy owns p l busy), 
    fun free down retired => ⟨_, exec_laneRestore_takes owns p l free, ?_⟩, fun free up => ends_eq ?_,
    fun testing ctrl due => ⟨fun bad => ⟨_, exec_laneRestoreEnd errors s, laneTested_fails testing ctrl due known bad⟩,
      fun good => ⟨_, exec_laneRestoreEnd errors s, laneTested_rejoins testing ctrl due known good⟩⟩,
    fun free held => ends_eq (exec_spareTest_takes owns free (anyHeld_of dies held)), fun due held => ends_eq ?_,
    fun testing busy waiting => ends_eq ?_, fun testing busy waiting held => ⟨_, exec_spareTestComplete false true s, ?_⟩⟩
  · obtain ⟨port, ras, others⟩ := laneTest_begun (s := ctrlWritten s (laneCtrl p l)) known down retired
    exact ⟨port, ras, fun q other => others q (Fin.val_ne_of_ne other.symm)⟩
  · rw [exec_laneRestore_takes owns p l free, laneTest_refuses (by exact up)]
    rfl
  · rw [exec_spareTest_due, spareTestDue_begins ready due (anyHeld_of dies held)]
  · rw [exec_spareTestComplete, spareTested_operation testing busy waiting]
    rfl
  · rw [spareTested_operation testing busy waiting, spareFails_failed held, spareFails_passed, noteRas_eq, held]
    refine ⟨?_, ?_, rfl, rfl, ?_⟩
    · show nth {} (s.dies.set 0 _) 0 = _
      simp [nth, dies]
    · show nth {} (s.dies.set 0 _) 1 = _
      simp [nth, dies]
    · simp only [Nat.mul_zero, Nat.zero_add]

end Sys2Proof.Machine
end

section
/-! PROOF. The statements about the whole machine: every command answers (O2), the state at time zero has its form (O4), and what its
registers read (O3). -/

namespace Sys2Proof.Machine

/-- Settles O2: `exec` ends in a next state in the arm of every command; the three commands whose arms look at an operand are split on it. -/
theorem everyCommandAnswers : Obligations.EveryCommandAnswers := by
  intro c s
  cases c
  case programQueueTailWrite slot page q tail => cases page <;> exact ⟨_, rfl⟩
  case spareTest slot => cases slot <;> exact ⟨_, rfl⟩
  case locate slot on => cases slot <;> exact ⟨_, rfl⟩
  all_goals exact ⟨_, rfl⟩

theorem reset_sized : Sized State.reset := by decide

theorem reset_canonical : Canonical State.reset := by decide

/-- Settles O4, by evaluating both predicates on the reset state. -/
theorem resetKeepsForm : Obligations.ResetKeepsForm := ⟨reset_sized, reset_canonical⟩

/-- Settles O3: the tables of reset values and the clocks are finite and evaluated; the idle state is read off `State.reset`. -/
theorem resetValues : Obligations.ResetValues := ⟨by decide, rfl, rfl, rfl, rfl, by decide⟩

end Sys2Proof.Machine
end
